-- ==== Sys2Proof/Word.lean ====
section
/-!
DEFINITION. Word.lean: the word types of Asgil and nothing else (00 R9, R10; 01 R28).
-/
namespace Sys2Proof

/-- One byte. -/
abbrev Byte := BitVec 8

/-- A 64-bit word: an S token (07 R144), an instruction word (02 R34), a literal, an address token. -/
abbrev Word := BitVec 64

/-- A lane of a V token or a v register: 1,024 bits (05 R109). -/
abbrev LaneBits := BitVec 1024

/-- A lane of a K token or a k register: 128 bits, one for each byte of the lane (05 R110). -/
abbrev MaskBits := BitVec 128

/-- One value for each of the lanes 0 to 7 (07 R144). -/
structure Lanes (α : Type) where
  l0 : α
  l1 : α
  l2 : α
  l3 : α
  l4 : α
  l5 : α
  l6 : α
  l7 : α
deriving DecidableEq, Repr

end Sys2Proof
end

