-- ==== Sys2Proof/Machine/Bits.lean ====
section
/-!
DEFINITION. Machine/Bits.lean: bit fields, extension, byte order and list helpers (01 R28, 02 R31).
-/
namespace Sys2Proof.Machine

/-- `v[lo+len-1 : lo]` as a number (01 R28). -/
def bitsN {n : Nat} (w : BitVec n) (lo len : Nat) : Nat := (w.toNat >>> lo) % 2 ^ len

/-- One bit. -/
def bitN {n : Nat} (w : BitVec n) (i : Nat) : Bool := w.getLsbD i

/-- `sext(v, w)` of a w-bit value as an integer (01 R28). -/
def sextN (v w : Nat) : Int :=
  let u := v % 2 ^ w
  if w = 0 then 0 else if u < 2 ^ (w - 1) then (u : Int) else (u : Int) - 2 ^ w

/-- `trunc(v, w)` of an integer (01 R28). -/
def truncI (v : Int) (w : Nat) : Nat := (v.emod (2 ^ w : Nat)).toNat

/-- A word of an integer, truncated to 64 bits. -/
def wordI (v : Int) : Word := BitVec.ofInt 64 v

/-- A word of a number. -/
def wordN (v : Nat) : Word := BitVec.ofNat 64 v

/-- The low `k` bytes of a number, lowest first (little-endian, 02 R31). -/
def bytesOf : Nat → Nat → List Byte
  | _, 0 => []
  | v, k + 1 => BitVec.ofNat 8 v :: bytesOf (v / 256) k

/-- The number whose little-endian bytes are given (02 R31). -/
def ofBytes : List Byte → Nat
  | [] => 0
  | b :: bs => b.toNat + 256 * ofBytes bs

/-- Cuts a list into pieces of `k`, `n` of them. -/
def chop {α : Type} (k : Nat) : Nat → List α → List (List α)
  | 0, _ => []
  | n + 1, l => l.take k :: chop k n (l.drop k)

/-- Bytes of a list of words. -/
def wordsBytes (ws : List Word) : List Byte := ws.flatMap fun w => bytesOf w.toNat 8

/-- The words of a list of bytes, `n` of them. -/
def bytesWords (n : Nat) (bs : List Byte) : List Word := (chop 8 n bs).map fun b => wordN (ofBytes b)

/-- Replaces element `i` by `f` of it. -/
def updAt {α : Type} : List α → Nat → (α → α) → List α
  | [], _, _ => []
  | a :: as, 0, f => f a :: as
  | a :: as, i + 1, f => a :: updAt as i f

/-- Replaces the first element that satisfies `p` by `f` of it. -/
def updFirst {α : Type} (p : α → Bool) (f : α → α) : List α → List α
  | [] => []
  | a :: as => if p a then f a :: as else a :: updFirst p f as

/-- Inserts a key before the first key that does not precede it. -/
def insertBy {α : Type} (lt : α → α → Bool) (a : α) : List α → List α
  | [] => [a]
  | b :: bs => if lt b a then b :: insertBy lt a bs else a :: b :: bs

/-- A stable sort: an element goes after those that do not follow it. -/
def sortBy {α : Type} (lt : α → α → Bool) : List α → List α
  | [] => []
  | a :: as => insertBy (fun b x => lt b x) a (sortBy lt as)

/-- Rounds up to a multiple of `k`. -/
def roundUp (n k : Nat) : Nat := if k = 0 then n else (n + k - 1) / k * k

/-- Sum of a list of numbers. -/
def sumN (l : List Nat) : Nat := l.foldl (· + ·) 0

/-- The bits of a number, `n` of them, lowest first. -/
def boolsOf (v n : Nat) : List Bool := (List.range n).map fun i => Nat.testBit v i

/-- Sets or clears bit `i` of a word. -/
def putBit (w : Word) (i : Nat) (b : Bool) : Word :=
  if b then w ||| wordN (2 ^ i) else w &&& ~~~(wordN (2 ^ i))

/-- Replaces field `[lo+len-1 : lo]` of a word. -/
def putBits (w : Word) (lo len v : Nat) : Word :=
  (w &&& ~~~(wordN ((2 ^ len - 1) * 2 ^ lo))) ||| wordN ((v % 2 ^ len) * 2 ^ lo)

end Sys2Proof.Machine
end

