-- ==== Sys2Proof/Syntax.lean ====
section
/-!
DEFINITION. Syntax.lean: the steps of Asgil as syntax, one constructor for each row of spec/opcode_table.json:
the tile instructions (02 R41 to R48), the Rein instructions (19 R342, R343) and the indivisible steps of the
device's other agents (95). Operands are named; no encoding stands here.
-/
namespace Sys2Proof

/-! ## Operands of the tile instructions -/

/-- The integer element types, T in the integer family (02 R35). -/
inductive ITy where
  | s8 | s16 | s32 | s64 | n8 | n16 | n32 | n64
deriving DecidableEq, Repr

/-- The floating element types, T in the floating family (02 R35). -/
inductive FTy where
  | f64 | f32 | f16 | bf16 | e4m3 | e5m2 | e2m1
deriving DecidableEq, Repr

/-- An element type of either family. -/
inductive ETy where
  | i (t : ITy)
  | f (t : FTy)
deriving DecidableEq, Repr

/-- The four token slots of an instruction (07 R143). -/
inductive Slot where
  | l | r | t | g
deriving DecidableEq, Repr

/-- A target byte (02 R37): a slot of an instruction of the block, or no target. -/
inductive Tgt where
  | off
  | to (s : Slot) (j : BitVec 5)
deriving DecidableEq, Repr

/-- The guard fields (02 R36); `pol` true is the polarity `!`. -/
inductive Guard where
  | off
  | any (pol : Bool)
  | all (pol : Bool)
deriving DecidableEq, Repr

/-- What every guardable instruction word carries beside its operands (02 R34): guard and two targets. -/
structure Ctl where
  guard : Guard
  t0 : Tgt
  t1 : Tgt
deriving DecidableEq, Repr

/-- A register that READ accepts (04 R87). -/
inductive RReg where
  | x (n : BitVec 5)
  | v (n : BitVec 5)
  | p (n : BitVec 3)
  | k (n : BitVec 3)
  | s (n : BitVec 3)
deriving DecidableEq, Repr

/-- A register that WRITE accepts (04 R89). -/
inductive WReg where
  | x (n : BitVec 5)
  | v (n : BitVec 5)
  | p (n : BitVec 3)
  | k (n : BitVec 3)
deriving DecidableEq, Repr

/-- The system registers in the order of 01 R23, 12 R254. -/
inductive SysReg where
  | tile | slot | lanes | gang | task | ctx | cycle | cause | faultva | fpflags | fptrap | seed
deriving DecidableEq, Repr

/-- The system registers SWR accepts (12 R253). -/
inductive SwReg where
  | fpflags | fptrap | seed
deriving DecidableEq, Repr

/-- The forms of a scalar or compare cell (02 R41): producer, immediate, literal. -/
inductive SForm where
  | p
  | i (imm : BitVec 32)
  | l (lit : BitVec 4)
deriving DecidableEq, Repr

/-- The forms of a scalar cell that takes .sat; the immediate form carries no modifiers (04 R94). -/
inductive SatForm where
  | p (sat : Bool)
  | i (imm : BitVec 32)
  | l (lit : BitVec 4) (sat : Bool)
deriving DecidableEq, Repr

/-- The forms of MAD (02 R43). -/
inductive MadForm where
  | p (sat : Bool)
  | l (lit : BitVec 4) (sat : Bool)
deriving DecidableEq, Repr

/-- The forms of BFX and BFI (02 R43). -/
inductive BfForm where
  | p
  | i (imm : BitVec 32)
deriving DecidableEq, Repr

/-- The compare conditions (01 R24). -/
inductive Cond where
  | eq | ne | lt | le | gt | ge
deriving DecidableEq, Repr

/-- The forms of a vector cell (05 R112). -/
inductive VForm where
  | v
  | s
  | l (lit : BitVec 4)
deriving DecidableEq, Repr

/-- Rounding modes (02 R39). -/
inductive Rnd where
  | rne | rz | ru | rd | sr
deriving DecidableEq, Repr

/-- Mask uses (02 R39). -/
inductive MaskUse where
  | none | zero | keep
deriving DecidableEq, Repr

/-- The modifiers of FV and FL that most vector instructions share (02 R39). -/
structure VMods where
  rnd : Rnd
  sat : Bool
  mask : MaskUse
deriving DecidableEq, Repr

/-- The reduction kinds (02 R39). -/
inductive Red where
  | sum | min | max
deriving DecidableEq, Repr

/-- The scopes (02 R40). -/
inductive Scope where
  | slot | tile | die | pkg | pod | sys
deriving DecidableEq, Repr

/-- The memory orders of the AMO cells (02 R41). -/
inductive Order where
  | rlx | acq | rel | acqrel
deriving DecidableEq, Repr

/-- The orders of FENCE (02 R46). -/
inductive FOrder where
  | acq | rel | acqrel
deriving DecidableEq, Repr

/-- FM fields of LD, ST, LDV, STV and the AMOs (12 R237). -/
structure MemOps where
  lsid : BitVec 5
  scope : Scope
  off : BitVec 24
deriving DecidableEq, Repr

/-- FM fields of MMA, MMA.G and MMAS (08 R166): a ring operand is named, a slot operand is none. -/
structure MmaOps where
  lsid : BitVec 5
  arrive : Bool
  qa : Option (BitVec 3)
  qb : Option (BitVec 3)
  acc : BitVec 4
  kq : BitVec 4
deriving DecidableEq, Repr

/-- The output types of MST (08 R172). -/
inductive OTy where
  | f32 | bf16 | f16 | e4m3 | e5m2
deriving DecidableEq, Repr

/-- FM fields of MST (08 R172). -/
structure MstOps where
  lsid : BitVec 5
  credit : Bool
  out : Bool
  relu : Bool
  acc : BitVec 4
  ot : OTy
  rnd : Rnd
  sat : Bool
  pitch : BitVec 13
deriving DecidableEq, Repr

/-- FM fields of the copies (08 R179); a copy that takes no `out` or no bytes has them false and zero. -/
structure CpyOps where
  lsid : BitVec 5
  credit : Bool
  ring : Option (BitVec 3)
  out : Bool
  bytes : BitVec 12
deriving DecidableEq, Repr

/-- The kinds of SBIND with the fields each uses (08 R189). -/
inductive SKind where
  | mem (v out : Bool) (stride : BitVec 16)
  | edge (v : Bool) (bind : BitVec 3)
  | rein (v : Bool)
deriving DecidableEq, Repr

/-- ALLOC's place (12 R244). -/
inductive APlace where
  | home | spread | tier1
deriving DecidableEq, Repr

/-- Page sizes (12 R246, 14 R260). -/
inductive PgSize where
  | k64 | m2 | g1
deriving DecidableEq, Repr

/-- PEER kinds; only `.child` uses the C register (19 R348). -/
inductive PeerKind where
  | ring | xor | parent
  | child (c : BitVec 4)
deriving DecidableEq, Repr

/-! ## Operands of the events -/

/-- A slot of a tile of a die (00 R5, R10). -/
structure Place where
  die : Nat
  tile : Nat
  slot : Nat
deriving DecidableEq, Repr

/-- The kinds of access of a trap record (14 R277). -/
inductive Access where
  | none | load | store | atomic | fetch | engineRead | engineWrite | pageCommand
deriving DecidableEq, Repr

/-- Where a poisoned byte lies (14 R272): a physical 64-byte granule at its home or in a die's foreign copy, a granule of a
group's window. -/
inductive PoisonAt where
  | phys (granule : Nat)
  | copy (die granule : Nat)
  | scratch (p : Place) (window granule : Nat)
deriving DecidableEq, Repr

/-- An uncorrectable error in memory (14 R272, R274): its place and the unit it lies in, if it lies in one that is counted. -/
structure PoisonHit where
  place : PoisonAt
  unit : Option Word
deriving DecidableEq, Repr

/-- An uncorrectable error in a group's state (14 R273, R274): whether the state is committed, and the unit it lies in. -/
structure StateHit where
  committed : Bool
  unit : Option Word
deriving DecidableEq, Repr

/-- What an instruction of another package asks of a record of this one (15 R286, R289, R297): the checks alone, a hold of
units of its counter, a claim on a parked group; and what follows at its block's end: the claimed command, or nothing. Log 113 (DESIGN CHOICE). -/
inductive PodAsk where
  | check
  | hold (n : Nat)
  | claim (rank : Nat) (kill : Bool)
  | perform
  | drop
deriving DecidableEq, Repr

/-- Who probes a record (15 R286): a group's block, or another package, with its job, the handle and what it asks. The
instruction itself has a number beside it: its node in the block, or the other package's own key. -/
inductive Prober where
  | own (p : Place)
  | pod (pkg job : Nat) (h : Word) (ask : PodAsk)
deriving DecidableEq, Repr

/-- A prefetch: a binding of a task record, or a binding of a group's RELAY.PREP. -/
inductive Prefetch where
  | task (die idx b : Nat)
  | prep (p : Place) (b : Nat)
deriving DecidableEq, Repr

/-- A decrement message (17 R319): handle, amount, fail cause if it is a failure decrement, the sender's job
tag, its package and its issue number, and the key of the hold that it takes the place of, if it is a TDEC's (15 R289). Log 113 (DESIGN CHOICE). -/
structure DecMsg where
  handle : Word
  n : Nat
  fail : Option Nat
  tag : Nat
  pkg : Nat
  seq : Nat
  hold : Option Nat
deriving DecidableEq, Repr

/-- A chunk on a link (19 R340, 21 R369); `bad` lists the positions of its poisoned bytes (14 R272). Log 59 (DEDUCED). -/
structure Chunk where
  job : Nat
  id : Nat
  n : Nat
  rank : Nat
  seq : Nat
  offset : Nat
  bytes : List Byte
  bad : List Nat
  crc : BitVec 32
  pkg : Nat
  die : Nat
  peer : Nat
deriving DecidableEq, Repr

/-- The name of one chunk or signal at its sender: die, job tag, collective id, instance, peer rank, sequence number,
whether it is a signal, and the package of the peer. Log 59 (DEDUCED). -/
structure ChunkName where
  die : Nat
  job : Nat
  id : Nat
  n : Nat
  peer : Nat
  seq : Nat
  sig : Bool
  pkg : Nat
deriving DecidableEq, Repr

/-- A Rein signal on its way to a rank of a die (19 R351): job tag, collective, instance and the sender's rank, then the
sender's number for it, package and die, and the rank it goes to. Log 59 (DEDUCED); 60 (DEDUCED). -/
structure SignalMsg where
  die : Nat
  job : Nat
  id : Nat
  n : Nat
  rank : Nat
  seq : Nat
  pkg : Nat
  src : Nat
  peer : Nat
deriving DecidableEq, Repr

/-- An abort on its way to a rank of a die, from a package (19 R360). -/
structure RankMsg where
  die : Nat
  job : Nat
  id : Nat
  n : Nat
  rank : Nat
  pkg : Nat
deriving DecidableEq, Repr

/-- A Bridle datagram from the host (22 R392): four header words, the payload, its source. -/
structure BridleMsg where
  h0 : Word
  h1 : Word
  h2 : Word
  h3 : Word
  payload : List Word
  ip : Nat
  port : Nat
deriving DecidableEq, Repr

/-- What another package asks of a frame of this one (22 R401): a read, a write with a byte mask, an atomic; and that its
tables map so many frames from that one on, or no longer do (14 R262). Log 101 (DEDUCED). -/
inductive RemoteOp where
  | read (n : Nat)
  | write (bytes : List (Option Byte))
  | amo (op : Nat) (t : ITy) (v cmp : Word)
  | maps (frames : Nat) (on : Bool)
deriving DecidableEq, Repr

/-- What a mirror message carries (22 R402): a package's record (no words: it is free), decrement applied or durable bytes;
or what a buddy holds of a failed package, handed to its spare. -/
inductive Mirror where
  | record (pkg die idx : Nat) (words : List Word)
  | applied (pkg sender seq : Nat)
  | write (pkg addr : Nat) (bytes : List Byte)
  | handed (src : Nat) (m : Mirror)
deriving DecidableEq, Repr

/-! ## The steps -/

/-- One step of an agent: a tile instruction, a Rein instruction or an event. Log 2 (DESIGN CHOICE). -/
inductive Instr where
  -- block and data movement (04 R86)
  | read (c : Ctl) (t : ITy) (r : RReg)
  | write (c : Ctl) (t : ITy) (r : WReg)
  | mov (c : Ctl) (t : ITy)
  | fan (t : ITy) (t0 t1 t2 t3 : Tgt)
  | movi (c : Ctl) (t : ITy) (imm : BitVec 32)
  | movl (c : Ctl) (t : ITy) (lit : BitVec 4)
  | void (t : ITy) (t0 t1 : Tgt)
  | sel (c : Ctl) (t : ITy)
  -- scalar integer and address (04 R95)
  | add (c : Ctl) (t : ITy) (f : SatForm)
  | sub (c : Ctl) (t : ITy) (f : SatForm)
  | mul (c : Ctl) (t : ITy) (f : SatForm)
  | mulh (c : Ctl) (t : ITy) (f : SForm)
  | mad (c : Ctl) (t : ITy) (f : MadForm)
  | div (c : Ctl) (t : ITy) (f : SatForm)
  | rem (c : Ctl) (t : ITy) (f : SatForm)
  | neg (c : Ctl) (t : ITy) (sat : Bool)
  | abs (c : Ctl) (t : ITy) (sat : Bool)
  | min (c : Ctl) (t : ITy) (f : SForm)
  | max (c : Ctl) (t : ITy) (f : SForm)
  | and (c : Ctl) (t : ITy) (f : SForm)
  | or (c : Ctl) (t : ITy) (f : SForm)
  | xor (c : Ctl) (t : ITy) (f : SForm)
  | not (c : Ctl) (t : ITy)
  | shl (c : Ctl) (t : ITy) (f : SForm)
  | shr (c : Ctl) (t : ITy) (f : SForm)
  | sra (c : Ctl) (t : ITy) (f : SForm)
  | rot (c : Ctl) (t : ITy) (f : SForm)
  | clz (c : Ctl) (t : ITy)
  | popc (c : Ctl) (t : ITy)
  | bfx (c : Ctl) (t : ITy) (f : BfForm)
  | bfi (c : Ctl) (t : ITy) (f : BfForm)
  | lea (c : Ctl) (t : ITy) (f : SForm)
  | sext (c : Ctl) (t : ITy)
  | zext (c : Ctl) (t : ITy)
  -- compare and predicate (04 R97, R98)
  | cmp (c : Ctl) (cond : Cond) (t : ITy) (f : SForm)
  | pand (c : Ctl)
  | por (c : Ctl)
  | pxor (c : Ctl)
  | pnot (c : Ctl)
  | plane (c : Ctl) (imm : BitVec 8)
  | pcount (c : Ctl)
  -- control (04 R100)
  | br (c : Ctl)
  | bri (c : Ctl) (off : BitVec 32)
  | call (c : Ctl) (off : BitVec 32)
  | ret (c : Ctl)
  | endg (c : Ctl)
  | trap (c : Ctl) (n : BitVec 6)
  -- vector, mask and special function (05 R115)
  | vadd (c : Ctl) (t : ETy) (f : VForm) (m : VMods)
  | vsub (c : Ctl) (t : ETy) (f : VForm) (m : VMods)
  | vmul (c : Ctl) (t : ETy) (f : VForm) (m : VMods)
  | vdiv (c : Ctl) (t : FTy) (f : VForm) (m : VMods)
  | vmin (c : Ctl) (t : ETy) (f : VForm) (mask : MaskUse)
  | vmax (c : Ctl) (t : ETy) (f : VForm) (mask : MaskUse)
  | vand (c : Ctl) (t : ITy) (f : VForm) (mask : MaskUse)
  | vor (c : Ctl) (t : ITy) (f : VForm) (mask : MaskUse)
  | vxor (c : Ctl) (t : ITy) (f : VForm) (mask : MaskUse)
  | vshl (c : Ctl) (t : ITy) (f : VForm) (mask : MaskUse)
  | vshr (c : Ctl) (t : ITy) (f : VForm) (mask : MaskUse)
  | vsra (c : Ctl) (t : ITy) (f : VForm) (mask : MaskUse)
  | vcmp (c : Ctl) (cond : Cond) (t : ETy) (f : VForm) (mask : MaskUse)
  | vfma (c : Ctl) (t : FTy) (rnd : Rnd) (sat : Bool)
  | vabs (c : Ctl) (t : ETy) (sat : Bool) (mask : MaskUse)
  | vneg (c : Ctl) (t : ETy) (sat : Bool) (mask : MaskUse)
  | vnot (c : Ctl) (t : ITy) (mask : MaskUse)
  | vsel (c : Ctl) (t : ITy)
  | vcvt (c : Ctl) (dst src : ETy) (m : VMods)
  | vsqrt (c : Ctl) (t : FTy) (m : VMods)
  | vrcp (c : Ctl) (t : FTy) (m : VMods)
  | vrsqrte (c : Ctl) (t : FTy) (mask : MaskUse)
  | vexp2 (c : Ctl) (t : FTy) (m : VMods)
  | vlog2 (c : Ctl) (t : FTy) (m : VMods)
  | vtanh (c : Ctl) (t : FTy) (mask : MaskUse)
  | vreduce (c : Ctl) (t : ETy) (kind : Red) (m : VMods)
  | vscan (c : Ctl) (t : ETy) (kind : Red) (m : VMods)
  | vperm (c : Ctl) (t : ITy) (mask : MaskUse)
  | vxlane (c : Ctl) (t : ITy)
  | vbcast (c : Ctl) (t : ITy) (mask : MaskUse)
  | vextr (c : Ctl) (t : ITy)
  | vins (c : Ctl) (t : ITy)
  | viota (c : Ctl) (t : ITy) (mask : MaskUse)
  | vsortk (c : Ctl) (t : ETy) (mask : MaskUse)
  | vmerge (c : Ctl) (t : ETy)
  | kany (c : Ctl) (t : ITy)
  | kall (c : Ctl) (t : ITy)
  | kpop (c : Ctl) (t : ITy)
  -- matrix (08 R166 to R172)
  | mma (c : Ctl) (t : FTy) (o : MmaOps)
  | mmaG (c : Ctl) (t : FTy) (o : MmaOps)
  | mmas (c : Ctl) (t : FTy) (o : MmaOps)
  | mzero (c : Ctl) (lsid : BitVec 5) (accs : BitVec 16)
  | mld (c : Ctl) (lsid : BitVec 5) (acc : BitVec 4)
  | mst (c : Ctl) (o : MstOps)
  -- rings (08 R176 to R178)
  | qinit (c : Ctl) (lsid : BitVec 5) (q : BitVec 3) (entry : BitVec 10) (cexp : BitVec 4)
  | qpush (c : Ctl) (lsid : BitVec 5) (q : BitVec 3)
  | qpop (c : Ctl) (lsid : BitVec 5) (q : BitVec 3)
  | qstat (c : Ctl) (lsid : BitVec 5) (q : BitVec 3)
  -- copies (08 R179 to R183)
  | cpy (c : Ctl) (o : CpyOps)
  | cpyS (c : Ctl) (o : CpyOps)
  | cpy2d (c : Ctl) (o : CpyOps)
  | cpyPeer (c : Ctl) (o : CpyOps)
  | cpyMc (c : Ctl) (o : CpyOps)
  | cpyg (c : Ctl) (o : CpyOps)
  | pref (c : Ctl) (lsid : BitVec 5) (bytes : BitVec 12)
  -- barriers (08 R185)
  | binit (c : Ctl) (lsid : BitVec 5) (off : BitVec 24)
  | bexpect (c : Ctl) (lsid : BitVec 5) (off : BitVec 24)
  | barrive (c : Ctl) (lsid : BitVec 5) (off : BitVec 24)
  | bwait (c : Ctl) (lsid : BitVec 5) (off : BitVec 24)
  | btest (c : Ctl) (lsid : BitVec 5) (off : BitVec 24)
  -- streams (08 R189 to R192)
  | sbind (c : Ctl) (lsid : BitVec 5) (s : BitVec 3) (kind : SKind)
  | semit (c : Ctl) (t : ITy) (lsid : BitVec 5) (s : BitVec 3)
  | sunbind (c : Ctl) (lsid : BitVec 5) (s : BitVec 3)
  | sst (c : Ctl) (lsid : BitVec 5) (s : BitVec 3)
  -- scratch (08 R193)
  | lds (c : Ctl) (t : ITy) (lsid : BitVec 5) (vec : Bool) (off : BitVec 24)
  | sts (c : Ctl) (t : ITy) (lsid : BitVec 5) (vec : Bool) (off : BitVec 24)
  -- global memory (12 R238 to R242)
  | ld (c : Ctl) (t : ITy) (acq : Bool) (o : MemOps)
  | st (c : Ctl) (t : ITy) (rel : Bool) (o : MemOps)
  | ldv (c : Ctl) (t : ITy) (acq : Bool) (o : MemOps)
  | stv (c : Ctl) (t : ITy) (rel : Bool) (o : MemOps)
  | gather (c : Ctl) (t : ITy) (lsid : BitVec 5) (mask : Bool) (off : BitVec 24)
  | scatter (c : Ctl) (t : ITy) (lsid : BitVec 5) (off : BitVec 24)
  | amoAdd (c : Ctl) (t : ITy) (ord : Order) (o : MemOps)
  | amoMin (c : Ctl) (t : ITy) (ord : Order) (o : MemOps)
  | amoMax (c : Ctl) (t : ITy) (ord : Order) (o : MemOps)
  | amoAnd (c : Ctl) (t : ITy) (ord : Order) (o : MemOps)
  | amoOr (c : Ctl) (t : ITy) (ord : Order) (o : MemOps)
  | amoXor (c : Ctl) (t : ITy) (ord : Order) (o : MemOps)
  | amoSwap (c : Ctl) (t : ITy) (ord : Order) (o : MemOps)
  | amoCas (c : Ctl) (t : ITy) (ord : Order) (o : MemOps)
  | fence (c : Ctl) (lsid : BitVec 5) (ord : FOrder) (scope : Scope)
  -- allocation, page state, system (12 R244 to R253)
  | alloc (c : Ctl) (lsid : BitVec 5) (place : APlace) (j : BitVec 6)
  | free (c : Ctl) (lsid : BitVec 5)
  | vcommit (c : Ctl) (lsid : BitVec 5) (sz : PgSize)
  | vdecommit (c : Ctl) (lsid : BitVec 5) (sz : PgSize)
  | vquery (c : Ctl) (lsid : BitVec 5)
  | vmigrate (c : Ctl) (lsid : BitVec 5) (tier1 : Bool) (place : BitVec 2) (arrive : Bool) (sz : PgSize)
  | pin (c : Ctl) (lsid : BitVec 5) (sz : PgSize)
  | unpin (c : Ctl) (lsid : BitVec 5) (sz : PgSize)
  | srd (c : Ctl) (r : SysReg)
  | swr (c : Ctl) (lsid : BitVec 5) (r : SwReg)
  -- tasks and relay (15 R285)
  | tspawn (c : Ctl) (lsid : BitVec 5) (given : Bool) (d : BitVec 2)
  | tdec (c : Ctl) (lsid : BitVec 5) (n : BitVec 16)
  | tinst (c : Ctl) (lsid : BitVec 5) (id : BitVec 12)
  | tstat (c : Ctl) (lsid : BitVec 5)
  | relay (c : Ctl) (lsid : BitVec 5)
  | relaySig (c : Ctl) (lsid : BitVec 5)
  | relayPrep (c : Ctl) (lsid : BitVec 5) (n : BitVec 3)
  | gresume (c : Ctl) (lsid : BitVec 5) (rank : BitVec 4)
  | gkill (c : Ctl) (lsid : BitVec 5) (rank : BitVec 4)
  -- rein, tile side (19 R357)
  | rload (c : Ctl) (lsid : BitVec 5) (stage parity : BitVec 12)
  | rstart (c : Ctl) (lsid : BitVec 5) (arrive credit rerun : Bool) (id : BitVec 12)
  | rabort (c : Ctl) (lsid : BitVec 5) (id : BitVec 12)
  | rstat (c : Ctl) (lsid : BitVec 5) (id : BitVec 12)
  -- Rein instructions (19 R343)
  | nop
  | movg (a b : BitVec 4)
  | reinMovi (a : BitVec 4) (imm : BitVec 32)
  | addg (a b c : BitVec 4)
  | addi (a b : BitVec 4) (imm : BitVec 32)
  | subg (a b c : BitVec 4)
  | mulg (a b c : BitVec 4)
  | modg (a b c : BitVec 4)
  | andg (a b c : BitVec 4)
  | shrg (a b c : BitVec 4)
  | jmp (imm : BitVec 32)
  | loop (a : BitVec 4) (imm : BitVec 32)
  | bnz (a : BitVec 4) (imm : BitVec 32)
  | bz (a : BitVec 4) (imm : BitVec 32)
  | setchunk (a : BitVec 3) (b c : BitVec 4) (sp : BitVec 2)
  | addc (a : BitVec 3) (b : BitVec 4)
  | peer (a b : BitVec 4) (kind : PeerKind)
  | send (a : BitVec 3) (b : BitVec 4) (c : BitVec 3)
  | recv (a : BitVec 3) (b : BitVec 4)
  | reduce (a b c : BitVec 3) (op : Red) (t : ETy)
  | copy (a b : BitVec 3)
  | wait (b : BitVec 4)
  | reinSignal (b : BitVec 4)
  | tagchk (a : BitVec 4) (b : BitVec 3)
  -- steps of the tile core (95)
  | blockFetchDecode (p : Place)
  | awaitedTokenArrives (p : Place)
  | blockComplete (p : Place)
  | leaseWaitExpiry (p : Place)
  | runtimeFaultDiscard (p : Place)
  | cutGraceExpiry (p : Place)
  -- steps of memory and translation
  | storePerform (p : Place)
  | lineEviction (die line : Nat)
  | touchCommit (ctx : Nat) (va : Word) (who : Option Place)
  | pageCommandPerform (ctx : Nat)
  | invalidation (ctx : Nat)
  | invalidationComplete (ctx : Nat)
  | migratePage (ctx : Nat) (va : Word)
  -- steps of the tile's engines
  | matrixCommandStart (p : Place)
  | matrixCommandRetire (p : Place)
  | copyPiece (p : Place) (cmd piece : Nat)
  | engineFaultReport (p : Place)
  | streamPrefetch (p : Place) (reg : Nat)
  -- steps of the dispatcher
  | trapRecordWrite (ctx : Nat)
  | handlerSpawn (ctx : Nat)
  | decrementApply (k : Nat)
  | placement (die idx : Nat) (tiles : List Nat)
  | prefetchLanded (w : Prefetch)
  | multicastWaitExpiry (w : Prefetch)
  | binding (die idx : Nat) (slots : List Nat)
  | runnableTimeout (die idx : Nat) (tiles : List Nat)
  | taskCompletion (die idx : Nat)
  | relayHold (p : Place)
  | stallWatchdogExpiry (ctx : Nat)
  -- steps of the rein engines
  | instanceStart (die k : Nat)
  | chunkArrival (die : Nat) (ch : Chunk)
  | chunkLand (die k : Nat)
  | chunkAck (nm : ChunkName)
  | chunkNak (nm : ChunkName)
  | chunkRetryTimer (nm : ChunkName)
  | signalArrival (m : SignalMsg)
  | abortArrival (m : RankMsg)
  -- pre-emption
  | saveComplete (ctx : Nat)
  | restoreComplete (ctx : Nat)
  | drainReductionRound (ctx : Nat) (others : List Int)
  -- Bridle
  | createContext (m : BridleMsg) (frames : List Nat)
  | tearDown (m : BridleMsg)
  | preEmpt (m : BridleMsg)
  | resume (m : BridleMsg)
  | podSwitch (m : BridleMsg)
  | registerTemplate (m : BridleMsg)
  | launch (m : BridleMsg)
  | signal (m : BridleMsg)
  | bridleWrite (m : BridleMsg)
  | bridleRead (m : BridleMsg)
  | status (m : BridleMsg)
  | linkQueues (m : BridleMsg)
  | gatedCommandStart (queue : Nat)
  | map (m : BridleMsg)
  | powerTolerance (m : BridleMsg)
  | loadFirmware (m : BridleMsg)
  | attest (m : BridleMsg)
  | createTask (m : BridleMsg)
  | health (m : BridleMsg)
  | configurePackage (m : BridleMsg)
  | registerRegion (m : BridleMsg)
  | deregisterRegion (m : BridleMsg)
  | runAhead (p : Place) (addr : Word)
  | decrementMessage (m : DecMsg)
  -- RoCEv2, UALink, recovery, power, management
  | rdmaWrite (qp key : Nat) (va : Word) (bytes : List Byte)
  | ualinkRemoteAccess (pkg addr : Nat) (op : RemoteOp)
  | taskProbe (w : Prober) (j : Nat)
  | connectQueuePair (m : BridleMsg)
  | unknownOpcode (m : BridleMsg)
  -- FENCE and DONE of the rein program
  | reinFence
  | done
  -- steps that only an agent outside the machine or a timer brings
  | idleEntry
  | rdmaRead (qp key : Nat) (va : Word) (n : Nat)
  | pageWalk (die tile ctx : Nat) (va : Word) (acc : Access)
  | poisonError (loc : PoisonHit)
  | uncorrectableGroupState (p : Place) (hit : StateHit)
  | correctedError (unit : Word) (uncorrectable : Bool)
  | errorWindowExpiry (unit : Word)
  | trapQueueHeadPoll (ctx : Nat)
  | hello (m : BridleMsg)
  | remoteInvalidRequest (qp : Nat)
  | heartbeat
  | packageFailed (pkg : Nat)
  | recoveryRebuild (pkg : Nat)
  | wake
  | errorSelect (v : Word)
  | powerLimit (v : Word)
  | reset
  | readOnlyRegisterWrite (off : Nat) (v : Word)
  | recoveryMirror (m : Mirror)
deriving DecidableEq, Repr

end Sys2Proof
end

