-- ==== Sys2Proof/Decode.lean ====
section
/-!
DEFINITION. Decode.lean: the decoder of tile words (02 R34 to R48, R51) and of Rein words (19 R342 to R344),
total and refusing by cause, and after it the encoder of both, from the same tables.
-/
namespace Sys2Proof

/-! ## Fields of a tile word (02 R34) -/

/-- The cause codes a word can be refused with (02 R51), as numbers. -/
abbrev Cause := Nat

/-- What the checks of a word need beside the word (02 R38, R39, R88): the count of literals, the slot's
shape, and the stream registers that are bound and not yet READ in the block. -/
structure DecCx where
  lits : Nat
  rings : Nat
  streams : Nat
  accs : Nat
  readable : List Nat
deriving DecidableEq, Repr

/-- The context that refuses nothing a word alone could be right about. -/
def DecCx.widest : DecCx := ⟨16, 8, 8, 16, [0, 1, 2, 3, 4, 5, 6, 7]⟩

/-- T in the integer family (02 R35). -/
def ityOf (t : BitVec 3) : ITy :=
  match t.toNat with
  | 0 => .s8
  | 1 => .s16
  | 2 => .s32
  | 3 => .s64
  | 4 => .n8
  | 5 => .n16
  | 6 => .n32
  | _ => .n64

/-- T in the floating family; 111 is reserved (02 R35). -/
def ftyOf (t : BitVec 3) : Option FTy :=
  match t.toNat with
  | 0 => some .f64
  | 1 => some .f32
  | 2 => some .f16
  | 3 => some .bf16
  | 4 => some .e4m3
  | 5 => some .e5m2
  | 6 => some .e2m1
  | _ => none

/-- A guard field pair (02 R36). -/
def guardOf (pol : Bool) (q : BitVec 2) : Option Guard :=
  match q.toNat, pol with
  | 0, false => some .off
  | 1, p => some (.any p)
  | 2, p => some (.all p)
  | _, _ => none

/-- A slot code (02 R37). -/
def slotOf (b : BitVec 2) : Slot :=
  match b.toNat with
  | 0 => .l
  | 1 => .r
  | 2 => .t
  | _ => .g

/-- A target byte; 0x80 to 0xFE are reserved (02 R37). -/
def tgtOf (b : BitVec 8) : Option Tgt :=
  if b = 0xFF#8 then some .off
  else if b.getLsbD 7 then none
  else some (.to (slotOf (b.extractLsb' 5 2)) (b.extractLsb' 0 5))

/-- A rounding code (02 R39). -/
def rndOf (b : BitVec 3) : Option Rnd :=
  match b.toNat with
  | 0 => some .rne
  | 1 => some .rz
  | 2 => some .ru
  | 3 => some .rd
  | 4 => some .sr
  | _ => none

/-- A mask use code (02 R39). -/
def maskOf (b : BitVec 2) : Option MaskUse :=
  match b.toNat with
  | 0 => some .none
  | 1 => some .zero
  | 2 => some .keep
  | _ => none

/-- A reduction code (02 R39). -/
def redOf (b : BitVec 2) : Option Red :=
  match b.toNat with
  | 0 => some .sum
  | 1 => some .min
  | 2 => some .max
  | _ => none

/-- A scope code (02 R40). -/
def scopeOf (b : BitVec 3) : Option Scope :=
  match b.toNat with
  | 0 => some .slot
  | 1 => some .tile
  | 2 => some .die
  | 3 => some .pkg
  | 4 => some .pod
  | 5 => some .sys
  | _ => none

/-- A compare condition by its cell (02 R43, R44). -/
def condOf (n : Nat) : Option Cond :=
  match n with
  | 0 => some .eq
  | 1 => some .ne
  | 2 => some .lt
  | 3 => some .le
  | 4 => some .gt
  | 5 => some .ge
  | _ => none

/-- An order by opcode [1:0] (02 R41). -/
def orderOf (n : Nat) : Order :=
  match n with
  | 0 => .rlx
  | 1 => .acq
  | 2 => .rel
  | _ => .acqrel

/-- A page size code (12 R246). -/
def pgOf (b : BitVec 2) : Option PgSize :=
  match b.toNat with
  | 0 => some .k64
  | 1 => some .m2
  | 2 => some .g1
  | _ => none

/-- An MST output type (08 R172). -/
def otyOf (b : BitVec 3) : Option OTy :=
  match b.toNat with
  | 0 => some .f32
  | 1 => some .bf16
  | 2 => some .f16
  | 3 => some .e4m3
  | 4 => some .e5m2
  | _ => none

/-- A system register by FR index (01 R23). -/
def sysOf (n : Nat) : Option SysReg :=
  match n with
  | 0 => some .tile
  | 1 => some .slot
  | 2 => some .lanes
  | 3 => some .gang
  | 4 => some .task
  | 5 => some .ctx
  | 6 => some .cycle
  | 7 => some .cause
  | 8 => some .faultva
  | 9 => some .fpflags
  | 10 => some .fptrap
  | 11 => some .seed
  | _ => none

/-- A register of SWR (12 R253). -/
def swOf (n : Nat) : Option SwReg :=
  match n with
  | 9 => some .fpflags
  | 10 => some .fptrap
  | 11 => some .seed
  | _ => none

/-! ## The checks of one word -/

/-- What one opcode point says of a word: the checks that hold, in the order of their causes (02 R51), and
the instruction it stands for under a control part. -/
structure Dec where
  tOk : Bool := true
  guardable : Bool := true
  zOk : Bool := true
  mOk : Bool := true
  rOk : Bool := true
  lOk : Bool := true
  fOk : Bool := true
  tgtOk : Bool := true
  ins : Ctl → Instr

/-- The operand field and T of a word. -/
structure Fld where
  t : BitVec 3
  f : BitVec 32

namespace Fld

/-- Operand bits as a vector. -/
def sub (x : Fld) (lo len : Nat) : BitVec len := x.f.extractLsb' lo len
/-- One operand bit. -/
def bit (x : Fld) (i : Nat) : Bool := x.f.getLsbD i
/-- Operand bits `[lo+len-1 : lo]` are zero. -/
def zero (x : Fld) (lo len : Nat) : Bool := decide (x.f.extractLsb' lo len = 0)
/-- T in the integer family. -/
def ity (x : Fld) : ITy := ityOf x.t
/-- T in the floating family, or binary32 where T is reserved. -/
def fty (x : Fld) : FTy := (ftyOf x.t).getD .f32
/-- FM's LSID. -/
def lsid (x : Fld) : BitVec 5 := x.f.extractLsb' 27 5
/-- T is 000. -/
def t0 (x : Fld) : Bool := decide (x.t = 0)

end Fld

/-- T names one of `.f64 .f32 .f16 .bf16` (05 R115, "F4"). -/
def isF4 (x : Fld) : Bool := decide (x.t.toNat < 4)

/-- A word of format F0 with T 000 (02 R42). -/
def decF0 (x : Fld) (ins : Ctl → Instr) : Dec := { tOk := x.t0, zOk := x.zero 0 32, ins := ins }

/-- A word of format F0 with any integer T. -/
def decF0I (x : Fld) (ins : Ctl → Instr) : Dec := { zOk := x.zero 0 32, ins := ins }

/-- A scalar word that takes .sat (04 R94). Log 17 (DEDUCED). -/
def decSat (cx : DecCx) (x : Fld) (form : Nat) (ins : Ctl → SatForm → Instr) : Option Dec :=
  match form with
  | 0 => some { zOk := x.zero 16 16, mOk := x.zero 0 3 && x.zero 4 12, ins := fun c => ins c (.p (x.bit 3)) }
  | 1 => some { ins := fun c => ins c (.i x.f) }
  | 2 => some { zOk := x.zero 16 12, mOk := x.zero 0 3 && x.zero 4 12, lOk := decide (bitsL x < cx.lits),
                ins := fun c => ins c (.l (x.sub 28 4) (x.bit 3)) }
  | _ => none
where
  /-- FL's literal index. -/
  bitsL (x : Fld) : Nat := (x.sub 28 4).toNat

/-- A scalar word without .sat (04 R94). Log 17 (DEDUCED). -/
def decS (cx : DecCx) (x : Fld) (form : Nat) (ins : Ctl → SForm → Instr) : Option Dec :=
  match form with
  | 0 => some { zOk := x.zero 16 16, mOk := x.zero 0 16, ins := fun c => ins c .p }
  | 1 => some { ins := fun c => ins c (.i x.f) }
  | 2 => some { zOk := x.zero 16 12, mOk := x.zero 0 16, lOk := decide ((x.sub 28 4).toNat < cx.lits),
                ins := fun c => ins c (.l (x.sub 28 4)) }
  | _ => none

/-- A scalar word of one operand, producer form only, without .sat. -/
def decS1 (x : Fld) (form : Nat) (ins : Ctl → Instr) : Option Dec :=
  match form with
  | 0 => some { zOk := x.zero 16 16, mOk := x.zero 0 16, ins := ins }
  | _ => none

/-- A scalar word of one operand with .sat. -/
def decS1Sat (x : Fld) (form : Nat) (ins : Ctl → Bool → Instr) : Option Dec :=
  match form with
  | 0 => some { zOk := x.zero 16 16, mOk := x.zero 0 3 && x.zero 4 12, ins := fun c => ins c (x.bit 3) }
  | _ => none

/-- A word of MAD: producer and literal forms (02 R43). -/
def decMad (cx : DecCx) (x : Fld) (form : Nat) (ins : Ctl → MadForm → Instr) : Option Dec :=
  match form with
  | 0 => some { zOk := x.zero 16 16, mOk := x.zero 0 3 && x.zero 4 12, ins := fun c => ins c (.p (x.bit 3)) }
  | 2 => some { zOk := x.zero 16 12, mOk := x.zero 0 3 && x.zero 4 12, lOk := decide ((x.sub 28 4).toNat < cx.lits),
                ins := fun c => ins c (.l (x.sub 28 4) (x.bit 3)) }
  | _ => none

/-- A word of BFX or BFI: producer and immediate forms (02 R43). -/
def decBf (x : Fld) (form : Nat) (ins : Ctl → BfForm → Instr) : Option Dec :=
  match form with
  | 0 => some { zOk := x.zero 16 16, mOk := x.zero 0 16, ins := fun c => ins c .p }
  | 1 => some { ins := fun c => ins c (.i x.f) }
  | _ => none

/-- The scalar and compare cells by base / 4 (02 R43). -/
def decScalar (cx : DecCx) (x : Fld) (cell form : Nat) : Option Dec :=
  match cell with
  | 0x10 => decSat cx x form fun c f => .add c x.ity f
  | 0x11 => decSat cx x form fun c f => .sub c x.ity f
  | 0x12 => decSat cx x form fun c f => .mul c x.ity f
  | 0x13 => decS cx x form fun c f => .mulh c x.ity f
  | 0x14 => decMad cx x form fun c f => .mad c x.ity f
  | 0x15 => decSat cx x form fun c f => .div c x.ity f
  | 0x16 => decSat cx x form fun c f => .rem c x.ity f
  | 0x17 => decS1Sat x form fun c s => .neg c x.ity s
  | 0x18 => decS1Sat x form fun c s => .abs c x.ity s
  | 0x19 => decS cx x form fun c f => .min c x.ity f
  | 0x1A => decS cx x form fun c f => .max c x.ity f
  | 0x1B => decS cx x form fun c f => .and c x.ity f
  | 0x1C => decS cx x form fun c f => .or c x.ity f
  | 0x1D => decS cx x form fun c f => .xor c x.ity f
  | 0x1E => decS1 x form fun c => .not c x.ity
  | 0x1F => decS cx x form fun c f => .shl c x.ity f
  | 0x20 => decS cx x form fun c f => .shr c x.ity f
  | 0x21 => decS cx x form fun c f => .sra c x.ity f
  | 0x22 => decS cx x form fun c f => .rot c x.ity f
  | 0x23 => decS1 x form fun c => .clz c x.ity
  | 0x24 => decS1 x form fun c => .popc c x.ity
  | 0x25 => decBf x form fun c f => .bfx c x.ity f
  | 0x26 => decBf x form fun c f => .bfi c x.ity f
  | 0x27 => decS cx x form fun c f => .lea c x.ity f
  | 0x28 => decS1 x form fun c => .sext c x.ity
  | 0x29 => decS1 x form fun c => .zext c x.ity
  | 0x30 => decS cx x form fun c f => .cmp c .eq x.ity f
  | 0x31 => decS cx x form fun c f => .cmp c .ne x.ity f
  | 0x32 => decS cx x form fun c f => .cmp c .lt x.ity f
  | 0x33 => decS cx x form fun c f => .cmp c .le x.ity f
  | 0x34 => decS cx x form fun c f => .cmp c .gt x.ity f
  | 0x35 => decS cx x form fun c f => .cmp c .ge x.ity f
  | _ => none

/-! ## Vector words (02 R44, 05 R115) -/

/-- Which modifier values a vector word accepts. -/
structure VAcc where
  rnd : Bool
  sat : Bool
  keep : Bool := true
  masks : Bool := true

/-- The modifiers of a vector word, where every field holds a code (02 R39). -/
def vmods (x : Fld) : VMods :=
  ⟨(rndOf (x.sub 0 3)).getD .rne, x.bit 3, (maskOf (x.sub 4 2)).getD .none⟩

/-- Bits [15:13], [12:11], [10:7] and [6] are zero, and rounding, saturation and mask use are accepted. -/
def vmodsOk (x : Fld) (a : VAcc) : Bool :=
  x.zero 6 10 && (rndOf (x.sub 0 3)).isSome && (maskOf (x.sub 4 2)).isSome &&
  (a.rnd || x.zero 0 3) && (a.sat || !x.bit 3) && (a.keep || !x.bit 5) && (a.masks || x.zero 4 2)

/-- A vector word of one of the three forms of a cell (05 R112). -/
def decVForm (cx : DecCx) (x : Fld) (form : Nat) (tOk : Bool) (a : VAcc) (ins : Ctl → VForm → VMods → Instr) : Option Dec :=
  match form with
  | 0 => some { tOk := tOk, zOk := x.zero 16 16, mOk := vmodsOk x a, ins := fun c => ins c .v (vmods x) }
  | 1 => some { tOk := tOk, zOk := x.zero 16 16, mOk := vmodsOk x a, ins := fun c => ins c .s (vmods x) }
  | 2 => some { tOk := tOk, zOk := x.zero 16 12, mOk := vmodsOk x a, lOk := decide ((x.sub 28 4).toNat < cx.lits),
                ins := fun c => ins c (.l (x.sub 28 4)) (vmods x) }
  | _ => none

/-- A vector cell by base / 8, family and form (02 R44). -/
def decVCell (cx : DecCx) (x : Fld) (cell : Nat) (fl : Bool) (form : Nat) : Option Dec :=
  let ety : ETy := if fl then .f x.fty else .i x.ity
  let tOk := !fl || isF4 x
  let arith : VAcc := ⟨fl, true, true, true⟩
  let plain : VAcc := ⟨false, false, true, true⟩
  match cell, fl with
  | 0x20, _ => decVForm cx x form tOk arith fun c f m => .vadd c ety f m
  | 0x21, _ => decVForm cx x form tOk arith fun c f m => .vsub c ety f m
  | 0x22, _ => decVForm cx x form tOk arith fun c f m => .vmul c ety f m
  | 0x23, _ => decVForm cx x form tOk plain fun c f m => .vmin c ety f m.mask
  | 0x24, _ => decVForm cx x form tOk plain fun c f m => .vmax c ety f m.mask
  | 0x25, true => decVForm cx x form tOk arith fun c f m => .vdiv c x.fty f m
  | 0x26, false => decVForm cx x form true plain fun c f m => .vand c x.ity f m.mask
  | 0x27, false => decVForm cx x form true plain fun c f m => .vor c x.ity f m.mask
  | 0x28, false => decVForm cx x form true plain fun c f m => .vxor c x.ity f m.mask
  | 0x29, false => decVForm cx x form true plain fun c f m => .vshl c x.ity f m.mask
  | 0x2A, false => decVForm cx x form true plain fun c f m => .vshr c x.ity f m.mask
  | 0x2B, false => decVForm cx x form true plain fun c f m => .vsra c x.ity f m.mask
  | n, _ =>
    match condOf (n - 0x2C) with
    | some cond =>
      if n < 0x2C then none
      else decVForm cx x form (!fl || decide (x.t.toNat < 6)) ⟨false, false, false, true⟩
        fun c f m => .vcmp c cond ety f m.mask
    | none => none

/-- A single-point vector word, FV (02 R44). -/
def decV1 (x : Fld) (tOk : Bool) (a : VAcc) (ins : Ctl → Instr) : Option Dec :=
  some { tOk := tOk, zOk := x.zero 16 16, mOk := vmodsOk x a, ins := ins }

/-- The second type of VCVT (02 R39, 05 R122). -/
def srcOf (x : Fld) : Option ETy :=
  if x.bit 10 then (ftyOf (x.sub 7 3)).map .f else some (.i (ityOf (x.sub 7 3)))

/-- VCVT to `dst` (05 R110, R122). -/
def decVcvt (x : Fld) (tOk : Bool) (dst : ETy) : Option Dec :=
  let src := (srcOf x).getD (.i .s8)
  let isE2 : ETy → Bool := fun t => decide (t = .f .e2m1)
  let int2 : Bool := match dst, src with
    | .i _, .i _ => true
    | _, _ => false
  some { tOk := tOk, zOk := x.zero 16 16,
         mOk := x.zero 11 5 && x.zero 6 1 && (srcOf x).isSome && (rndOf (x.sub 0 3)).isSome &&
           (maskOf (x.sub 4 2)).isSome && !x.bit 5 && (!int2 || x.zero 0 3) &&
           (!(isE2 dst || isE2 src) || x.zero 4 2),
         ins := fun c => .vcvt c dst src (vmods x) }

/-- VREDUCE and VSCAN (05 R115, R124). -/
def decVred (x : Fld) (fl keep : Bool) (ins : Ctl → Red → VMods → Instr) : Option Dec :=
  let kind := redOf (x.sub 11 2)
  let sum := decide (kind = some .sum)
  some { tOk := !fl || isF4 x, zOk := x.zero 16 16,
         mOk := x.zero 13 3 && x.zero 6 5 && kind.isSome && (rndOf (x.sub 0 3)).isSome &&
           (maskOf (x.sub 4 2)).isSome && ((fl && sum) || x.zero 0 3) && ((!fl && sum) || !x.bit 3) &&
           (keep || !x.bit 5),
         ins := fun c => ins c (kind.getD .sum) (vmods x) }

/-- The single-point vector and mask opcodes (02 R44). -/
def decVPoint (x : Fld) (op : Nat) : Option Dec :=
  let fn : VAcc := ⟨true, true, true, true⟩
  let plain : VAcc := ⟨false, false, true, true⟩
  let zeroing : VAcc := ⟨false, false, false, true⟩
  let bare : VAcc := ⟨false, false, false, false⟩
  let m := vmods x
  match op with
  | 0x190 => decV1 x (isF4 x) ⟨true, true, false, false⟩ fun c => .vfma c x.fty m.rnd m.sat
  | 0x191 => decV1 x true ⟨false, true, true, true⟩ fun c => .vabs c (.i x.ity) m.sat m.mask
  | 0x192 => decV1 x (isF4 x) plain fun c => .vabs c (.f x.fty) m.sat m.mask
  | 0x193 => decV1 x true ⟨false, true, true, true⟩ fun c => .vneg c (.i x.ity) m.sat m.mask
  | 0x194 => decV1 x (isF4 x) plain fun c => .vneg c (.f x.fty) m.sat m.mask
  | 0x195 => decV1 x true plain fun c => .vnot c x.ity m.mask
  | 0x196 => decV1 x true bare fun c => .vsel c x.ity
  | 0x197 => decVcvt x true (.i x.ity)
  | 0x198 => decVcvt x (ftyOf x.t).isSome (.f x.fty)
  | 0x199 => decV1 x (isF4 x) fn fun c => .vsqrt c x.fty m
  | 0x19A => decV1 x (isF4 x) fn fun c => .vrcp c x.fty m
  | 0x19B => decV1 x (isF4 x) plain fun c => .vrsqrte c x.fty m.mask
  | 0x19C => decV1 x (isF4 x) fn fun c => .vexp2 c x.fty m
  | 0x19D => decV1 x (isF4 x) fn fun c => .vlog2 c x.fty m
  | 0x19E => decV1 x (isF4 x && !x.t0) plain fun c => .vtanh c x.fty m.mask
  | 0x1A0 => decVred x false false fun c k m => .vreduce c (.i x.ity) k m
  | 0x1A1 => decVred x true false fun c k m => .vreduce c (.f x.fty) k m
  | 0x1A2 => decVred x false true fun c k m => .vscan c (.i x.ity) k m
  | 0x1A3 => decVred x true true fun c k m => .vscan c (.f x.fty) k m
  | 0x1A4 => decV1 x true plain fun c => .vperm c x.ity m.mask
  | 0x1A5 => decV1 x true bare fun c => .vxlane c x.ity
  | 0x1A6 => decV1 x true zeroing fun c => .vbcast c x.ity m.mask
  | 0x1A7 => decV1 x true bare fun c => .vextr c x.ity
  | 0x1A8 => decV1 x true bare fun c => .vins c x.ity
  | 0x1A9 => decV1 x true zeroing fun c => .viota c x.ity m.mask
  | 0x1AA => decV1 x true zeroing fun c => .vsortk c (.i x.ity) m.mask
  | 0x1AB => decV1 x (isF4 x) zeroing fun c => .vsortk c (.f x.fty) m.mask
  | 0x1AC => decV1 x true bare fun c => .vmerge c (.i x.ity)
  | 0x1AD => decV1 x (isF4 x) bare fun c => .vmerge c (.f x.fty)
  | 0x1AE => decV1 x true bare fun c => .kany c x.ity
  | 0x1AF => decV1 x true bare fun c => .kall c x.ity
  | 0x1B0 => decV1 x true bare fun c => .kpop c x.ity
  | _ => none

/-! ## Block, control, predicate, task, rein and system words (02 R42) -/

/-- The register of a READ, or none where class or index is refused (02 R38, 04 R87, R88). -/
def rregOf (cx : DecCx) (x : Fld) : Option RReg :=
  let i := (x.sub 24 5).toNat
  match (x.sub 29 3).toNat with
  | 0 => some (.x (x.sub 24 5))
  | 1 => some (.v (x.sub 24 5))
  | 2 => if i < 8 then some (.p (x.sub 24 3)) else none
  | 3 => if i < 8 then some (.k (x.sub 24 3)) else none
  | 4 => if i < cx.streams && i < 8 && cx.readable.contains i then some (.s (x.sub 24 3)) else none
  | _ => none

/-- The register of a WRITE (04 R89). -/
def wregOf (x : Fld) : Option WReg :=
  let i := (x.sub 24 5).toNat
  match (x.sub 29 3).toNat with
  | 0 => some (.x (x.sub 24 5))
  | 1 => some (.v (x.sub 24 5))
  | 2 => if i < 8 then some (.p (x.sub 24 3)) else none
  | 3 => if i < 8 then some (.k (x.sub 24 3)) else none
  | _ => none

/-- A word of a task, relay or rein instruction whose operand bits in `zeros` are zero (15 R285, 19 R357). -/
def decFM (x : Fld) (z : Bool) (ins : Ctl → Instr) : Option Dec := some { tOk := x.t0, zOk := z, ins := ins }

/-- Opcodes 0x000 to 0x03F (02 R42). -/
def decBase (cx : DecCx) (x : Fld) (op : Nat) : Option Dec :=
  match op with
  | 0x001 => some { zOk := x.zero 0 24, rOk := (rregOf cx x).isSome, ins := fun c => .read c x.ity ((rregOf cx x).getD (.x 0)) }
  | 0x002 => some { zOk := x.zero 0 24, rOk := (wregOf x).isSome, ins := fun c => .write c x.ity ((wregOf x).getD (.x 0)) }
  | 0x003 => some (decF0I x fun c => .mov c x.ity)
  | 0x004 => some { guardable := false, zOk := x.zero 0 16,
                    tgtOk := (tgtOf (x.sub 24 8)).isSome && (tgtOf (x.sub 16 8)).isSome,
                    ins := fun c => .fan x.ity c.t0 c.t1 ((tgtOf (x.sub 24 8)).getD .off) ((tgtOf (x.sub 16 8)).getD .off) }
  | 0x005 => some { ins := fun c => .movi c x.ity x.f }
  | 0x006 => some { zOk := x.zero 16 12, mOk := x.zero 0 16, lOk := decide ((x.sub 28 4).toNat < cx.lits),
                    ins := fun c => .movl c x.ity (x.sub 28 4) }
  | 0x007 => some { guardable := false, zOk := x.zero 0 32, ins := fun c => .void x.ity c.t0 c.t1 }
  | 0x008 => some (decF0I x fun c => .sel c x.ity)
  | 0x010 => some (decF0 x .br)
  | 0x011 => some { tOk := x.t0, ins := fun c => .bri c x.f }
  | 0x012 => some { tOk := x.t0, ins := fun c => .call c x.f }
  | 0x013 => some (decF0 x .ret)
  | 0x014 => some (decF0 x .endg)
  | 0x015 => some { tOk := x.t0, zOk := x.zero 6 26, ins := fun c => .trap c (x.sub 0 6) }
  | 0x018 => some (decF0 x .pand)
  | 0x019 => some (decF0 x .por)
  | 0x01A => some (decF0 x .pxor)
  | 0x01B => some (decF0 x .pnot)
  | 0x01C => some { tOk := x.t0, zOk := x.zero 8 24, ins := fun c => .plane c (x.sub 0 8) }
  | 0x01D => some (decF0 x .pcount)
  | 0x020 => decFM x (x.zero 0 24) fun c => .tspawn c x.lsid (x.bit 26) (x.sub 24 2)
  | 0x021 => decFM x (x.zero 16 11) fun c => .tdec c x.lsid (x.sub 0 16)
  | 0x022 => decFM x (x.zero 12 15) fun c => .tinst c x.lsid (x.sub 0 12)
  | 0x023 => decFM x (x.zero 0 27) fun c => .tstat c x.lsid
  | 0x024 => decFM x (x.zero 0 27) fun c => .relay c x.lsid
  | 0x025 => decFM x (x.zero 0 27) fun c => .relaySig c x.lsid
  | 0x026 => decFM x (x.zero 3 24) fun c => .relayPrep c x.lsid (x.sub 0 3)
  | 0x027 => decFM x (x.zero 4 23) fun c => .gresume c x.lsid (x.sub 0 4)
  | 0x028 => decFM x (x.zero 4 23) fun c => .gkill c x.lsid (x.sub 0 4)
  | 0x02C => decFM x (x.zero 24 3) fun c => .rload c x.lsid (x.sub 12 12) (x.sub 0 12)
  | 0x02D => decFM x (x.zero 12 12) fun c => .rstart c x.lsid (x.bit 26) (x.bit 25) (x.bit 24) (x.sub 0 12)
  | 0x02E => decFM x (x.zero 12 15) fun c => .rabort c x.lsid (x.sub 0 12)
  | 0x02F => decFM x (x.zero 12 15) fun c => .rstat c x.lsid (x.sub 0 12)
  | 0x030 =>
    let r := if (x.sub 29 3).toNat = 6 then sysOf (x.sub 24 5).toNat else none
    some { tOk := x.t0, zOk := x.zero 0 24, rOk := r.isSome, ins := fun c => .srd c (r.getD .tile) }
  | 0x031 =>
    let r := swOf (x.sub 0 4).toNat
    some { tOk := x.t0, zOk := x.zero 4 23, fOk := r.isSome, ins := fun c => .swr c x.lsid (r.getD .fpflags) }
  | _ => none

/-! ## Matrix, ring, copy, barrier, stream and scratch words (02 R45) -/

/-- FM fields of the MMA family (08 R166). -/
def mmaOpsOf (x : Fld) : MmaOps :=
  { lsid := x.lsid, arrive := x.bit 26,
    qa := if x.bit 25 then some (x.sub 17 3) else none,
    qb := if x.bit 24 then some (x.sub 14 3) else none,
    acc := x.sub 20 4, kq := x.sub 10 4 }

/-- MMA, MMA.G and MMAS (08 R166). Log 20 (DEDUCED). -/
def decMma (cx : DecCx) (x : Fld) (tOk gath : Bool) (ins : Ctl → FTy → MmaOps → Instr) : Option Dec :=
  let qi : Bool := !x.bit 25 || decide ((x.sub 17 3).toNat < cx.rings)
  let qj : Bool := !x.bit 24 || decide ((x.sub 14 3).toNat < cx.rings)
  some { tOk := tOk, zOk := x.zero 0 10 && (x.bit 25 || x.zero 17 3) && (x.bit 24 || x.zero 14 3),
         rOk := decide ((x.sub 20 4).toNat < cx.accs) && qi && qj,
         fOk := !gath || (!x.bit 25 && (x.bit 24 || !x.bit 26)),
         ins := fun c => ins c x.fty { mmaOpsOf x with qa := if gath then none else (mmaOpsOf x).qa } }

/-- FM fields of the copies (08 R179). -/
def cpyOpsOf (x : Fld) : CpyOps :=
  { lsid := x.lsid, credit := x.bit 26, ring := if x.bit 25 then some (x.sub 21 3) else none,
    out := x.bit 24, bytes := x.sub 0 12 }

/-- A copy word: whether D and Q may be 1, and whether it carries a byte count (08 R179, R180). -/
def decCpy (cx : DecCx) (x : Fld) (dOk qOk counted : Bool) (ins : Ctl → CpyOps → Instr) : Option Dec :=
  let q := x.bit 25
  let d := x.bit 24
  let takes := qOk && !d
  some { tOk := x.t0, zOk := x.zero 12 9 && (q || x.zero 21 3) && (counted || x.zero 0 12),
         rOk := !q || decide ((x.sub 21 3).toNat < cx.rings),
         fOk := (dOk || !d) && (!q || takes),
         ins := fun c => ins c (cpyOpsOf x) }

/-- SBIND's kind with its fields (08 R189). -/
def skindOf (x : Fld) : Option SKind :=
  match (x.sub 22 2).toNat with
  | 0 => some (.mem (x.bit 21) (x.bit 20) (x.sub 0 16))
  | 1 => some (.edge (x.bit 21) (x.sub 16 3))
  | 2 => some (.rein (x.bit 21))
  | _ => none

/-- SBIND (08 R189): fields that the kind does not use are zero; an edge's binding index is 0 to 7. Log 18 (DEDUCED). -/
def decSbind (cx : DecCx) (x : Fld) : Option Dec :=
  let z : Bool := match (x.sub 22 2).toNat with
    | 0 => x.zero 16 4
    | 1 => x.zero 0 16 && x.zero 20 1
    | 2 => x.zero 0 21
    | _ => true
  let edgeOk : Bool := decide ((x.sub 22 2).toNat ≠ 1) || !x.bit 19
  some { tOk := x.t0, zOk := z, rOk := decide ((x.sub 24 3).toNat < cx.streams),
         fOk := (skindOf x).isSome && edgeOk,
         ins := fun c => .sbind c x.lsid (x.sub 24 3) ((skindOf x).getD (.rein false)) }

/-- A word with a ring index in [26:24] and zeros below (08 R177, R178). -/
def decQ (cx : DecCx) (x : Fld) (ins : Ctl → Instr) : Option Dec :=
  some { tOk := x.t0, zOk := x.zero 0 24, rOk := decide ((x.sub 24 3).toNat < cx.rings), ins := ins }

/-- A word with a stream index in [26:24] and zeros below (08 R191, R192). -/
def decStr (cx : DecCx) (x : Fld) (tOk : Bool) (ins : Ctl → Instr) : Option Dec :=
  some { tOk := tOk, zOk := x.zero 0 24, rOk := decide ((x.sub 24 3).toNat < cx.streams), ins := ins }

/-- FM fields of MST (08 R172). -/
def mstOpsOf (x : Fld) : MstOps :=
  { lsid := x.lsid, credit := x.bit 26, out := x.bit 25, relu := x.bit 24, acc := x.sub 20 4,
    ot := (otyOf (x.sub 17 3)).getD .f32, rnd := (rndOf (x.sub 14 3)).getD .rne, sat := x.bit 13, pitch := x.sub 0 13 }

/-- Opcodes 0x200 to 0x27F (02 R45). -/
def decEngine (cx : DecCx) (x : Fld) (op : Nat) : Option Dec :=
  let mmaT := decide (2 ≤ x.t.toNat ∧ x.t.toNat < 7)
  match op with
  | 0x200 => decMma cx x mmaT false .mma
  | 0x201 => decMma cx x mmaT true .mmaG
  | 0x202 => decMma cx x (decide (4 ≤ x.t.toNat ∧ x.t.toNat < 7)) false .mmas
  | 0x203 => some { tOk := x.t0, zOk := x.zero 16 11, rOk := decide ((x.sub 0 16).toNat >>> cx.accs = 0),
                    fOk := !x.zero 0 16, ins := fun c => .mzero c x.lsid (x.sub 0 16) }
  | 0x204 => some { tOk := x.t0, zOk := x.zero 24 3 && x.zero 0 20, rOk := decide ((x.sub 20 4).toNat < cx.accs),
                    ins := fun c => .mld c x.lsid (x.sub 20 4) }
  | 0x205 => some { tOk := x.t0, rOk := decide ((x.sub 20 4).toNat < cx.accs),
                    fOk := (otyOf (x.sub 17 3)).isSome && (rndOf (x.sub 14 3)).isSome,
                    ins := fun c => .mst c (mstOpsOf x) }
  | 0x208 => some { tOk := x.t0, zOk := x.zero 16 8, rOk := decide ((x.sub 24 3).toNat < cx.rings),
                    fOk := x.zero 14 2 && decide ((x.sub 0 4).toNat ≤ 8),
                    ins := fun c => .qinit c x.lsid (x.sub 24 3) (x.sub 4 10) (x.sub 0 4) }
  | 0x209 => decQ cx x fun c => .qpush c x.lsid (x.sub 24 3)
  | 0x20A => decQ cx x fun c => .qpop c x.lsid (x.sub 24 3)
  | 0x20B => decQ cx x fun c => .qstat c x.lsid (x.sub 24 3)
  | 0x20C => decCpy cx x true true true .cpy
  | 0x20D => decCpy cx x false true true .cpyS
  | 0x20E => decCpy cx x true true false .cpy2d
  | 0x20F => decCpy cx x false true true .cpyPeer
  | 0x210 => decCpy cx x false false true .cpyMc
  | 0x211 => decCpy cx x false true false .cpyg
  | 0x212 => some { tOk := x.t0, zOk := x.zero 12 9 && (x.bit 25 || x.zero 21 3),
                    rOk := !x.bit 25 || decide ((x.sub 21 3).toNat < cx.rings), fOk := x.zero 24 3,
                    ins := fun c => .pref c x.lsid (x.sub 0 12) }
  | 0x214 => decFM x (x.zero 24 3) fun c => .binit c x.lsid (x.sub 0 24)
  | 0x215 => decFM x (x.zero 24 3) fun c => .bexpect c x.lsid (x.sub 0 24)
  | 0x216 => decFM x (x.zero 24 3) fun c => .barrive c x.lsid (x.sub 0 24)
  | 0x217 => decFM x (x.zero 24 3) fun c => .bwait c x.lsid (x.sub 0 24)
  | 0x218 => decFM x (x.zero 24 3) fun c => .btest c x.lsid (x.sub 0 24)
  | 0x219 => decSbind cx x
  | 0x21A => decStr cx x true fun c => .semit c x.ity x.lsid (x.sub 24 3)
  | 0x21B => decStr cx x x.t0 fun c => .sunbind c x.lsid (x.sub 24 3)
  | 0x21C => decStr cx x x.t0 fun c => .sst c x.lsid (x.sub 24 3)
  | 0x21D => some { fOk := x.zero 25 2, ins := fun c => .lds c x.ity x.lsid (x.bit 24) (x.sub 0 24) }
  | 0x21E => some { fOk := x.zero 25 2, ins := fun c => .sts c x.ity x.lsid (x.bit 24) (x.sub 0 24) }
  | _ => none

/-! ## Global memory, atomic, allocation words (02 R46) -/

/-- FM fields of a memory access (12 R237). -/
def memOpsOf (x : Fld) : MemOps := ⟨x.lsid, (scopeOf (x.sub 24 3)).getD .sys, x.sub 0 24⟩

/-- A memory word that takes a scope. -/
def decMem (x : Fld) (ins : Ctl → MemOps → Instr) : Option Dec :=
  some { fOk := (scopeOf (x.sub 24 3)).isSome, ins := fun c => ins c (memOpsOf x) }

/-- A page instruction (12 R246). -/
def decPage (x : Fld) (ins : Ctl → PgSize → Instr) : Option Dec :=
  some { tOk := x.t0, zOk := x.zero 2 25, fOk := (pgOf (x.sub 0 2)).isSome, ins := fun c => ins c ((pgOf (x.sub 0 2)).getD .k64) }

/-- The AMO cells by base / 4 (12 R241). -/
def decAmo (x : Fld) (cell form : Nat) : Option Dec :=
  match cell with
  | 0xA6 => decMem x fun c o => .amoAdd c x.ity (orderOf form) o
  | 0xA7 => decMem x fun c o => .amoMin c x.ity (orderOf form) o
  | 0xA8 => decMem x fun c o => .amoMax c x.ity (orderOf form) o
  | 0xA9 => decMem x fun c o => .amoAnd c x.ity (orderOf form) o
  | 0xAA => decMem x fun c o => .amoOr c x.ity (orderOf form) o
  | 0xAB => decMem x fun c o => .amoXor c x.ity (orderOf form) o
  | 0xAC => decMem x fun c o => .amoSwap c x.ity (orderOf form) o
  | 0xAD => decMem x fun c o => .amoCas c x.ity (orderOf form) o
  | _ => none

/-- A FENCE word (12 R242). -/
def decFence (x : Fld) (ord : FOrder) : Option Dec :=
  some { tOk := x.t0, zOk := x.zero 0 24, fOk := (scopeOf (x.sub 24 3)).isSome,
         ins := fun c => .fence c x.lsid ord ((scopeOf (x.sub 24 3)).getD .sys) }

/-- Opcodes 0x280 to 0x2FF (02 R46). -/
def decMemory (x : Fld) (op : Nat) : Option Dec :=
  match op with
  | 0x280 => decMem x fun c o => .ld c x.ity false o
  | 0x281 => decMem x fun c o => .ld c x.ity true o
  | 0x284 => decMem x fun c o => .st c x.ity false o
  | 0x286 => decMem x fun c o => .st c x.ity true o
  | 0x288 => decMem x fun c o => .ldv c x.ity false o
  | 0x289 => decMem x fun c o => .ldv c x.ity true o
  | 0x28C => decMem x fun c o => .stv c x.ity false o
  | 0x28E => decMem x fun c o => .stv c x.ity true o
  | 0x290 => some { zOk := x.zero 24 2, ins := fun c => .gather c x.ity x.lsid (x.bit 26) (x.sub 0 24) }
  | 0x294 => some { zOk := x.zero 24 3, ins := fun c => .scatter c x.ity x.lsid (x.sub 0 24) }
  | 0x2B9 => decFence x .acq
  | 0x2BA => decFence x .rel
  | 0x2BB => decFence x .acqrel
  | 0x2C0 =>
    let j := (x.sub 0 6).toNat
    let pl : Option APlace := match (x.sub 24 3).toNat with
      | 0 => some .home
      | 1 => some .spread
      | 2 => some .tier1
      | _ => none
    some { tOk := x.t0, zOk := x.zero 6 18, fOk := pl.isSome && decide (6 ≤ j ∧ j ≤ 30),
           ins := fun c => .alloc c x.lsid (pl.getD .home) (x.sub 0 6) }
  | 0x2C1 => decFM x (x.zero 0 27) fun c => .free c x.lsid
  | 0x2C2 => decPage x fun c z => .vcommit c x.lsid z
  | 0x2C3 => decPage x fun c z => .vdecommit c x.lsid z
  | 0x2C4 => decFM x (x.zero 0 27) fun c => .vquery c x.lsid
  | 0x2C5 => some { tOk := x.t0, zOk := x.zero 5 19, fOk := x.zero 25 2 && (pgOf (x.sub 0 2)).isSome,
                    ins := fun c => .vmigrate c x.lsid (x.bit 24) (x.sub 2 2) (x.bit 4) ((pgOf (x.sub 0 2)).getD .k64) }
  | 0x2C6 => decPage x fun c z => .pin c x.lsid z
  | 0x2C7 => decPage x fun c z => .unpin c x.lsid z
  | n => if 0x298 ≤ n ∧ n < 0x2B8 then decAmo x (n / 4) (n % 4) else none

/-- The opcode map (02 R41 to R47); none is a reserved point. Log 16 (DEDUCED); 19 (DEDUCED). -/
def decRow (cx : DecCx) (x : Fld) (op : Nat) : Option Dec :=
  if op < 0x040 then decBase cx x op
  else if op < 0x100 then decScalar cx x (op / 4) (op % 4)
  else if op < 0x190 then decVCell cx x (op / 8) (decide (op / 4 % 2 = 1)) (op % 4)
  else if op < 0x200 then decVPoint x op
  else if op < 0x280 then decEngine cx x op
  else if op < 0x300 then decMemory x op
  else none

/-- Decodes one tile word, or answers the lowest cause 0x005 to 0x00D it has (02 R51, R52). -/
def decodeIn (cx : DecCx) (w : Word) : Except Cause Instr :=
  match decRow cx ⟨w.extractLsb' 51 3, w.extractLsb' 0 32⟩ (w.extractLsb' 54 10).toNat with
  | none => .error 0x005
  | some d =>
    if !d.tOk then .error 0x006
    else match guardOf (w.getLsbD 50) (w.extractLsb' 48 2) with
      | none => .error 0x007
      | some g =>
        if !d.guardable && decide (g ≠ .off) then .error 0x007
        else if !d.zOk then .error 0x008
        else if !d.mOk then .error 0x009
        else if !d.rOk then .error 0x00A
        else if !d.lOk then .error 0x00B
        else if !d.fOk then .error 0x00C
        else if !d.tgtOk then .error 0x00D
        else match tgtOf (w.extractLsb' 40 8), tgtOf (w.extractLsb' 32 8) with
          | some a, some b => .ok (d.ins ⟨g, a, b⟩)
          | _, _ => .error 0x00D

/-- Decodes a tile word in the widest context. Log 11 (DEDUCED). -/
def decode (w : Word) : Except Cause Instr := decodeIn .widest w

/-! ## Rein words (19 R342, R343) -/

/-- A Rein word: opcode, registers, Op, Kind, immediate. -/
structure RFld where
  a : BitVec 4
  b : BitVec 4
  c : BitVec 4
  op : BitVec 2
  kind : BitVec 4
  imm : BitVec 32

/-- Which fields an instruction uses; the others must be zero (19 R342). -/
structure RUse where
  a : Bool := false
  b : Bool := false
  c : Bool := false
  op : Bool := false
  kind : Bool := false
  imm : Bool := false

/-- The unused fields of a Rein word are zero. -/
def RFld.okFor (x : RFld) (u : RUse) : Bool :=
  (u.a || decide (x.a = 0)) && (u.b || decide (x.b = 0)) && (u.c || decide (x.c = 0)) &&
  (u.op || decide (x.op = 0)) && (u.kind || decide (x.kind = 0)) && (u.imm || decide (x.imm = 0))

/-- A REDUCE type (19 R352). -/
def redTyOf (k : BitVec 4) : Option ETy :=
  if k.getLsbD 3 then
    match ftyOf (k.extractLsb' 0 3) with
    | some .f32 => some (.f .f32)
    | some .bf16 => some (.f .bf16)
    | some .e4m3 => some (.f .e4m3)
    | _ => none
  else some (.i (ityOf (k.extractLsb' 0 3)))

/-- What a Rein opcode says of a word: encoding right (else 0x141), c fields in range (else 0x142). -/
structure RDec where
  ok : Bool
  cOk : Bool := true
  ins : Instr

/-- The Rein opcode map (19 R343); none is a reserved point. -/
def decRein (op : Nat) (x : RFld) : Option RDec :=
  let abc : RUse := { a := true, b := true, c := true }
  let ai : RUse := { a := true, imm := true }
  let c3 : BitVec 4 → BitVec 3 := fun r => r.extractLsb' 0 3
  let cIn : BitVec 4 → Bool := fun r => !r.getLsbD 3
  match op with
  | 0x01 => some { ok := x.okFor {}, ins := .nop }
  | 0x02 => some { ok := x.okFor { a := true, b := true }, ins := .movg x.a x.b }
  | 0x03 => some { ok := x.okFor ai, ins := .reinMovi x.a x.imm }
  | 0x04 => some { ok := x.okFor abc, ins := .addg x.a x.b x.c }
  | 0x05 => some { ok := x.okFor { a := true, b := true, imm := true }, ins := .addi x.a x.b x.imm }
  | 0x06 => some { ok := x.okFor abc, ins := .subg x.a x.b x.c }
  | 0x07 => some { ok := x.okFor abc, ins := .mulg x.a x.b x.c }
  | 0x08 => some { ok := x.okFor abc, ins := .modg x.a x.b x.c }
  | 0x09 => some { ok := x.okFor abc, ins := .andg x.a x.b x.c }
  | 0x0A => some { ok := x.okFor abc, ins := .shrg x.a x.b x.c }
  | 0x10 => some { ok := x.okFor { imm := true }, ins := .jmp x.imm }
  | 0x11 => some { ok := x.okFor ai, ins := .loop x.a x.imm }
  | 0x12 => some { ok := x.okFor ai, ins := .bnz x.a x.imm }
  | 0x13 => some { ok := x.okFor ai, ins := .bz x.a x.imm }
  | 0x18 => some { ok := x.okFor { abc with kind := true } && !x.kind.getLsbD 2 && !x.kind.getLsbD 3, cOk := cIn x.a,
                   ins := .setchunk (c3 x.a) x.b x.c (x.kind.extractLsb' 0 2) }
  | 0x19 => some { ok := x.okFor { a := true, b := true }, cOk := cIn x.a, ins := .addc (c3 x.a) x.b }
  | 0x1A =>
    match x.kind.toNat with
    | 0 => some { ok := x.okFor { a := true, b := true, kind := true }, ins := .peer x.a x.b .ring }
    | 1 => some { ok := x.okFor { a := true, b := true, kind := true }, ins := .peer x.a x.b .xor }
    | 2 => some { ok := x.okFor { a := true, b := true, kind := true }, ins := .peer x.a x.b .parent }
    | 3 => some { ok := x.okFor { abc with kind := true }, ins := .peer x.a x.b (.child x.c) }
    | _ => some { ok := false, ins := .nop }
  | 0x20 => some { ok := x.okFor abc, cOk := cIn x.a && cIn x.c, ins := .send (c3 x.a) x.b (c3 x.c) }
  | 0x21 => some { ok := x.okFor { a := true, b := true }, cOk := cIn x.a, ins := .recv (c3 x.a) x.b }
  | 0x22 =>
    match redOf x.op, redTyOf x.kind with
    | some o, some t => some { ok := x.okFor { abc with op := true, kind := true }, cOk := cIn x.a && cIn x.b && cIn x.c,
                               ins := .reduce (c3 x.a) (c3 x.b) (c3 x.c) o t }
    | _, _ => some { ok := false, ins := .nop }
  | 0x23 => some { ok := x.okFor { a := true, b := true }, cOk := cIn x.a && cIn x.b, ins := .copy (c3 x.a) (c3 x.b) }
  | 0x24 => some { ok := x.okFor { b := true }, ins := .wait x.b }
  | 0x25 => some { ok := x.okFor { b := true }, ins := .reinSignal x.b }
  | 0x26 => some { ok := x.okFor { a := true, b := true }, cOk := cIn x.b, ins := .tagchk x.a (c3 x.b) }
  | 0x27 => some { ok := x.okFor {}, ins := .reinFence }
  | 0x28 => some { ok := x.okFor {}, ins := .done }
  | _ => none

/-- The fields of a Rein word (19 R342). -/
def rfldOf (w : Word) : RFld :=
  ⟨w.extractLsb' 54 4, w.extractLsb' 50 4, w.extractLsb' 46 4, w.extractLsb' 44 2, w.extractLsb' 40 4, w.extractLsb' 0 32⟩

/-- Decodes one Rein word, or answers 0x141 or 0x142 (19 R344). Log 11 (DEDUCED). -/
def decodeRein (w : Word) : Except Cause Instr :=
  match decRein (w.extractLsb' 58 6).toNat (rfldOf w) with
  | none => .error 0x141
  | some d =>
    if !d.ok || decide (w.extractLsb' 32 8 ≠ 0) then .error 0x141
    else if !d.cOk then .error 0x142
    else .ok d.ins

/-! ## Encoding -/

/-- T of an integer type. -/
def ITy.code : ITy → BitVec 3
  | .s8 => 0 | .s16 => 1 | .s32 => 2 | .s64 => 3 | .n8 => 4 | .n16 => 5 | .n32 => 6 | .n64 => 7

/-- T of a floating type. -/
def FTy.code : FTy → BitVec 3
  | .f64 => 0 | .f32 => 1 | .f16 => 2 | .bf16 => 3 | .e4m3 => 4 | .e5m2 => 5 | .e2m1 => 6

/-- T of a type of either family. -/
def ETy.code : ETy → BitVec 3
  | .i t => t.code
  | .f t => t.code

/-- Whether a type is floating. -/
def ETy.isF : ETy → Bool
  | .i _ => false
  | .f _ => true

/-- Slot code (02 R37). -/
def Slot.code : Slot → BitVec 2
  | .l => 0 | .r => 1 | .t => 2 | .g => 3

/-- Target byte (02 R37). -/
def Tgt.code : Tgt → BitVec 8
  | .off => 0xFF
  | .to s j => (0#1 ++ s.code ++ j : BitVec 8)

/-- Bits [50:48] (02 R36). -/
def Guard.code : Guard → BitVec 3
  | .off => 0
  | .any p => (BitVec.ofBool p ++ 1#2 : BitVec 3)
  | .all p => (BitVec.ofBool p ++ 2#2 : BitVec 3)

/-- Rounding code. -/
def Rnd.code : Rnd → BitVec 3
  | .rne => 0 | .rz => 1 | .ru => 2 | .rd => 3 | .sr => 4

/-- Mask use code. -/
def MaskUse.code : MaskUse → BitVec 2
  | .none => 0 | .zero => 1 | .keep => 2

/-- Reduction code. -/
def Red.code : Red → BitVec 2
  | .sum => 0 | .min => 1 | .max => 2

/-- Scope code. -/
def Scope.code : Scope → BitVec 3
  | .slot => 0 | .tile => 1 | .die => 2 | .pkg => 3 | .pod => 4 | .sys => 5

/-- Order code. -/
def Order.code : Order → BitVec 10
  | .rlx => 0 | .acq => 1 | .rel => 2 | .acqrel => 3

/-- Condition's place among the cells. -/
def Cond.code : Cond → BitVec 10
  | .eq => 0 | .ne => 1 | .lt => 2 | .le => 3 | .gt => 4 | .ge => 5

/-- Page size code. -/
def PgSize.code : PgSize → BitVec 2
  | .k64 => 0 | .m2 => 1 | .g1 => 2

/-- MST output code. -/
def OTy.code : OTy → BitVec 3
  | .f32 => 0 | .bf16 => 1 | .f16 => 2 | .e4m3 => 3 | .e5m2 => 4

/-- System register index. -/
def SysReg.code : SysReg → BitVec 5
  | .tile => 0 | .slot => 1 | .lanes => 2 | .gang => 3 | .task => 4 | .ctx => 5
  | .cycle => 6 | .cause => 7 | .faultva => 8 | .fpflags => 9 | .fptrap => 10 | .seed => 11

/-- SWR register index. -/
def SwReg.code : SwReg → BitVec 4
  | .fpflags => 9 | .fptrap => 10 | .seed => 11

/-- ALLOC place code. -/
def APlace.code : APlace → BitVec 3
  | .home => 0 | .spread => 1 | .tier1 => 2

/-- FR of a READ register. -/
def RReg.code : RReg → BitVec 32
  | .x n => (0#3 ++ n ++ 0#24 : BitVec 32)
  | .v n => (1#3 ++ n ++ 0#24 : BitVec 32)
  | .p n => (2#3 ++ 0#2 ++ n ++ 0#24 : BitVec 32)
  | .k n => (3#3 ++ 0#2 ++ n ++ 0#24 : BitVec 32)
  | .s n => (4#3 ++ 0#2 ++ n ++ 0#24 : BitVec 32)

/-- FR of a WRITE register. -/
def WReg.code : WReg → BitVec 32
  | .x n => (0#3 ++ n ++ 0#24 : BitVec 32)
  | .v n => (1#3 ++ n ++ 0#24 : BitVec 32)
  | .p n => (2#3 ++ 0#2 ++ n ++ 0#24 : BitVec 32)
  | .k n => (3#3 ++ 0#2 ++ n ++ 0#24 : BitVec 32)

/-- A tile word of its parts (02 R34). -/
def tileWord (op : BitVec 10) (t : BitVec 3) (c : Ctl) (f : BitVec 32) : Word :=
  (op ++ t ++ c.guard.code ++ c.t0.code ++ c.t1.code ++ f : BitVec 64)

/-- FV with the saturate bit only. Log 17 (DEDUCED). -/
def fvSat (s : Bool) : BitVec 32 := (0#28 ++ BitVec.ofBool s ++ 0#3 : BitVec 32)

/-- FL with the saturate bit only. -/
def flSat (lit : BitVec 4) (s : Bool) : BitVec 32 := (lit ++ 0#24 ++ BitVec.ofBool s ++ 0#3 : BitVec 32)

/-- Form offset and operand of a scalar word. -/
def SForm.enc : SForm → BitVec 10 × BitVec 32
  | .p => (0, 0)
  | .i imm => (1, imm)
  | .l lit => (2, flSat lit false)

/-- Form offset and operand of a scalar word with .sat. -/
def SatForm.enc : SatForm → BitVec 10 × BitVec 32
  | .p s => (0, fvSat s)
  | .i imm => (1, imm)
  | .l lit s => (2, flSat lit s)

/-- Form offset and operand of MAD. -/
def MadForm.enc : MadForm → BitVec 10 × BitVec 32
  | .p s => (0, fvSat s)
  | .l lit s => (2, flSat lit s)

/-- Form offset and operand of BFX and BFI. -/
def BfForm.enc : BfForm → BitVec 10 × BitVec 32
  | .p => (0, 0)
  | .i imm => (1, imm)

/-- The modifier half-word (02 R39). -/
def modHalf (red : BitVec 2) (second : BitVec 4) (m : VMods) : BitVec 16 :=
  (0#3 ++ red ++ second ++ 0#1 ++ m.mask.code ++ BitVec.ofBool m.sat ++ m.rnd.code : BitVec 16)

/-- Form offset and operand of a vector cell. -/
def VForm.enc (f : VForm) (m : VMods) : BitVec 10 × BitVec 32 :=
  match f with
  | .v => (0, (0#16 ++ modHalf 0 0 m : BitVec 32))
  | .s => (1, (0#16 ++ modHalf 0 0 m : BitVec 32))
  | .l lit => (2, (lit ++ 0#12 ++ modHalf 0 0 m : BitVec 32))

/-- FV of modifiers. -/
def fvMods (m : VMods) : BitVec 32 := (0#16 ++ modHalf 0 0 m : BitVec 32)

/-- Modifiers that hold a mask use only. -/
def onlyMask (k : MaskUse) : VMods := ⟨.rne, false, k⟩

/-- FM of an LSID and 27 bits. -/
def fm (lsid : BitVec 5) (rest : BitVec 27) : BitVec 32 := (lsid ++ rest : BitVec 32)

/-- FM of a memory access. -/
def MemOps.enc (o : MemOps) : BitVec 32 := fm o.lsid (o.scope.code ++ o.off : BitVec 27)

/-- FM of the MMA family. -/
def MmaOps.enc (o : MmaOps) : BitVec 32 :=
  fm o.lsid (BitVec.ofBool o.arrive ++ BitVec.ofBool o.qa.isSome ++ BitVec.ofBool o.qb.isSome ++ o.acc ++
    o.qa.getD 0 ++ o.qb.getD 0 ++ o.kq ++ 0#10 : BitVec 27)

/-- FM of MST. -/
def MstOps.enc (o : MstOps) : BitVec 32 :=
  fm o.lsid (BitVec.ofBool o.credit ++ BitVec.ofBool o.out ++ BitVec.ofBool o.relu ++ o.acc ++ o.ot.code ++ o.rnd.code ++
    BitVec.ofBool o.sat ++ o.pitch : BitVec 27)

/-- FM of the copies. -/
def CpyOps.enc (o : CpyOps) : BitVec 32 :=
  fm o.lsid (BitVec.ofBool o.credit ++ BitVec.ofBool o.ring.isSome ++ BitVec.ofBool o.out ++ o.ring.getD 0 ++ 0#9 ++ o.bytes : BitVec 27)

/-- FM [23:0] of SBIND's kind. -/
def SKind.enc : SKind → BitVec 24
  | .mem v out stride => (0#2 ++ BitVec.ofBool v ++ BitVec.ofBool out ++ 0#4 ++ stride : BitVec 24)
  | .edge v b => (1#2 ++ BitVec.ofBool v ++ 0#1 ++ 0#1 ++ b ++ 0#16 : BitVec 24)
  | .rein v => (2#2 ++ BitVec.ofBool v ++ 0#21 : BitVec 24)

/-- FM with a ring or stream index in [26:24]. -/
def fmIdx (lsid : BitVec 5) (i : BitVec 3) (low : BitVec 24) : BitVec 32 := fm lsid (i ++ low : BitVec 27)

/-- FM with an offset in [23:0] and [26:24] zero. -/
def fmOff (lsid : BitVec 5) (off : BitVec 24) : BitVec 32 := fm lsid (0#3 ++ off : BitVec 27)

/-- Opcode offset of a floating half. -/
def half (t : ETy) : BitVec 10 := if t.isF then 4 else 0

/-- Opcode offset of the second point of a pair that goes by family. -/
def famPt (t : ETy) : BitVec 10 := if t.isF then 1 else 0

/-- A tile word with T an integer type. -/
def wI (op : BitVec 10) (t : ITy) (c : Ctl) (f : BitVec 32) : Option Word := some (tileWord op t.code c f)
/-- A tile word with T of either family. -/
def wE (op : BitVec 10) (t : ETy) (c : Ctl) (f : BitVec 32) : Option Word := some (tileWord op t.code c f)
/-- A tile word with T 000. -/
def w0 (op : BitVec 10) (c : Ctl) (f : BitVec 32) : Option Word := some (tileWord op 0 c f)
/-- A tile word of a cell: base plus form. -/
def wForm (base : BitVec 10) (t : BitVec 3) (c : Ctl) (e : BitVec 10 × BitVec 32) : Option Word :=
  some (tileWord (base + e.1) t c e.2)

/-- A Rein word of its parts (19 R342). -/
def reinWord (op : BitVec 6) (a b c : BitVec 4) (o : BitVec 2) (kind : BitVec 4) (imm : BitVec 32) : Option Word :=
  some (op ++ a ++ b ++ c ++ o ++ kind ++ 0#8 ++ imm : BitVec 64)

/-- A c register in a 4-bit field. -/
def cr (r : BitVec 3) : BitVec 4 := (0#1 ++ r : BitVec 4)

/-- The code of a PEER kind. -/
def PeerKind.code : PeerKind → BitVec 4
  | .ring => 0 | .xor => 1 | .parent => 2 | .child _ => 3

/-- The C field of a PEER kind. -/
def PeerKind.cReg : PeerKind → BitVec 4
  | .child c => c
  | _ => 0

/-- The family bit and T of a type, as VCVT's source and REDUCE's type take it. -/
def ETy.code4 (t : ETy) : BitVec 4 := (BitVec.ofBool t.isF ++ t.code : BitVec 4)

/-- The word of a tile or Rein instruction; an event has none. Log 19 (DEDUCED). -/
def encode : Instr → Option Word
  | .read c t r => wI 0x001 t c r.code
  | .write c t r => wI 0x002 t c r.code
  | .mov c t => wI 0x003 t c 0
  | .fan t t0 t1 t2 t3 => wI 0x004 t ⟨.off, t0, t1⟩ (t2.code ++ t3.code ++ 0#16 : BitVec 32)
  | .movi c t imm => wI 0x005 t c imm
  | .movl c t lit => wI 0x006 t c (lit ++ 0#28 : BitVec 32)
  | .void t t0 t1 => wI 0x007 t ⟨.off, t0, t1⟩ 0
  | .sel c t => wI 0x008 t c 0
  | .add c t f => wForm 0x040 t.code c f.enc
  | .sub c t f => wForm 0x044 t.code c f.enc
  | .mul c t f => wForm 0x048 t.code c f.enc
  | .mulh c t f => wForm 0x04C t.code c f.enc
  | .mad c t f => wForm 0x050 t.code c f.enc
  | .div c t f => wForm 0x054 t.code c f.enc
  | .rem c t f => wForm 0x058 t.code c f.enc
  | .neg c t s => wI 0x05C t c (fvSat s)
  | .abs c t s => wI 0x060 t c (fvSat s)
  | .min c t f => wForm 0x064 t.code c f.enc
  | .max c t f => wForm 0x068 t.code c f.enc
  | .and c t f => wForm 0x06C t.code c f.enc
  | .or c t f => wForm 0x070 t.code c f.enc
  | .xor c t f => wForm 0x074 t.code c f.enc
  | .not c t => wI 0x078 t c 0
  | .shl c t f => wForm 0x07C t.code c f.enc
  | .shr c t f => wForm 0x080 t.code c f.enc
  | .sra c t f => wForm 0x084 t.code c f.enc
  | .rot c t f => wForm 0x088 t.code c f.enc
  | .clz c t => wI 0x08C t c 0
  | .popc c t => wI 0x090 t c 0
  | .bfx c t f => wForm 0x094 t.code c f.enc
  | .bfi c t f => wForm 0x098 t.code c f.enc
  | .lea c t f => wForm 0x09C t.code c f.enc
  | .sext c t => wI 0x0A0 t c 0
  | .zext c t => wI 0x0A4 t c 0
  | .cmp c cond t f => wForm (0x0C0 + 4 * cond.code) t.code c f.enc
  | .pand c => w0 0x018 c 0
  | .por c => w0 0x019 c 0
  | .pxor c => w0 0x01A c 0
  | .pnot c => w0 0x01B c 0
  | .plane c imm => w0 0x01C c (0#24 ++ imm : BitVec 32)
  | .pcount c => w0 0x01D c 0
  | .br c => w0 0x010 c 0
  | .bri c off => w0 0x011 c off
  | .call c off => w0 0x012 c off
  | .ret c => w0 0x013 c 0
  | .endg c => w0 0x014 c 0
  | .trap c n => w0 0x015 c (0#26 ++ n : BitVec 32)
  | .vadd c t f m => wForm (0x100 + half t) t.code c (f.enc m)
  | .vsub c t f m => wForm (0x108 + half t) t.code c (f.enc m)
  | .vmul c t f m => wForm (0x110 + half t) t.code c (f.enc m)
  | .vmin c t f k => wForm (0x118 + half t) t.code c (f.enc (onlyMask k))
  | .vmax c t f k => wForm (0x120 + half t) t.code c (f.enc (onlyMask k))
  | .vdiv c t f m => wForm 0x12C t.code c (f.enc m)
  | .vand c t f k => wForm 0x130 t.code c (f.enc (onlyMask k))
  | .vor c t f k => wForm 0x138 t.code c (f.enc (onlyMask k))
  | .vxor c t f k => wForm 0x140 t.code c (f.enc (onlyMask k))
  | .vshl c t f k => wForm 0x148 t.code c (f.enc (onlyMask k))
  | .vshr c t f k => wForm 0x150 t.code c (f.enc (onlyMask k))
  | .vsra c t f k => wForm 0x158 t.code c (f.enc (onlyMask k))
  | .vcmp c cond t f k => wForm (0x160 + 8 * cond.code + half t) t.code c (f.enc (onlyMask k))
  | .vfma c t rnd s => some (tileWord 0x190 t.code c (fvMods ⟨rnd, s, .none⟩))
  | .vabs c t s k => wE (0x191 + famPt t) t c (fvMods ⟨.rne, s, k⟩)
  | .vneg c t s k => wE (0x193 + famPt t) t c (fvMods ⟨.rne, s, k⟩)
  | .vnot c t k => wI 0x195 t c (fvMods (onlyMask k))
  | .vsel c t => wI 0x196 t c 0
  | .vcvt c dst src m => wE (0x197 + famPt dst) dst c (0#16 ++ modHalf 0 src.code4 m : BitVec 32)
  | .vsqrt c t m => some (tileWord 0x199 t.code c (fvMods m))
  | .vrcp c t m => some (tileWord 0x19A t.code c (fvMods m))
  | .vrsqrte c t k => some (tileWord 0x19B t.code c (fvMods (onlyMask k)))
  | .vexp2 c t m => some (tileWord 0x19C t.code c (fvMods m))
  | .vlog2 c t m => some (tileWord 0x19D t.code c (fvMods m))
  | .vtanh c t k => some (tileWord 0x19E t.code c (fvMods (onlyMask k)))
  | .vreduce c t kind m => wE (0x1A0 + famPt t) t c (0#16 ++ modHalf kind.code 0 m : BitVec 32)
  | .vscan c t kind m => wE (0x1A2 + famPt t) t c (0#16 ++ modHalf kind.code 0 m : BitVec 32)
  | .vperm c t k => wI 0x1A4 t c (fvMods (onlyMask k))
  | .vxlane c t => wI 0x1A5 t c 0
  | .vbcast c t k => wI 0x1A6 t c (fvMods (onlyMask k))
  | .vextr c t => wI 0x1A7 t c 0
  | .vins c t => wI 0x1A8 t c 0
  | .viota c t k => wI 0x1A9 t c (fvMods (onlyMask k))
  | .vsortk c t k => wE (0x1AA + famPt t) t c (fvMods (onlyMask k))
  | .vmerge c t => wE (0x1AC + famPt t) t c 0
  | .kany c t => wI 0x1AE t c 0
  | .kall c t => wI 0x1AF t c 0
  | .kpop c t => wI 0x1B0 t c 0
  | .mma c t o => some (tileWord 0x200 t.code c o.enc)
  | .mmaG c t o => some (tileWord 0x201 t.code c o.enc)
  | .mmas c t o => some (tileWord 0x202 t.code c o.enc)
  | .mzero c l accs => w0 0x203 c (fm l (0#11 ++ accs : BitVec 27))
  | .mld c l acc => w0 0x204 c (fm l (0#3 ++ acc ++ 0#20 : BitVec 27))
  | .mst c o => w0 0x205 c o.enc
  | .qinit c l q e ce => w0 0x208 c (fm l (q ++ 0#8 ++ 0#2 ++ e ++ ce : BitVec 27))
  | .qpush c l q => w0 0x209 c (fmIdx l q 0)
  | .qpop c l q => w0 0x20A c (fmIdx l q 0)
  | .qstat c l q => w0 0x20B c (fmIdx l q 0)
  | .cpy c o => w0 0x20C c o.enc
  | .cpyS c o => w0 0x20D c o.enc
  | .cpy2d c o => w0 0x20E c o.enc
  | .cpyPeer c o => w0 0x20F c o.enc
  | .cpyMc c o => w0 0x210 c o.enc
  | .cpyg c o => w0 0x211 c o.enc
  | .pref c l b => w0 0x212 c (fm l (0#15 ++ b : BitVec 27))
  | .binit c l o => w0 0x214 c (fmOff l o)
  | .bexpect c l o => w0 0x215 c (fmOff l o)
  | .barrive c l o => w0 0x216 c (fmOff l o)
  | .bwait c l o => w0 0x217 c (fmOff l o)
  | .btest c l o => w0 0x218 c (fmOff l o)
  | .sbind c l s k => w0 0x219 c (fmIdx l s k.enc)
  | .semit c t l s => wI 0x21A t c (fmIdx l s 0)
  | .sunbind c l s => w0 0x21B c (fmIdx l s 0)
  | .sst c l s => w0 0x21C c (fmIdx l s 0)
  | .lds c t l v o => wI 0x21D t c (fm l (0#2 ++ BitVec.ofBool v ++ o : BitVec 27))
  | .sts c t l v o => wI 0x21E t c (fm l (0#2 ++ BitVec.ofBool v ++ o : BitVec 27))
  | .ld c t a o => wI (if a then 0x281 else 0x280) t c o.enc
  | .st c t r o => wI (if r then 0x286 else 0x284) t c o.enc
  | .ldv c t a o => wI (if a then 0x289 else 0x288) t c o.enc
  | .stv c t r o => wI (if r then 0x28E else 0x28C) t c o.enc
  | .gather c t l m o => wI 0x290 t c (fm l (BitVec.ofBool m ++ 0#2 ++ o : BitVec 27))
  | .scatter c t l o => wI 0x294 t c (fmOff l o)
  | .amoAdd c t d o => wI (0x298 + d.code) t c o.enc
  | .amoMin c t d o => wI (0x29C + d.code) t c o.enc
  | .amoMax c t d o => wI (0x2A0 + d.code) t c o.enc
  | .amoAnd c t d o => wI (0x2A4 + d.code) t c o.enc
  | .amoOr c t d o => wI (0x2A8 + d.code) t c o.enc
  | .amoXor c t d o => wI (0x2AC + d.code) t c o.enc
  | .amoSwap c t d o => wI (0x2B0 + d.code) t c o.enc
  | .amoCas c t d o => wI (0x2B4 + d.code) t c o.enc
  | .fence c l d sc =>
    w0 (match d with
      | .acq => 0x2B9
      | .rel => 0x2BA
      | .acqrel => 0x2BB) c (fm l (sc.code ++ 0#24 : BitVec 27))
  | .alloc c l pl j => w0 0x2C0 c (fm l (pl.code ++ 0#18 ++ j : BitVec 27))
  | .free c l => w0 0x2C1 c (fm l 0)
  | .vcommit c l z => w0 0x2C2 c (fm l (0#25 ++ z.code : BitVec 27))
  | .vdecommit c l z => w0 0x2C3 c (fm l (0#25 ++ z.code : BitVec 27))
  | .vquery c l => w0 0x2C4 c (fm l 0)
  | .vmigrate c l t1 pl a z =>
    w0 0x2C5 c (fm l (0#2 ++ BitVec.ofBool t1 ++ 0#19 ++ BitVec.ofBool a ++ pl ++ z.code : BitVec 27))
  | .pin c l z => w0 0x2C6 c (fm l (0#25 ++ z.code : BitVec 27))
  | .unpin c l z => w0 0x2C7 c (fm l (0#25 ++ z.code : BitVec 27))
  | .srd c r => w0 0x030 c (6#3 ++ r.code ++ 0#24 : BitVec 32)
  | .swr c l r => w0 0x031 c (fm l (0#23 ++ r.code : BitVec 27))
  | .tspawn c l given d => w0 0x020 c (fm l (BitVec.ofBool given ++ d ++ 0#24 : BitVec 27))
  | .tdec c l n => w0 0x021 c (fm l (0#11 ++ n : BitVec 27))
  | .tinst c l id => w0 0x022 c (fm l (0#15 ++ id : BitVec 27))
  | .tstat c l => w0 0x023 c (fm l 0)
  | .relay c l => w0 0x024 c (fm l 0)
  | .relaySig c l => w0 0x025 c (fm l 0)
  | .relayPrep c l n => w0 0x026 c (fm l (0#24 ++ n : BitVec 27))
  | .gresume c l r => w0 0x027 c (fm l (0#23 ++ r : BitVec 27))
  | .gkill c l r => w0 0x028 c (fm l (0#23 ++ r : BitVec 27))
  | .rload c l s p => w0 0x02C c (fm l (0#3 ++ s ++ p : BitVec 27))
  | .rstart c l a cr re id =>
    w0 0x02D c (fm l (BitVec.ofBool a ++ BitVec.ofBool cr ++ BitVec.ofBool re ++ 0#12 ++ id : BitVec 27))
  | .rabort c l id => w0 0x02E c (fm l (0#15 ++ id : BitVec 27))
  | .rstat c l id => w0 0x02F c (fm l (0#15 ++ id : BitVec 27))
  | .nop => reinWord 0x01 0 0 0 0 0 0
  | .movg a b => reinWord 0x02 a b 0 0 0 0
  | .reinMovi a imm => reinWord 0x03 a 0 0 0 0 imm
  | .addg a b c => reinWord 0x04 a b c 0 0 0
  | .addi a b imm => reinWord 0x05 a b 0 0 0 imm
  | .subg a b c => reinWord 0x06 a b c 0 0 0
  | .mulg a b c => reinWord 0x07 a b c 0 0 0
  | .modg a b c => reinWord 0x08 a b c 0 0 0
  | .andg a b c => reinWord 0x09 a b c 0 0 0
  | .shrg a b c => reinWord 0x0A a b c 0 0 0
  | .jmp imm => reinWord 0x10 0 0 0 0 0 imm
  | .loop a imm => reinWord 0x11 a 0 0 0 0 imm
  | .bnz a imm => reinWord 0x12 a 0 0 0 0 imm
  | .bz a imm => reinWord 0x13 a 0 0 0 0 imm
  | .setchunk a b c sp => reinWord 0x18 (cr a) b c 0 (0#2 ++ sp : BitVec 4) 0
  | .addc a b => reinWord 0x19 (cr a) b 0 0 0 0
  | .peer a b k => reinWord 0x1A a b k.cReg 0 k.code 0
  | .send a b c => reinWord 0x20 (cr a) b (cr c) 0 0 0
  | .recv a b => reinWord 0x21 (cr a) b 0 0 0 0
  | .reduce a b c op t => reinWord 0x22 (cr a) (cr b) (cr c) op.code t.code4 0
  | .copy a b => reinWord 0x23 (cr a) (cr b) 0 0 0 0
  | .wait b => reinWord 0x24 0 b 0 0 0 0
  | .reinSignal b => reinWord 0x25 0 b 0 0 0 0
  | .tagchk a b => reinWord 0x26 a (cr b) 0 0 0 0
  | .reinFence => reinWord 0x27 0 0 0 0 0 0
  | .done => reinWord 0x28 0 0 0 0 0 0
  | _ => none

/-- The instruction of a word laid out as the hardware stores it (02 R31): a tile word, or where the tile map
refuses the word, a Rein word. -/
def decodeBytes (bs : List Byte) : Option Instr :=
  let w := Machine.wordN (Machine.ofBytes (bs.take 8))
  match decode w with
  | .ok i => some i
  | .error _ =>
    match decodeRein w with
    | .ok i => some i
    | .error _ => none

/-- The instruction the decoder reads from an instruction of `nbits` bits `w`. Every instruction of Asgil is
one 64-bit word (02 R34, 19 R342). Log 11 (DEDUCED). -/
def decodeTableWord (nbits w : Nat) : Option Instr :=
  decodeBytes (Machine.bytesOf (w % 2 ^ nbits) 8)

end Sys2Proof
end

