-- ==== Sys2Proof/Machine/Fp.lean ====
section
/-!
DEFINITION. Machine/Fp.lean: the floating formats, exact values, rounding, exact sums and the functions of
03 R54 to R80. Every value is an exact number until `roundMag` narrows it.
-/
namespace Sys2Proof.Machine

/-! ## Flags (03 R70) -/

/-- The five floating-point flags. -/
structure FpFlags where
  nv : Bool := false
  dz : Bool := false
  of : Bool := false
  uf : Bool := false
  nx : Bool := false
deriving DecidableEq, Repr

/-- No flag. -/
def FpFlags.none : FpFlags := {}

/-- The invalid flag alone. -/
def FpFlags.invalid : FpFlags := { nv := true }

/-- The flags of two events together (03 R72). -/
def FpFlags.or (a b : FpFlags) : FpFlags :=
  ⟨a.nv || b.nv, a.dz || b.dz, a.of || b.of, a.uf || b.uf, a.nx || b.nx⟩

/-- Some flag is set. -/
def FpFlags.any (a : FpFlags) : Bool := a.nv || a.dz || a.of || a.uf || a.nx

/-- The bits of sr.fpflags (03 R70). -/
def FpFlags.word (a : FpFlags) : Word :=
  wordN (a.nv.toNat + 2 * a.dz.toNat + 4 * a.of.toNat + 8 * a.uf.toNat + 16 * a.nx.toNat)

/-- A pattern with the flags its computation raised. -/
structure FpOut where
  bits : Nat
  fl : FpFlags := {}
deriving DecidableEq, Repr

/-! ## Formats (03 R54) -/

/-- Width in bits. -/
def fWidth : FTy → Nat
  | .f64 => 64 | .f32 => 32 | .f16 => 16 | .bf16 => 16 | .e4m3 => 8 | .e5m2 => 8 | .e2m1 => 4

/-- Fraction bits. -/
def fFrac : FTy → Nat
  | .f64 => 52 | .f32 => 23 | .f16 => 10 | .bf16 => 7 | .e4m3 => 3 | .e5m2 => 2 | .e2m1 => 1

/-- Exponent bias. -/
def fBias : FTy → Nat
  | .f64 => 1023 | .f32 => 127 | .f16 => 15 | .bf16 => 127 | .e4m3 => 7 | .e5m2 => 15 | .e2m1 => 1

/-- The pattern of the largest finite value. -/
def fMax : FTy → Nat
  | .f64 => 0x7FEFFFFFFFFFFFFF | .f32 => 0x7F7FFFFF | .f16 => 0x7BFF | .bf16 => 0x7F7F
  | .e4m3 => 0x7E | .e5m2 => 0x7B | .e2m1 => 0x7

/-- The pattern of positive infinity, where the format has one. -/
def fInf : FTy → Option Nat
  | .f64 => some 0x7FF0000000000000 | .f32 => some 0x7F800000 | .f16 => some 0x7C00 | .bf16 => some 0x7F80
  | .e4m3 => none | .e5m2 => some 0x7C | .e2m1 => none

/-- The canonical NaN (03 R56); a format without NaN has none. -/
def fNan : FTy → Option Nat
  | .f64 => some 0x7FF8000000000000 | .f32 => some 0x7FC00000 | .f16 => some 0x7E00 | .bf16 => some 0x7FC0
  | .e4m3 => some 0x7F | .e5m2 => some 0x7E | .e2m1 => none

/-- The sign bit of a format. -/
def fSign (t : FTy) (neg : Bool) : Nat := if neg then 2 ^ (fWidth t - 1) else 0

/-- Exponent of the spacing of subnormals: the value of a pattern's last fraction bit below the normals. -/
def fEmin (t : FTy) : Int := 1 - (fBias t : Int) - (fFrac t : Int)

/-! ## Exact values -/

/-- An exact value: NaN (signalling or not), an infinity, or `±m · 2^e`; a zero keeps its sign. -/
inductive Fv where
  | nan (sig : Bool)
  | inf (neg : Bool)
  | fin (neg : Bool) (m : Nat) (e : Int)
deriving DecidableEq, Repr

/-- The value of a pattern (03 R54, R56). -/
def fDecode (t : FTy) (b : Nat) : Fv :=
  let f := fFrac t
  let w := fWidth t
  let neg := Nat.testBit b (w - 1)
  let mag := b % 2 ^ (w - 1)
  let ex := mag >>> f
  let fr := mag % 2 ^ f
  let num : Fv := if ex = 0 then .fin neg fr (fEmin t) else .fin neg (2 ^ f + fr) (fEmin t + (ex - 1 : Nat))
  match t with
  | .e2m1 => num
  | .e4m3 => if mag = 0x7F then .nan false else num
  | _ =>
    if mag >>> f = 2 ^ (w - 1 - f) - 1 then
      if fr = 0 then .inf neg else .nan (!Nat.testBit b (f - 1))
    else num

/-- A signalling NaN. -/
def Fv.isSig : Fv → Bool
  | .nan s => s
  | _ => false

/-- A NaN. -/
def Fv.isNan : Fv → Bool
  | .nan _ => true
  | _ => false

/-- A zero. -/
def Fv.isZero : Fv → Bool
  | .fin _ m _ => decide (m = 0)
  | _ => false

/-- The sign. -/
def Fv.isNeg : Fv → Bool
  | .nan _ => false
  | .inf n => n
  | .fin n _ _ => n

/-- The value with its sign inverted. -/
def Fv.flip : Fv → Fv
  | .nan s => .nan s
  | .inf n => .inf (!n)
  | .fin n m e => .fin (!n) m e

/-- The value of an integer. -/
def Fv.ofInt (v : Int) : Fv := .fin (decide (v < 0)) v.natAbs 0

/-- The signed integer `±m`. -/
def sgn (neg : Bool) (m : Nat) : Int := if neg then -(m : Int) else m

/-! ## Magnitudes, as `roundMag` takes them -/

/-- What rounding must know of an exact positive magnitude: where its leading bit stands, and for a spacing
`2^k` the count of whole spacings and whether anything remains. -/
structure Mag where
  ilog : Int
  at' : Int → Nat × Bool

/-- `n · 2^e` for n > 0. -/
def magDyadic (n : Nat) (e : Int) : Mag :=
  { ilog := (Nat.log2 n : Int) + e
    at' := fun k =>
      if k ≤ e then (n <<< (e - k).toNat, false)
      else
        let s := (k - e).toNat
        (n >>> s, decide (n % 2 ^ s ≠ 0)) }

/-- `n / d · 2^e` for n, d > 0. -/
def magRatio (n d : Nat) (e : Int) : Mag :=
  let l : Int := (Nat.log2 n : Int) - (Nat.log2 d : Int)
  let low : Bool := if 0 ≤ l then decide (n < d <<< l.toNat) else decide (n <<< (-l).toNat < d)
  { ilog := (if low then l - 1 else l) + e
    at' := fun k =>
      if k ≤ e then
        let a := n <<< (e - k).toNat
        (a / d, decide (a % d ≠ 0))
      else
        let b := d <<< (k - e).toNat
        (n / b, decide (n % b ≠ 0)) }

/-- The whole square root, two bits of `n` at a time. -/
def isqrtFuel : Nat → Nat → Nat
  | 0, _ => 0
  | f + 1, n =>
    if n = 0 then 0
    else
      let r := 2 * isqrtFuel f (n / 4)
      if (r + 1) * (r + 1) ≤ n then r + 1 else r

/-- The whole square root. -/
def isqrt (n : Nat) : Nat := isqrtFuel (Nat.log2 n / 2 + 1) n

/-- The square root of `n · 2^e` for n > 0. -/
def magSqrt (n : Nat) (e : Int) : Mag :=
  { ilog := Int.fdiv ((Nat.log2 n : Int) + e) 2
    at' := fun k =>
      let s := e - 2 * k
      if 0 ≤ s then
        let a := n <<< s.toNat
        let r := isqrt a
        (r, decide (r * r ≠ a))
      else
        let a := n >>> (-s).toNat
        let r := isqrt a
        (r, decide (r * r ≠ a) || decide (n % 2 ^ (-s).toNat ≠ 0)) }

/-! ## Rounding (03 R60, R61) -/

/-- The rounding field with the saturate bit, and the draw of 03 R63 for the element. -/
structure RMode where
  rnd : Rnd := .rne
  sat : Bool := false
  draw : Nat := 0
deriving DecidableEq, Repr

/-- Round to nearest even, no saturation. -/
def RMode.near : RMode := {}

/-- Whether the magnitude goes to the upper neighbour: `q` counts sixteenths of a bit below the spacing
(`q = 65536 · whole + rem`), `st` says more remains. -/
def roundsUp (m : RMode) (neg : Bool) (whole rem : Nat) (st : Bool) : Bool :=
  let exact := decide (rem = 0) && !st
  match m.rnd with
  | .rne => decide (32768 < rem) || (decide (rem = 32768) && (st || decide (whole % 2 = 1)))
  | .rz => false
  | .ru => !exact && !neg
  | .rd => !exact && neg
  | .sr =>
    if exact then false
    else if neg then
      -- x lies between a = -(whole+1) and b = -whole; b is taken when the draw is below the threshold
      decide (65536 - rem - st.toNat ≤ m.draw)
    else decide (m.draw < rem)

/-- `overflow(x, t, m)` (03 R61). -/
def overflowTo (t : FTy) (m : RMode) (neg : Bool) : FpOut :=
  let fl : FpFlags := { of := true, nx := true }
  let toMax : Bool := match m.rnd with
    | .rz => true
    | .ru => neg
    | .rd => !neg
    | _ => false
  if toMax || m.sat then ⟨fSign t neg + fMax t, fl⟩
  else match t with
    | .e2m1 => ⟨fSign t neg + 7, fl⟩
    | .e4m3 => ⟨0x7F, { fl with nv := true }⟩
    | _ => ⟨fSign t neg + (fInf t).getD 0, fl⟩

/-- `round` of a nonzero finite magnitude to type `t` (03 R60). -/
def roundMag (t : FTy) (m : RMode) (neg : Bool) (x : Mag) : FpOut :=
  let f := fFrac t
  let u : Int := max (x.ilog - f) (fEmin t)
  let (q, st) := x.at' (u - 16)
  let whole := q / 65536
  let rem := q % 65536
  let exact := decide (rem = 0) && !st
  let y := if roundsUp m neg whole rem st then whole + 1 else whole
  let pat := ((u - fEmin t).toNat <<< f) + y
  if fMax t < pat then overflowTo t m neg
  else
    let tiny := decide (x.ilog < fEmin t + f)
    ⟨fSign t neg + pat, { nx := !exact, uf := !exact && tiny }⟩

/-- `nan_into(t)` (03 R66). -/
def nanInto (t : FTy) (sig : Bool) : FpOut :=
  match fNan t with
  | some p => ⟨p, { nv := sig }⟩
  | none => ⟨0, .invalid⟩

/-- `inf_into(x, t, m)` (03 R66). -/
def infInto (t : FTy) (m : RMode) (neg : Bool) : FpOut :=
  match t with
  | .e4m3 => if m.sat then ⟨fSign t neg + fMax t, {}⟩ else ⟨0x7F, .invalid⟩
  | .e2m1 => ⟨fSign t neg + 7, {}⟩
  | _ => ⟨fSign t neg + (fInf t).getD 0, {}⟩

/-- `round(x, t, m)` of an exact value (03 R60). -/
def fRound (t : FTy) (m : RMode) : Fv → FpOut
  | .nan sig => nanInto t sig
  | .inf neg => infInto t m neg
  | .fin neg n e => if n = 0 then ⟨fSign t neg, {}⟩ else roundMag t m neg (magDyadic n e)

/-! ## Exact sums and products (03 R62, R65) -/

/-- The signed integer of a finite value on the spacing `2^e0`, where e0 is at most its exponent. -/
def onGrid (e0 : Int) : Fv → Int
  | .fin neg n e => sgn neg (n <<< (e - e0).toNat)
  | _ => 0

/-- The least exponent of the finite values of a list, not above `e`. -/
def minExp (e : Int) : List Fv → Int
  | [] => e
  | .fin _ n e' :: l => minExp (if n = 0 then e else min e e') l
  | _ :: l => minExp e l

/-- `exact_sum(list)` with the zero signs of R62; NV when the NaN arises from two infinities. Log 21 (DEDUCED). -/
def exactSum (rnd : Rnd) (l : List Fv) : Fv × FpFlags :=
  let sig := l.any Fv.isSig
  if l.any Fv.isNan then (.nan false, { nv := sig })
  else
    let pinf := l.any fun x => decide (x = .inf false)
    let ninf := l.any fun x => decide (x = .inf true)
    if pinf && ninf then (.nan false, .invalid)
    else if pinf then (.inf false, {})
    else if ninf then (.inf true, {})
    else
      let e0 := minExp 0 l
      let s := (l.map (onGrid e0)).foldl (· + ·) 0
      if s ≠ 0 then (.fin (decide (s < 0)) s.natAbs e0, {})
      else if l.isEmpty then (.fin false 0 0, {})
      else if l.all fun x => x.isZero && x.isNeg then (.fin true 0 0, {})
      else if l.all fun x => x.isZero && !x.isNeg then (.fin false 0 0, {})
      else (.fin (decide (rnd = .rd)) 0 0, {})

/-- The exact product; infinity times zero is NaN with NV (03 R58, R117). -/
def exactMul (x y : Fv) : Fv × FpFlags :=
  match x, y with
  | .nan a, .nan b => (.nan false, { nv := a || b })
  | .nan a, _ => (.nan false, { nv := a })
  | _, .nan b => (.nan false, { nv := b })
  | .inf a, .inf b => (.inf (a != b), {})
  | .inf a, .fin b n _ => if n = 0 then (.nan false, .invalid) else (.inf (a != b), {})
  | .fin a n _, .inf b => if n = 0 then (.nan false, .invalid) else (.inf (a != b), {})
  | .fin a n e, .fin b k f => (.fin (a != b) (n * k) (e + f), {})

/-- The flags of two computations joined with a result. -/
def FpOut.withFl (o : FpOut) (fl : FpFlags) : FpOut := ⟨o.bits, fl.or o.fl⟩

/-- Rounds an exact result that carries flags of its own. -/
def fFinish (t : FTy) (m : RMode) (r : Fv × FpFlags) : FpOut := (fRound t m r.1).withFl r.2

/-- VADD (03 R62, 05 R117). -/
def fAdd (t : FTy) (m : RMode) (x y : Nat) : FpOut := fFinish t m (exactSum m.rnd [fDecode t x, fDecode t y])
/-- VSUB. -/
def fSub (t : FTy) (m : RMode) (x y : Nat) : FpOut :=
  fFinish t m (exactSum m.rnd [fDecode t x, (fDecode t y).flip])
/-- VMUL. -/
def fMul (t : FTy) (m : RMode) (x y : Nat) : FpOut := fFinish t m (exactMul (fDecode t x) (fDecode t y))
/-- VFMA: NV for infinity times zero whatever z is (03 R58). -/
def fFma (t : FTy) (m : RMode) (x y z : Nat) : FpOut :=
  let p := exactMul (fDecode t x) (fDecode t y)
  let s := exactSum m.rnd [p.1, fDecode t z]
  fFinish t m (s.1, p.2.or s.2)
/-- VDIV (03 R75). -/
def fDiv (t : FTy) (m : RMode) (x y : Nat) : FpOut :=
  match fDecode t x, fDecode t y with
  | .nan a, .nan b => nanInto t (a || b)
  | .nan a, _ => nanInto t a
  | _, .nan b => nanInto t b
  | .inf _, .inf _ => (nanInto t false).withFl .invalid
  | .inf a, .fin b _ _ => infInto t m (a != b)
  | .fin a _ _, .inf b => ⟨fSign t (a != b), {}⟩
  | .fin a n e, .fin b k f =>
    if n = 0 && k = 0 then (nanInto t false).withFl .invalid
    else if k = 0 then (infInto t m (a != b)).withFl { dz := true }
    else if n = 0 then ⟨fSign t (a != b), {}⟩
    else roundMag t m (a != b) (magRatio n k (e - f))
/-- VSQRT (03 R75). -/
def fSqrt (t : FTy) (m : RMode) (x : Nat) : FpOut :=
  match fDecode t x with
  | .nan s => nanInto t s
  | .inf neg => if neg then (nanInto t false).withFl .invalid else infInto t m false
  | .fin neg n e =>
    if n = 0 then ⟨fSign t neg, {}⟩
    else if neg then (nanInto t false).withFl .invalid
    else roundMag t m false (magSqrt n e)
/-- VRCP (03 R75). -/
def fRcp (t : FTy) (m : RMode) (x : Nat) : FpOut :=
  match fDecode t x with
  | .nan s => nanInto t s
  | .inf neg => ⟨fSign t neg, {}⟩
  | .fin neg n e =>
    if n = 0 then (infInto t m neg).withFl { dz := true }
    else roundMag t m neg (magRatio 1 n (-e))

/-! ## exp2 and log2, correctly rounded (03 R75) -/

/-- Lower and upper bounds, at `p` bits after the point, of a number. -/
structure Ivl where
  lo : Nat
  hi : Nat

/-- Bounds of `2^(0.b…)` from the fraction's bits: `bits` counts those still to use, `frac` holds them, `r`
bounds `2^(2^-i)` for the bit in turn and `acc` the product so far. -/
def exp2Bits (p : Nat) : Nat → Nat → Ivl → Ivl → Ivl
  | 0, _, _, acc => acc
  | n + 1, frac, r, acc =>
    let root : Ivl := ⟨isqrt (r.lo <<< p), isqrt (r.hi <<< p) + 1⟩
    let acc' : Ivl :=
      if Nat.testBit frac n then ⟨(acc.lo * root.lo) >>> p, ((acc.hi * root.hi) >>> p) + 1⟩ else acc
    exp2Bits p n frac root acc'

/-- The whole part of `2^F · 2^80` for a fraction F in (0, 1) known to `p` bits, or none where the bounds
do not decide it. `more` says that F has bits below. -/
def exp2At (p frac : Nat) (more : Bool) : Option Nat :=
  let one := 1 <<< p
  let b := exp2Bits p p frac ⟨2 * one, 2 * one⟩ ⟨one, one⟩
  let hi := if more then b.hi + (b.hi >>> p) + 1 else b.hi
  let lo' := max b.lo one
  let hi' := min hi (2 * one - 1)
  let s := p - 80
  if lo' >>> s = hi' >>> s then some (lo' >>> s) else none

/-- `exp2At` at rising precisions. -/
def exp2Find (neg : Bool) (n : Nat) (e : Int) : List Nat → Int × Nat
  | [] => (0, 1 <<< 80)
  | p :: ps =>
    let sh := e + (p : Int)
    let mag := if 0 ≤ sh then n <<< sh.toNat else n >>> (-sh).toNat
    let more := decide (sh < 0) && decide (n % 2 ^ (-sh).toNat ≠ 0)
    let v : Int := if neg then -(mag : Int) - more.toNat else mag
    let i := Int.fdiv v (2 ^ p : Nat)
    let frac := (v - i * (2 ^ p : Nat)).toNat
    match exp2At p frac more with
    | some q => (i, q)
    | none => exp2Find neg n e ps

/-- VEXP2 (03 R75). A power is a whole power of two exactly when its exponent is an integer. -/
def fExp2 (t : FTy) (m : RMode) (x : Nat) : FpOut :=
  match fDecode t x with
  | .nan s => nanInto t s
  | .inf neg => if neg then ⟨0, {}⟩ else infInto t m false
  | .fin neg n e =>
    if n = 0 then fRound t m (.fin false 1 0)
    else if 20 ≤ (Nat.log2 n : Int) + e then
      roundMag t m false (magDyadic 1 (if neg then -40000 else 40000))
    else
      let whole : Bool := if 0 ≤ e then true else decide (n % 2 ^ (-e).toNat = 0)
      if whole then
        let k : Nat := if 0 ≤ e then n <<< e.toNat else n >>> (-e).toNat
        roundMag t m false (magDyadic 1 (sgn neg k))
      else
        let (i, q) := exp2Find neg n e [112, 256, 1024, 4096]
        roundMag t m false
          { ilog := i
            at' := fun k =>
              let s := k - (i - 80)
              (if 0 ≤ s then q >>> s.toNat else q <<< (-s).toNat, true) }

/-- The first `n` bits of log2 of a number in [1, 2) with bounds at `p` bits: repeated squaring; none where
the bounds straddle 2. -/
def log2Bits (p : Nat) : Nat → Ivl → Nat → Option Nat
  | 0, _, acc => some acc
  | n + 1, g, acc =>
    let lo := (g.lo * g.lo) >>> p
    let hi := ((g.hi * g.hi) >>> p) + 1
    let two := 2 <<< p
    if two ≤ lo then log2Bits p n ⟨lo / 2, hi / 2 + 1⟩ (2 * acc + 1)
    else if hi < two then log2Bits p n ⟨lo, hi⟩ (2 * acc)
    else none

/-- `log2Bits` at rising precisions: 160 bits of the fraction. -/
def log2Find (n : Nat) : List Nat → Nat
  | [] => 0
  | p :: ps =>
    let l := Nat.log2 n
    match log2Bits p 160 ⟨(n <<< p) >>> l, (n <<< p) >>> l⟩ 0 with
    | some q => q
    | none => log2Find n ps

/-- VLOG2 (03 R75). A logarithm is an integer exactly when the operand is a whole power of two. -/
def fLog2 (t : FTy) (m : RMode) (x : Nat) : FpOut :=
  match fDecode t x with
  | .nan s => nanInto t s
  | .inf neg => if neg then (nanInto t false).withFl .invalid else infInto t m false
  | .fin neg n e =>
    if n = 0 then (infInto t m true).withFl { dz := true }
    else if neg then (nanInto t false).withFl .invalid
    else
      let i : Int := (Nat.log2 n : Int) + e
      if n = 1 <<< Nat.log2 n then
        if i = 0 then ⟨0, {}⟩ else fRound t m (.ofInt i)
      else
        let q := log2Find n [400, 800, 2000]
        let v : Int := i * (2 ^ 160 : Nat) + q
        let neg := decide (v < 0)
        let mag : Nat := if neg then v.natAbs - 1 else v.natAbs
        roundMag t m neg
          { ilog := (Nat.log2 mag : Int) - 160
            at' := fun k =>
              let s := k + 160
              (if 0 ≤ s then mag >>> s.toNat else mag <<< (-s).toNat, true) }

/-! ## The estimate and the polynomial (03 R76 to R78) -/

/-- The table entry Q of R76. -/
def rsqrtEntry (p m : Nat) : Nat :=
  -- with D = 2^p · (2049 + 2m) / 2048 the entry is rne(sqrt(2^35 / (2^p · (2049 + 2m)))) − 2048
  let den := 2 ^ p * (2049 + 2 * m)
  let num := 2 ^ 35
  let n := isqrt (num / den)
  let odd := 2 * n + 1
  let r := if odd * odd * den < 4 * num then n + 1
    else if odd * odd * den = 4 * num && n % 2 = 1 then n + 1 else n
  min 2047 (r - 2048)

/-- VRSQRTE (03 R76, R77). -/
def fRsqrte (t : FTy) (x : Nat) : FpOut :=
  match fDecode t x with
  | .nan s => nanInto t s
  | .inf neg => if neg then (nanInto t false).withFl .invalid else ⟨0, {}⟩
  | .fin neg n e =>
    if n = 0 then (infInto t .near neg).withFl { dz := true }
    else if neg then (nanInto t false).withFl .invalid
    else
      let l := Nat.log2 n
      let ee : Int := (l : Int) + e
      let p : Nat := (Int.emod ee 2).toNat
      let k := Int.fdiv (ee - p) 2
      let m := ((n - 2 ^ l) * 1024) / 2 ^ l
      let q := rsqrtEntry p m
      ⟨(fRound t .near (.fin false (2048 + q) (-k - 12))).bits, {}⟩

/-- A binary32 operation rounded to nearest even, pattern only. -/
def f32Op (f : FTy → RMode → Nat → Nat → FpOut) (x y : Nat) : Nat := (f .f32 .near x y).bits

/-- A rational rounded to binary32. -/
def f32Ratio (neg : Bool) (n d : Nat) : Nat := (roundMag .f32 .near neg (magRatio n d 0)).bits

/-- `s` doublings of the argument of tanh (03 R78). -/
def tanhUp : Nat → Nat → Nat
  | 0, y => y
  | s + 1, y =>
    let q := f32Op fMul y y
    let d := f32Op fAdd 0x3F800000 q
    tanhUp s (f32Op fDiv (f32Op fAdd y y) d)

/-- `tanh32` of a binary32 pattern (03 R78). -/
def tanh32 (x : Nat) : FpOut :=
  match fDecode .f32 x with
  | .nan s => nanInto .f32 s
  | .inf neg => ⟨fSign .f32 neg + 0x3F800000, {}⟩
  | .fin neg n e =>
    let l : Int := (Nat.log2 n : Int) + e
    let t := x % 2 ^ 31
    if 0x41100000 ≤ t then ⟨fSign .f32 neg + 0x3F800000, {}⟩
    else if t < 0x39800000 then ⟨x % 2 ^ 32, {}⟩
    else
      let s := (max 0 (l + 3)).toNat
      let u := (fRound .f32 .near (.fin false n (e - s))).bits
      let z := f32Op fMul u u
      let c3 := f32Ratio true 1 3
      let c5 := f32Ratio false 2 15
      let c7 := f32Ratio true 17 315
      let c9 := f32Ratio false 62 2835
      let p := (fFma .f32 .near c9 z c7).bits
      let p := (fFma .f32 .near p z c5).bits
      let p := (fFma .f32 .near p z c3).bits
      let w := f32Op fMul u z
      let y := (fFma .f32 .near w p u).bits
      ⟨fSign .f32 neg + tanhUp s y, {}⟩

/-- VTANH (03 R78): the type's value taken exactly to binary32 and the result rounded back. -/
def fTanh (t : FTy) (x : Nat) : FpOut :=
  match t with
  | .f32 => tanh32 x
  | _ =>
    let v := fDecode t x
    let r := tanh32 (fRound .f32 .near v).bits
    ⟨(fRound t .near (fDecode .f32 r.bits)).bits, { nv := v.isSig }⟩

/-! ## Compare, minimum, maximum -/

/-- The sign of `x − y` of two values that are not NaN: negative, zero or positive. -/
def fCmpV (x y : Fv) : Int :=
  match x, y with
  | .inf a, .inf b => sgn a 1 - sgn b 1
  | .inf a, _ => sgn a 1
  | _, .inf b => -(sgn b 1)
  | x, y =>
    let e0 := minExp 0 [x, y]
    onGrid e0 x - onGrid e0 y

/-- `x < y` with −0 below +0 (03 R58). -/
def fLess (x y : Fv) : Bool :=
  let c := fCmpV x y
  decide (c < 0) || (decide (c = 0) && x.isNeg && !y.isNeg)

/-- The condition of a comparison from the sign of the difference. -/
def condHolds (c : Cond) (d : Int) : Bool :=
  match c with
  | .eq => decide (d = 0)
  | .ne => decide (d ≠ 0)
  | .lt => decide (d < 0)
  | .le => decide (d ≤ 0)
  | .gt => decide (0 < d)
  | .ge => decide (0 ≤ d)

/-- Floating comparison (05 R120). -/
def fCompare (t : FTy) (c : Cond) (x y : Nat) : Bool × FpFlags :=
  let a := fDecode t x
  let b := fDecode t y
  if a.isNan || b.isNan then
    let quietSets : Bool := match c with
      | .eq | .ne => false
      | _ => true
    (decide (c = .ne), { nv := a.isSig || b.isSig || quietSets })
  else (condHolds c (fCmpV a b), {})

/-- minimumNumber and maximumNumber of a list of patterns; the first of equals is kept. An empty list or one
of NaN only gives the canonical NaN (05 R118, R124). -/
def fExtreme (t : FTy) (isMax : Bool) (l : List Nat) : FpOut :=
  let sig := l.any fun b => (fDecode t b).isSig
  let better : Nat → Nat → Bool := fun a b =>
    if isMax then fLess (fDecode t b) (fDecode t a) else fLess (fDecode t a) (fDecode t b)
  match l.filter fun b => !(fDecode t b).isNan with
  | [] => ⟨(fNan t).getD 0, { nv := sig }⟩
  | a :: as => ⟨as.foldl (fun r b => if better b r then b else r) a, { nv := sig }⟩

/-- |x| and −x of a pattern (05 R119). -/
def fSignOp (t : FTy) (absolute : Bool) (x : Nat) : FpOut :=
  match fDecode t x with
  | .nan s => nanInto t s
  | _ =>
    let mag := x % 2 ^ (fWidth t - 1)
    let neg := !absolute && !Nat.testBit x (fWidth t - 1)
    ⟨fSign t neg + mag, {}⟩

/-! ## Conversions (03 R66 to R68) -/

/-- Width of an integer type. -/
def iWidth : ITy → Nat
  | .s8 => 8 | .s16 => 16 | .s32 => 32 | .s64 => 64 | .n8 => 8 | .n16 => 16 | .n32 => 32 | .n64 => 64

/-- A signed type. -/
def iSigned : ITy → Bool
  | .s8 => true | .s16 => true | .s32 => true | .s64 => true | .n8 => false | .n16 => false | .n32 => false | .n64 => false

/-- `val(x, T)` of a pattern (04 R81). Log 22 (DEDUCED). -/
def iVal (t : ITy) (x : Nat) : Int :=
  if iSigned t then sextN x (iWidth t) else ((x % 2 ^ iWidth t : Nat) : Int)

/-- The least value of a type (03 R57). -/
def iMin (t : ITy) : Int := if iSigned t then -(2 ^ (iWidth t - 1) : Nat) else 0

/-- The greatest value of a type (03 R57). -/
def iMax (t : ITy) : Int := if iSigned t then ((2 ^ (iWidth t - 1) : Nat) : Int) - 1 else ((2 ^ iWidth t : Nat) : Int) - 1

/-- `fit(v, T, s)` as a w-bit pattern (04 R81). Log 22 (DEDUCED). -/
def iFit (t : ITy) (sat : Bool) (v : Int) : Nat :=
  if sat && decide (v < iMin t) then truncI (iMin t) (iWidth t)
  else if sat && decide (iMax t < v) then truncI (iMax t) (iWidth t)
  else truncI v (iWidth t)

/-- A float to an integer type (03 R67). -/
def fToInt (s : FTy) (t : ITy) (m : RMode) (x : Nat) : FpOut :=
  match fDecode s x with
  | .nan _ => ⟨0, .invalid⟩
  | .inf neg => ⟨if m.sat then truncI (if neg then iMin t else iMax t) (iWidth t) else 0, .invalid⟩
  | .fin neg n e =>
    let (q, st) := (magDyadic n e).at' (-16)
    let whole := q / 65536
    let rem := q % 65536
    let mag := if n = 0 then 0 else if roundsUp m neg whole rem st then whole + 1 else whole
    let y := sgn neg mag
    let exact := decide (rem = 0) && !st
    if y < iMin t ∨ iMax t < y then ⟨iFit t m.sat y, .invalid⟩
    else ⟨truncI y (iWidth t), { nx := !exact }⟩

/-- VCVT of one element (05 R122). An integer that is widened is extended by its source's signedness and never
saturates (03 R68). Log 22 (DEDUCED). -/
def convert (src dst : ETy) (m : RMode) (x : Nat) : FpOut :=
  match src, dst with
  | .f s, .f t => fRound t m (fDecode s x)
  | .f s, .i t => fToInt s t m x
  | .i s, .f t => fRound t m (.ofInt (iVal s x))
  | .i s, .i t => ⟨iFit t (m.sat && decide (iWidth t ≤ iWidth s)) (iVal s x), {}⟩

/-! ## Matrix sums (03 R79) -/

/-- The value of an E8M0 scale code (03 R55). -/
def e8m0 (c : Nat) : Fv := if c = 0xFF then .nan false else .fin false 1 ((c : Int) - 127)

/-- The chunk length of R79. -/
def chunkLen : FTy → Nat
  | .f16 => 32 | .bf16 => 32 | .e4m3 => 64 | .e5m2 => 64 | .e2m1 => 128 | _ => 32

/-- One chunk of an accumulator element: the exact sum of the products, added to acc and rounded once. -/
def chunkAdd (acc : Nat) (prods : List Fv) : Nat :=
  let s := (exactSum .rne prods).1
  (fRound .f32 .near (exactSum .rne [fDecode .f32 acc, s]).1).bits

/-- R79 over all products of an element, cut in chunks of `c`. -/
def chunksAdd (c : Nat) : Nat → Nat → List Fv → Nat
  | 0, acc, _ => acc
  | n + 1, acc, ps => if ps.isEmpty then acc else chunksAdd c n (chunkAdd acc (ps.take c)) (ps.drop c)

end Sys2Proof.Machine
end

