-- ==== Sys2Proof/Machine/Tokens.lean ====
section
/-!
DEFINITION. Machine/Tokens.lean: tokens and their lanes (07 R144, 04 R82, R83), elements of a lane (05 R109,
R110), guards (07 R145) and stochastic draws (03 R63).
-/
namespace Sys2Proof.Machine

/-! ## Lanes -/

/-- The lane of an index; indexes above 7 read lane 7 and none is ever used. -/
def laneGet {α : Type} (x : Lanes α) : Nat → α
  | 0 => x.l0 | 1 => x.l1 | 2 => x.l2 | 3 => x.l3 | 4 => x.l4 | 5 => x.l5 | 6 => x.l6 | _ => x.l7

/-- The lanes of a function of the lane number. -/
def laneFn {α : Type} (f : Nat → α) : Lanes α := ⟨f 0, f 1, f 2, f 3, f 4, f 5, f 6, f 7⟩

/-- The same value in every lane. -/
def laneAll {α : Type} (a : α) : Lanes α := ⟨a, a, a, a, a, a, a, a⟩

/-- The lanes in order. -/
def laneList {α : Type} (x : Lanes α) : List α := [x.l0, x.l1, x.l2, x.l3, x.l4, x.l5, x.l6, x.l7]

/-- The lane numbers. -/
def laneIdx : List Nat := [0, 1, 2, 3, 4, 5, 6, 7]

/-! ## Tokens (07 R144) -/

/-- Token shapes (07 R144). -/
inductive Shape where
  | s | v | p | k
deriving DecidableEq, Repr

/-- A token; a part of a V, P or K token that is none is void (04 R82). -/
inductive Token where
  | void
  | s (w : Word)
  | v (x : Lanes (Option LaneBits))
  | p (x : Lanes (Option Bool))
  | k (x : Lanes (Option MaskBits))
deriving DecidableEq, Repr

/-- The token is void in a lane. -/
def Token.voidAt (l : Nat) : Token → Bool
  | .void => true
  | .s _ => false
  | .v x => (laneGet x l).isNone
  | .p x => (laneGet x l).isNone
  | .k x => (laneGet x l).isNone

/-- The token is void in some active lane (04 R83). -/
def Token.voidAny (active : Nat) (t : Token) : Bool := (List.range active).any t.voidAt

/-- The token is void in every active lane, or a void S token (07 R145). -/
def Token.voidAll (active : Nat) (t : Token) : Bool := (List.range active).all t.voidAt

/-- The 64 bits of an S token. -/
def Token.word : Token → Word
  | .s w => w
  | _ => 0

/-- A lane of a V token. -/
def Token.vLane (l : Nat) : Token → LaneBits
  | .v x => (laneGet x l).getD 0
  | _ => 0

/-- A lane of a K token. -/
def Token.kLane (l : Nat) : Token → MaskBits
  | .k x => (laneGet x l).getD 0
  | _ => 0

/-- A lane of a P token. -/
def Token.pLane (l : Nat) : Token → Bool
  | .p x => (laneGet x l).getD false
  | _ => false

/-- The shape of a token; a void token has none. -/
def Token.shape : Token → Option Shape
  | .void => none
  | .s _ => some .s
  | .v _ => some .v
  | .p _ => some .p
  | .k _ => some .k

/-- A V token of values computed in the lanes `ls` where no data token is void (05 R114). -/
def vLanes (ls : List Nat) (data : List Token) (f : Nat → LaneBits) : Token :=
  .v (laneFn fun l => if ls.contains l && !(data.any (Token.voidAt l)) then some (f l) else none)

/-- A P token of values computed in the lanes `ls` where no data token is void. -/
def pLanes (ls : List Nat) (data : List Token) (f : Nat → Bool) : Token :=
  .p (laneFn fun l => if ls.contains l && !(data.any (Token.voidAt l)) then some (f l) else none)

/-- A K token of values computed in the lanes `ls` where no data token is void. -/
def kLanes (ls : List Nat) (data : List Token) (f : Nat → MaskBits) : Token :=
  .k (laneFn fun l => if ls.contains l && !(data.any (Token.voidAt l)) then some (f l) else none)

/-- The lanes of `ls` in which no data token is void. -/
def liveLanes (ls : List Nat) (data : List Token) : List Nat :=
  laneIdx.filter fun l => ls.contains l && !(data.any (Token.voidAt l))

/-- A token with its lanes outside `ls` void; an S token is whole (04 R82). -/
def Token.restrict (ls : List Nat) : Token → Token
  | .void => .void
  | .s w => .s w
  | .v x => .v (laneFn fun l => if ls.contains l then laneGet x l else none)
  | .p x => .p (laneFn fun l => if ls.contains l then laneGet x l else none)
  | .k x => .k (laneFn fun l => if ls.contains l then laneGet x l else none)

/-! ## Elements of a lane (05 R109, R110) -/

/-- Width of an element type. -/
def eWidth : ETy → Nat
  | .i t => iWidth t
  | .f t => fWidth t

/-- Elements of a lane. -/
def eCount (w : Nat) : Nat := 1024 / w

/-- The `n` lowest elements of width `w`. -/
def elemsFrom (w : Nat) : Nat → Nat → List Nat
  | 0, _ => []
  | n + 1, v => v % 2 ^ w :: elemsFrom w n (v >>> w)

/-- The elements of a lane. -/
def elems (w : Nat) (x : LaneBits) : List Nat := elemsFrom w (eCount w) x.toNat

/-- A number of its elements of width `w`. -/
def packN (w : Nat) : List Nat → Nat
  | [] => 0
  | e :: es => e % 2 ^ w + 2 ^ w * packN w es

/-- The lane of its elements. -/
def pack (w : Nat) (es : List Nat) : LaneBits := BitVec.ofNat 1024 (packN w es)

/-- The mask bits of the elements of width `w` (05 R110). -/
def maskBits (w : Nat) (k : MaskBits) : List Bool :=
  (List.range (eCount w)).map fun i => k.getLsbD (w / 8 * i)

/-- A K lane with each element's bit repeated over its bytes (05 R110). -/
def maskPack (w : Nat) (bs : List Bool) : MaskBits :=
  BitVec.ofNat 128 (packN (w / 8) (bs.map fun b => if b then 2 ^ (w / 8) - 1 else 0))

/-- The S token of a pattern of an integer type (`ext` of 04 R81). -/
def extT (t : ITy) (pat : Nat) : Word :=
  if iSigned t then wordI (sextN pat (iWidth t)) else wordN (pat % 2 ^ iWidth t)

/-! ## Guards (07 R145) -/

/-- The executing lanes of an instruction under its guard and guard token, or none where it resolves void. -/
def guardLanes (active : Nat) (g : Guard) (tok : Option Token) : Option (List Nat) :=
  let all := List.range active
  let gt := tok.getD .void
  match g with
  | .off => some all
  | .any pol =>
    if gt.voidAny active then none
    else
      let ex := all.filter fun l => gt.pLane l != pol
      if ex.isEmpty then none else some ex
  | .all pol =>
    if gt.voidAny active then none
    else if all.all fun l => gt.pLane l != pol then some all else none

/-! ## Stochastic draws (03 R63) -/

/-- `draw()` for seed, committed-block count and key. -/
def draw16 (seed n : Word) (key : Nat) : Nat :=
  let h : Word := seed + n * 0x9E3779B97F4A7C15#64 + wordN key * 0xD1B54A32D192ED03#64
  let h := (h ^^^ (h >>> 30)) * 0xBF58476D1CE4E5B9#64
  let h := (h ^^^ (h >>> 27)) * 0x94D049BB133111EB#64
  let h := h ^^^ (h >>> 31)
  h.toNat % 65536

end Sys2Proof.Machine
end

