-- ==== Sys2Proof/Machine/Alu.lean ====
section
/-!
DEFINITION. Machine/Alu.lean: what the scalar, compare and predicate instructions compute from their operands
(04 R81, R91, R93, R95 to R98; 03 R69).
-/
namespace Sys2Proof.Machine

/-- `ext(fit(v, T, s), T)` (04 R81). -/
def fitWord (t : ITy) (sat : Bool) (v : Int) : Word := extT t (iFit t sat v)

/-- `sext(imm, 32)` as 64 bits (04 R81). -/
def immWord (imm : BitVec 32) : Word := imm.signExtend 64

/-- MOVI (04 R91). -/
def aluMovi (t : ITy) (imm : BitVec 32) : Word := extT t (immWord imm).toNat

/-- log2 of the width of a type. -/
def iLog (t : ITy) : Nat := Nat.log2 (iWidth t)

/-- The w-bit pattern of a token. -/
def patOf (t : ITy) (x : Word) : Nat := x.toNat % 2 ^ iWidth t

/-- The quotient of DIV (04 R95). -/
def divI (a b : Int) : Int := if b = 0 then 0 else Int.tdiv a b

/-- The remainder of REM (04 R95). -/
def remI (a b : Int) : Int := if b = 0 then a else a - b * Int.tdiv a b

/-- A shift, left or right, of a w-bit pattern (04 R95). -/
def shlPat (t : ITy) (a n : Nat) : Nat := (a <<< (n % iWidth t)) % 2 ^ iWidth t
/-- Zeros in at the top. -/
def shrPat (t : ITy) (a n : Nat) : Nat := a >>> (n % iWidth t)
/-- Copies of bit w−1 in at the top. -/
def sraPat (t : ITy) (a n : Nat) : Nat := truncI (Int.fdiv (sextN a (iWidth t)) (2 ^ (n % iWidth t) : Nat)) (iWidth t)
/-- Rotation to the left. -/
def rotPat (t : ITy) (a n : Nat) : Nat :=
  let w := iWidth t
  let k := n % w
  ((a <<< k) ||| (a >>> (w - k))) % 2 ^ w

/-- Leading zeros of a w-bit pattern. -/
def clzPat (w a : Nat) : Nat := if a = 0 then w else w - 1 - Nat.log2 a

/-- Ones of a w-bit pattern. -/
def popPat (w a : Nat) : Nat := ((List.range w).filter fun i => Nat.testBit a i).length

/-- Position and length of BFX and BFI (04 R96). -/
def bfField (t : ITy) (ctl : Word) : Nat × Nat :=
  let pos := bitsN ctl 0 6
  (pos, min (bitsN ctl 8 7) (iWidth t - pos))

/-- BFX (04 R96). -/
def aluBfx (t : ITy) (a ctl : Word) : Word :=
  let (pos, len) := bfField t ctl
  let field := (patOf t a >>> pos) % 2 ^ len
  let v : Int := if len = 0 then 0 else if iSigned t then sextN field len else (field : Int)
  extT t (truncI v (iWidth t))

/-- BFI (04 R96). -/
def aluBfi (t : ITy) (a b ctl : Word) : Word :=
  let (pos, len) := bfField t ctl
  let base := patOf t a
  let hole := (2 ^ len - 1) * 2 ^ pos
  let kept := base - (base &&& hole)
  extT t (kept + (patOf t b % 2 ^ len) * 2 ^ pos)

/-- LEA (04 R95). -/
def aluLea (t : ITy) (a b : Word) : Word := wordI (a.toNat + iVal t b.toNat * (iWidth t / 8 : Nat))

/-- The lesser or greater of two values. -/
def pickI (isMax : Bool) (a b : Int) : Int := if isMax then max a b else min a b

/-- A binary operation on values. -/
def aluVal (t : ITy) (sat : Bool) (f : Int → Int → Int) (a b : Word) : Word :=
  fitWord t sat (f (iVal t a.toNat) (iVal t b.toNat))

/-- A binary operation on patterns. -/
def aluPat (t : ITy) (f : Nat → Nat → Nat) (a b : Word) : Word := extT t (f (patOf t a) (patOf t b))

/-- MULH (04 R95). -/
def mulhI (w : Nat) (a b : Int) : Int := Int.fdiv (a * b) (2 ^ w : Nat)

/-- CMP's bit (04 R97). -/
def aluCmp (c : Cond) (t : ITy) (a b : Word) : Bool := condHolds c (iVal t a.toNat - iVal t b.toNat)

/-- SEL (04 R93) in the active lanes `n`, restricted to the executing lanes `ls`. -/
def aluSel (n : Nat) (ls : List Nat) (a b p : Token) : Token :=
  let data := [a, b, p]
  match a, b with
  | .s x, .s y =>
    if p.voidAny n then .void
    else if (List.range n).any p.pLane then .s x else .s y
  | .v _, _ => vLanes ls data fun l => if p.pLane l then a.vLane l else b.vLane l
  | .p _, _ => pLanes ls data fun l => if p.pLane l then a.pLane l else b.pLane l
  | .k _, _ => kLanes ls data fun l => if p.pLane l then a.kLane l else b.kLane l
  | _, _ => .void

/-- A lane-wise operation on P tokens (04 R98). -/
def aluP2 (ls : List Nat) (f : Bool → Bool → Bool) (a b : Token) : Token :=
  pLanes ls [a, b] fun l => f (a.pLane l) (b.pLane l)

/-- PCOUNT (04 R98). -/
def aluPcount (n : Nat) (a : Token) : Token :=
  if a.voidAny n then .void else .s (wordN ((List.range n).filter a.pLane).length)

end Sys2Proof.Machine
end

