-- ==== Sys2Proof/Config.lean ====
section
/-!
DEFINITION. Config.lean: what an Asgil fixes for itself or leaves open: fused values, fitted memory, choices the
spec leaves to the device and values it does not state. Every one is opaque: nothing can be proved of its value.
In every file, Log <n> (<mark>) is the entry notes/assumptions/<n>.md that says what is chosen and why.
-/
namespace Sys2Proof.Config

/-- A choice the spec leaves to the device, one for each draw of State.fresh: which free frame, which free heap
range, which pick of equals. Log 4 (DESIGN CHOICE). -/
opaque choice : Nat → Nat

/-- Where in its heap the device takes a range, by draw and by the ranges already taken at it (12 R244). Log 34 (DESIGN CHOICE). -/
opaque heapAt : Nat → Nat → Nat

/-- How an engine takes the bytes of a transfer, by draw: which it reads or writes next, and how many (08 R169, R182).
Log 68 (DEDUCED); 70 (DEDUCED). -/
opaque portion : Nat → Nat

/-- Cycles that pass at a step beyond one (12 R254; no rule fixes the cycles of a step). Log 3 (DESIGN CHOICE). -/
opaque cycles : Nat → Nat

/-- Bytes of CXL memory fitted to a port (10 R212). Log 107 (DESIGN CHOICE). -/
opaque cxlBytes : Nat → Nat

/-- Which M-tile site of a die a logical M-tile takes as the tiles are numbered, by die × 64 + tile (00 R5, fused): a
number that the sites still free are counted by. Log 107 (DESIGN CHOICE). -/
opaque siteOf : Nat → Nat

/-- Which spare sites of a die are fused off, by die × 64 + site (00 R5: the numbering maps around them). Log 107 (DESIGN CHOICE). -/
opaque fusedOff : Nat → Bool

/-- The frames of its stack's local addresses that an HBM row holds, by its selector; those of another die are none of
its (14 R275, R409; 10 R211; the layout of a stack is not stated). Log 107 (DESIGN CHOICE). -/
opaque rowFrames : Nat → List Nat

/-- The task-memory macro that holds a record's index (14 R275, R409; the layout is not stated). Log 107 (DESIGN CHOICE). -/
opaque recMacro : Nat → Nat

/-- Management register 0x00: the stepping (22 R406, "Fused"). Log 104 (DESIGN CHOICE). -/
opaque stepping : BitVec 8

/-- Management register 0x18 by draw: the four die temperatures (22 R406). Log 104 (DESIGN CHOICE). -/
opaque temperature : Nat → BitVec 32

/-- Package watts by draw (22 R406). Log 104 (DESIGN CHOICE). -/
opaque watts : Nat → BitVec 16

/-- SHA3-256 of FIPS 202, which the spec names and does not define (22 R404): 32 bytes. Log 106 (PRESUMED). -/
opaque sha3 : List Byte → List Byte

/-- Whether an ML-DSA-44 signature verifies under a key for a message (22 R404; FIPS 204). Log 106 (PRESUMED). -/
opaque mldsaVerify : List Byte → List Byte → List Byte → Bool

/-- The ML-DSA-44 signature by the identity key (22 R405): 2,420 bytes. Log 106 (PRESUMED). -/
opaque mldsaSign : List Byte → List Byte

/-- The identity key's public half: 1,312 bytes (22 R405). Log 106 (PRESUMED). -/
opaque identityKey : List Byte

/-- The fused digest of the signing key (22 R404). Log 106 (PRESUMED). -/
opaque fusedDigest : List Byte

/-- The fused security version counter (22 R404). Log 106 (PRESUMED). -/
opaque fusedVersion : Nat

/-- A RoCEv2 key the device chooses, by draw (22 R400). Log 107 (DESIGN CHOICE). -/
opaque regionKey : Nat → Nat

/-- A local queue pair number and initial packet sequence number, by draw (22 R399). Log 107 (DESIGN CHOICE). -/
opaque qpNumber : Nat → Nat

/-- Bytes that the spec leaves unspecified, by draw and position: a landing area after an abort (21 R373),
non-durable memory after recovery (22 R402). Log 57 (DESIGN CHOICE). -/
opaque freeByte : Nat → Nat → Byte

/-- A byte that a read of another package's memory brings, by draw and physical address: what stands there is that
package's (10 R206, R213). Log 112 (DESIGN CHOICE). -/
opaque farByte : Nat → Nat → Byte

/-- Whether a read of another package's memory finds a granule poisoned, by draw and granule (14 R272). Log 112 (DESIGN CHOICE). -/
opaque farBad : Nat → Nat → Bool

/-- Whether a local address of another package is populated, by physical address / 65,536 (10 R212: CXL is fitted per
package). Log 112 (DESIGN CHOICE). -/
opaque farFitted : Nat → Bool

/-- What the dispatcher of another package answers a probe, by draw (15 R286). Log 113 (DESIGN CHOICE). -/
opaque farAnswer : Nat → Nat

end Sys2Proof.Config
end

