-- ==== Sys2Proof/Machine/State.lean ====
section
/-!
DEFINITION. Machine/State.lean: the state of one package of Asgil, as plain data, and its value at reset.
-/
namespace Sys2Proof.Machine

/-! ## Bytes -/

/-- Bytes by address: addresses rise strictly and no listed byte is 0, which is what an unlisted one reads as. -/
abbrev Cells := List Host.Cell

/-- A 64 KiB scratch window (07 R140): bytes and poisoned 64-byte granules (14 R272). Log 5 (DESIGN CHOICE). -/
structure Window where
  cells : Cells := []
  poison : List Nat := []
deriving DecidableEq, Repr

/-- An accumulator: 128 × 128 binary32 elements, element (i, j) at byte 4(128i + j), and whether an operand
poisoned it (08 R167, 14 R272). Log 5 (DESIGN CHOICE). -/
structure Acc where
  cells : Cells := []
  poisoned : Bool := false
deriving DecidableEq, Repr

/-- A byte of scratch: gang rank of the owner, window, byte (08 R161). -/
structure ScrAt where
  rank : Nat
  win : Nat
  off : Nat
deriving DecidableEq, Repr

/-! ## Rings and streams -/

/-- Presence of a ring entry (08 R174). -/
inductive Presence where
  | empty | filling | present | consumed
deriving DecidableEq, Repr

/-- A ring descriptor (08 R174): `base` is window × 65,536 + byte. -/
structure Ring where
  base : Nat
  entry : Nat
  c : Nat
  tail : Nat
  head : Nat
  rel : Nat
  pres : List Presence
deriving DecidableEq, Repr

/-- A buffered stream element: its bytes with the granule that poisons it, or the fault its READ raises. -/
inductive SElem where
  | data (bytes : List Byte) (poison : Option Nat)
  | fault (cause : Nat) (va : Nat)
deriving DecidableEq, Repr

/-- What a stream register is bound to (08 R189). -/
inductive SSrc where
  | mem (base stride n : Nat)
  | edge (bind : Nat)
  | rein (lz : ScrAt) (id idx : Nat)
deriving DecidableEq, Repr

/-- How far a byte of an engine's transfer is (08 R169, R182): still to read, read (with whether it is poisoned) and still to
write, or written. Log 68 (DEDUCED); 70 (DEDUCED). -/
inductive Way where
  | left
  | read (b : Byte) (bad : Bool)
  | put (bad : Bool)
deriving DecidableEq, Repr

/-- A bound stream register (08 R189, R192): `lanes` is |active(g)| at binding, `fetched` counts the elements
the unit has fetched, `moved` those delivered or emitted; `fm`, `tl`, `tr` are SBIND's word as committed (21 R385);
`part` holds how far the bytes of the next element are (08 R190, 10 R201). Log 118 (DESIGN CHOICE). -/
structure Stream where
  src : SSrc
  vec : Bool
  out : Bool
  lanes : Nat
  fetched : Nat
  moved : Nat
  buf : List SElem
  ended : Bool
  fm : Nat
  tl : Word
  tr : Word
  part : List Way
deriving DecidableEq, Repr

/-- The buffer of a task-edge input binding of a bound task (17 R315), with the register its binding names and the bytes it
takes of the stream pool (17 R316). -/
structure EdgeBuf where
  bind : Nat
  reg : Nat
  bytes : Nat
  cap : Nat
  vec : Bool
  buf : List SElem
  ended : Bool
  moved : Nat
deriving DecidableEq, Repr

/-! ## Stores and commands -/

/-- Where a buffered store goes. -/
inductive Dest where
  | phys (pa : Nat)
  | peer (at' : ScrAt)
deriving DecidableEq, Repr

/-- An entry of the FIFO store buffer (11 R218); `va` says which translation it keeps (12 R236). -/
structure SbEntry where
  dest : Dest
  bytes : List Byte
  va : Nat
  rel : Option Scope
deriving DecidableEq, Repr

/-- What every engine command remembers of its instruction: its place among the group's commands, block,
index, LSID, word and tokens (21 R386), and how many stores of the group precede it (11 R220). Log 33 (DEDUCED). -/
structure Tag where
  seq : Nat
  blk : Word
  idx : Nat
  lsid : Nat
  word : Word
  tl : Word
  tr : Word
  tt : Word
  after : Nat
deriving DecidableEq, Repr

/-- A fault an engine met while it performed a command, and whether it has been reported (08 R164). -/
structure Stop where
  cause : Nat
  under : Nat
  va : Nat
  acc : Access
  told : Bool
deriving DecidableEq, Repr

/-- An operand of a matrix command (08 R167, R168). -/
inductive MOpnd where
  | scr (win off : Nat)
  | ring (q ticket : Nat)
  | rows (base : Nat) (win off : Nat)
deriving DecidableEq, Repr

/-- What a matrix command does (08 R167 to R172). -/
inductive MatOp where
  | mma (t : FTy) (scaled : Bool) (k acc : Nat) (a b : MOpnd) (arrive : Option ScrAt)
  | mzero (accs : Nat)
  | mst (o : MstOps) (scr : Option ScrAt) (va : Nat) (credit : Option ScrAt) (seed n : Word)
deriving DecidableEq, Repr

/-- A command in the matrix queue: how far the bytes of its operands, or of what an MST writes, are, and which bytes of an
MST are credited (08 R164, R169, R182). -/
structure MatCmd where
  tag : Tag
  op : MatOp
  started : Bool
  ways : List Way
  credited : List Bool
  stop : Option Stop
deriving DecidableEq, Repr

/-- Source of a copy (08 R179 to R181). -/
inductive CSrc where
  | glob (va : Nat)
  | scr (at' : ScrAt)
  | gath (base : Nat) (idx : ScrAt)
deriving DecidableEq, Repr

/-- Destination of a copy. -/
inductive CDst where
  | glob (va : Nat)
  | scr (at' : ScrAt)
  | ring (q ticket : Nat)
  | mc (ranks : List Nat) (win off : Nat)
deriving DecidableEq, Repr

/-- A command in the copy queue: rows of `rb` bytes at the pitches; the pieces below `issued` have been issued, `part` says how
far the bytes of those under way are (08 R182), `done` lists the complete ones (21 R380). -/
structure CpyCmd where
  id : Nat
  tag : Tag
  src : CSrc
  dst : CDst
  rows : Nat
  rb : Nat
  sp : Nat
  dp : Nat
  desc : List Byte
  credit : List ScrAt
  issued : Nat
  part : List (Nat × List Way)
  done : List Nat
  stop : Option Stop
deriving DecidableEq, Repr

/-! ## Blocks -/

/-- A kernel's shape (07 R140; 17 R306). -/
structure KShape where
  lanes : Nat
  windows : Nat
  acc : Nat
  rings : Nat
  streams : Nat
deriving DecidableEq, Repr

/-- A decoded kernel descriptor (17 R306). -/
structure KDesc where
  entry : Word
  shape : KShape
deriving DecidableEq, Repr

/-- An exit of a block, as BLOCK_COMPLETE performs it and a trap leaves it pending (04 R100, 14 R277). -/
inductive Exit where
  | br (a : Word)
  | call (a ret : Word)
  | ret
  | endg
  | trap (n : Nat) (next : Word)
  | relay (sig : Bool) (desc : Word) (mask : Word) (kd : KDesc)
deriving DecidableEq, Repr

/-- A global store of one instruction (12 R236). -/
structure StoreReq where
  va : Nat
  pa : Nat
  bytes : List Byte
deriving DecidableEq, Repr

/-- A page instruction's reservation of one page: the page and the frame taken for it (12 R247). -/
structure PageHold where
  va : Nat
  frame : Option Nat
deriving DecidableEq, Repr

/-- A page command in the page service unit's queue (12 R245, R248, R250). -/
inductive PageOp where
  | free
  | decommit (sz : PgSize) (count : Nat)
  | unpin (sz : PgSize) (count : Nat)
  | migrate (sz : PgSize) (count : Nat) (tier1 : Bool) (place : Nat) (bar : Option ScrAt)
deriving DecidableEq, Repr

/-- A record of a graph instance that TINST reserved: die, index, image words (15 R290). -/
structure RecHold where
  die : Nat
  idx : Nat
  words : List Word
deriving DecidableEq, Repr

/-- What an instruction that fired does at its block's commit, in LSID place (07 R146, R150). -/
inductive Effect where
  | none
  | stores (l : List StoreReq) (rel : Option Scope)
  | scratch (l : List (ScrAt × List Byte))
  | amo (va pa : Nat) (old : List Byte) (new : Option (List Byte)) (scope : Scope) (rel : Bool)
  | fence (scope : Scope)
  | swr (r : SwReg) (v : Word)
  | matrix (cmd : MatCmd)
  | copy (cmd : CpyCmd)
  | qinit (q : Nat) (r : Ring)
  | qpush (q ticket : Nat) (at' : ScrAt) (bytes : List Byte)
  | qpop (q ticket : Nat)
  | binit (at' : ScrAt) (n : Nat)
  | bupd (at' : ScrAt) (db : Int) (da : Nat)
  | sbind (r : Nat) (st : Stream)
  | semit (r : Nat) (bytes : List Byte) (mem : List StoreReq)
  | sunbind (r : Nat)
  | alloc (base size : Nat) (place : APlace)
  | page (op : PageOp) (va : Nat)
  | commit (sz : PgSize) (pin : Bool) (pages : List PageHold)
  | tspawn (h : RecHold)
  | tdec (handle : Word) (n : Nat) (stale : Bool)
  | tinst (tid inst : Nat) (recs : List RecHold) (bufs : List (Nat × Nat)) (done : Word)
  | relay
  | prep (desc : Word) (kd : KDesc) (binds : List (Word × Word))
  | gresume (h : Word) (rank : Nat) (kill : Bool)
  | remote (handle : Word) (rank : Nat) (kill : Bool)
  | rload (id : Nat) (words : List Word) (tab : List Word) (s p img : Nat)
  | rstart (id n : Nat) (args : List Word) (bar : ScrAt) (arrive credit rerun : Bool)
  | rabort (id n : Nat)
deriving DecidableEq, Repr

/-- A run-time fault of an instruction (07 R158). -/
structure RFault where
  cause : Nat
  va : Nat
  acc : Access
deriving DecidableEq, Repr

/-- How far an instruction of the running block is (07 R145 to R148, R158). -/
inductive Status where
  | pending
  | waiting
  | fired
  | nulled
  | faulted (f : RFault)
  | touched (va : Nat) (acc : Access)
deriving DecidableEq, Repr

/-- A WRITE that has fired: its register and token (04 R89). -/
structure WriteReq where
  reg : WReg
  tok : Token
deriving DecidableEq, Repr

/-- A waiting AMO's place among those that wait for leases: the draw at which it came, its bytes and the point it reads at
(11 R227). -/
structure Ask where
  ticket : Nat
  pa : Nat
  n : Nat
  pt : Option Nat
deriving DecidableEq, Repr

/-- One instruction of the running block: word, decoded form, the tokens of its slots, and what it has done.
`leased` is true while its AMO holds a lease, `dropped` once it gave it up, `asks` while it waits for one (11 R227);
`answered` is what the record's dispatcher has answered its probe: 0, or the cause that a dispatcher of another package
gives, and `asked` the key under which that package holds what the probe took (15 R286, R289, R297). Log 47 (DEDUCED); 113 (DESIGN CHOICE). -/
structure Node where
  word : Word
  ins : Instr
  l : Option Token
  r : Option Token
  t : Option Token
  g : Option Token
  st : Status
  fl : FpFlags
  eff : Effect
  exit : Option Exit
  wr : Option WriteReq
  popped : Option Nat
  leased : Bool
  dropped : Bool
  asks : Option Ask
  answered : Option Nat
  asked : Option Nat
deriving DecidableEq, Repr

/-- The block a group runs: its header's fields (02 R32), literals, instructions, the index being settled and
the pages it has translated (14 R270). -/
structure BlockRun where
  addr : Word
  n : Nat
  l : Nat
  mask : BitVec 32
  relay : Bool
  nospec : Bool
  lits : List Word
  nodes : List Node
  cur : Nat
  pages : List Nat
deriving DecidableEq, Repr

/-! ## Groups -/

/-- How a parked group goes on (14 R277, R280): from a block's start (exit kind 0), at an address (1), with a pending
exit of an instruction of a block (1 to 7), in the relay hold (18 R335), or, once its END has committed, with its
stopped command only (08 R165). -/
inductive Resume where
  | rerun (a : Word)
  | goOn (a : Word)
  | pend (e : Exit) (blk : Word) (idx : Nat)
  | hold (mask : Word) (kd : KDesc) (blk : Word)
  | ended
deriving DecidableEq, Repr

/-- The state of a group at its block boundary (07 R157, 18 R335): `recorded` is false until a parked group's trap
record is written; `touching` names the faulting access, its instruction's index (0x3F: the fetch) and LSID; `exiting` is a
pending exit that GRESUME lets go on. Log 75 (DEDUCED); 115 (DEDUCED). -/
inductive Phase where
  | running
  | touching (va : Nat) (acc : Access) (idx : Nat) (lsid : Option Nat)
  | parked (rs : Resume) (recorded : Bool)
  | exiting (e : Exit) (blk : Word) (idx : Nat)
  | relayHold (mask : Word) (kd : KDesc) (blk : Word)
  | ended
deriving DecidableEq, Repr

/-- A preparation for a relay (15 R296): descriptor address, shape, bindings, the staged windows, and per binding
whether it has landed or failed. -/
structure Prep where
  desc : Word
  kd : KDesc
  binds : List (Word × Word)
  staged : List Window
  landed : List Bool
  stop : Option Stop
  tag : Tag
deriving DecidableEq, Repr

/-- An engine-fault report for a group (08 R164). -/
structure Report where
  cause : Nat
  under : Nat
  va : Nat
  acc : Access
  blk : Word
  idx : Nat
  lsid : Nat
deriving DecidableEq, Repr

/-- A group bound to a slot (07 R140 to R142); `fails` counts lease comparisons failed running (11 R227), `ahead` is the block that
its tile has started ahead (07 R152), `sigAt` the counts of commands and stores before its signal to the task's successors
(15 R295), `killed` the cause it was killed
after, `grace` the block it may still complete in a cut
(07 R159), `boundAt` the cycle of its binding (17 R313). -/
structure Group where
  place : Place
  ctx : Nat
  gen : Nat
  task : Word
  rank : Nat
  gang : List Place
  handler : Bool
  shape : KShape
  x : List Word
  v : List (Lanes LaneBits)
  p : List (Lanes Bool)
  k : List (Lanes MaskBits)
  acc : List Acc
  win : List Window
  q : List (Option Ring)
  s : List (Option Stream)
  edges : List EdgeBuf
  link : List Word
  cause : Word
  faultva : Word
  fpflags : Word
  fptrap : Word
  seed : Word
  count : Word
  next : Word
  phase : Phase
  run : Option BlockRun
  ahead : Option BlockRun
  sb : List SbEntry
  entered : Nat
  relFence : Option Scope
  mq : List MatCmd
  cq : List CpyCmd
  cmdSeq : Nat
  reports : List Report
  prep : Option Prep
  reserve : List Nat
  fails : Nat
  sigAt : Option (Nat × Nat)
  killed : Option Nat
  grace : Bool
  boundAt : Nat
deriving DecidableEq, Repr

/-! ## Virtual memory -/

/-- A page table entry's place: level and VA shifted right by 39, 30 or 16 (14 R260). -/
structure PteKey where
  level : Nat
  idx : Nat
deriving DecidableEq, Repr

/-- A TLB entry of a tile (14 R263). -/
structure TlbEntry where
  die : Nat
  tile : Nat
  ctx : Nat
  gen : Nat
  va : Nat
  leaf : Word
deriving DecidableEq, Repr

/-- A change of a leaf that is waiting for requests under the old one (14 R270); `map` is the queue of the Map
command that waits for it. -/
structure Inval where
  va : Nat
  size : Nat
  old : Word
  map : Option Nat
deriving DecidableEq, Repr

/-- A page being moved (14 R271): page, size, old and new frame, the requests it serves. -/
structure Migration where
  va : Nat
  sz : PgSize
  old : Nat
  new : Nat
deriving DecidableEq, Repr

/-- A page command with its issuer, and its pages not yet reached once the page service unit has begun it (12 R251). -/
structure PageCmd where
  op : PageOp
  va : Nat
  who : Place
  tag : Tag
  left : Option (List Nat)
deriving DecidableEq, Repr

/-! ## Contexts -/

/-- The states of a context slot other than Free (21 R377); `ending`: a teardown has stopped it and its work is not done (21 R388). Log 85 (DEDUCED). -/
inductive CtxSt where
  | live
  | draining
  | cutting
  | saved
  | resuming
  | ending
deriving DecidableEq, Repr

/-- A registered template (17 R317): its 64-bit words. -/
structure Template where
  id : Nat
  members : List (List Word)
  bufs : List (Word × Word)
  next : Nat
  image : List Byte
deriving DecidableEq, Repr

/-- A live graph instance's buffers and completion handle (15 R290). -/
structure GInst where
  tid : Nat
  num : Nat
  first : Word
  members : List Word
  bufs : List (Nat × Nat)
  done : Word
  failed : Bool
  complete : Bool
deriving DecidableEq, Repr

/-- The status block's counters (17 R321). -/
structure Counters where
  dropDec : Nat := 0
  dropLaunch : Nat := 0
  done : Nat := 0
  failed : Nat := 0
  freezes : Nat := 0
deriving DecidableEq, Repr

/-- Why a context was cut (21 R384). -/
inductive CutKind where
  | preempt | freeze | podSwitch
deriving DecidableEq, Repr

/-- A trap record held by the dispatcher with the group it parks (14 R278). -/
structure Held where
  words : List Word
  who : Option Place
  handler : Bool
deriving DecidableEq, Repr

/-- A context (22 R394, 21 R377). Beside the host's settings: page tables, frame pool (`pool` all of it, `frames` the free
and unreserved), heap, page service unit, templates, instances, status counters, trap queue, the tail at which a handler
was last tried, the spans of slot-cycles of retired groups (17 R313), the watchdog timer in cycles, messages sent and
applied (21 R389), the cut, the class 2 cause of its stall map, what a save holds, the starts that blocks discarded by the
cut waited for, the aborts of its step 6, the rein engine of CD0 on which its drain holds a place (21 R390), and whether a command of queue 0 asked for what it is doing. -/
structure Ctx where
  slot : Nat
  gen : Nat
  st : CtxSt
  tag : Nat
  weight : Nat
  q0 : Nat
  q1 : Nat
  heapBase : Nat
  heapSize : Nat
  tqBase : Nat
  tqS : Nat
  handlerDesc : Nat
  stall : Nat
  mapBase : Nat
  mapSize : Nat
  saveBase : Nat
  saveSize : Nat
  cap : Nat
  buddy : Nat
  noBuddy : Bool
  durable : List (Nat × Nat)
  payload : List Word
  pte : List (PteKey × Word)
  pool : List Nat
  frames : List Nat
  allocs : List (Nat × Nat)
  pageCmds : List PageCmd
  invals : List Inval
  migs : List Migration
  templates : List Template
  ginsts : List GInst
  counters : Counters
  tail : Nat
  overflows : Nat
  spell : Bool
  held : List Held
  handlerRec : Option Nat
  handlerLive : Bool
  tried : Nat
  slotLog : List (Nat × Nat)
  watch : Nat
  sent : Nat
  applied : Nat
  cut : CutKind
  cutAt : Nat
  drain : Option Nat
  mapFault : Nat
  epoch : Word
  podPkgs : List Nat
  savedGroups : List Group
  waits : List (Nat × Nat × Nat)
  aborts : List (Nat × Nat × Nat)
  asked : Bool
deriving DecidableEq, Repr

/-! ## Tasks -/

/-- A task record that is in use or retained (17 R304, R307) with the dispatcher's own data on it: the order in
which its task ended, the tiles chosen, the staging windows of each group, the bindings landed, the cycle at which it
became ready and runnable, the groups that have signalled, retired and been killed (15 R295, 17 R310), the input
bindings whose producer has ended the stream (17 R315), the frames released on its tiles that it holds while it is
overdue (17 R313), and the whole number of the instance of which it is a member (15 R291). -/
structure TaskRec where
  die : Nat
  idx : Nat
  words : List Word
  retained : Option Nat
  tiles : List Nat
  staging : List (List Window)
  landed : List Nat
  waitMc : List Nat
  readyAt : Nat
  runAt : Nat
  groupsLeft : Nat
  signals : Nat
  anyKilled : Option Nat
  edgesEnded : List Nat
  kept : List Nat
  num : Nat
deriving DecidableEq, Repr

/-! ## Rein -/

/-- A registered Rein program (19 R358): its words and table as RLOAD read them, the units of its two areas, the number that the next
start must take, and where its image lies, whose words the engines read while they run it. Log 141 (DESIGN CHOICE). -/
structure Prog where
  die : Nat
  ctx : Nat
  id : Nat
  words : List Word
  tab : List Word
  s : Nat
  p : Nat
  next : Option Nat
  img : Option Nat
deriving DecidableEq, Repr

/-- A chunk descriptor (19 R337). -/
structure ChunkDesc where
  space : Nat
  addr : Word
  bytes : Nat
deriving DecidableEq, Repr

/-- The states RSTAT reports (19 R361), and the wait of a live instance. -/
inductive InstSt where
  | live
  | done
  | aborted
  | stopped
deriving DecidableEq, Repr

/-- A SEND that awaits its acknowledgement (19 R349, 21 R370). -/
structure Outstanding where
  peer : Nat
  seq : Nat
  src : ChunkDesc
  offset : Nat
  tries : Nat
  refused : Bool
deriving DecidableEq, Repr

/-- A signal that its receiver has not answered yet, or has refused (19 R351, 21 R371). -/
structure SigOut where
  m : SignalMsg
  ctx : Nat
  pkg : Nat
  refused : Bool
deriving DecidableEq, Repr

/-- A rein instance, and the record of one that ended among the two last started (19 R336, R361); `sigSeen` are the signals
counted (19 R351), `doomed` marks an abort that waits for its staging copy (21 R373). Log 60 (DEDUCED). -/
structure Inst where
  key : Nat
  die : Nat
  ctx : Nat
  id : Nat
  n : Nat
  engine : Nat
  st : InstSt
  began : Bool
  wait : Nat
  g : List Word
  c : List ChunkDesc
  idx : Nat
  sendSeq : List (Nat × Nat)
  recvSeq : List (Nat × Nat)
  sigs : List (Nat × Nat)
  sigSeen : List (Nat × Nat)
  verified : List (Nat × Nat × Nat × Nat)
  out : List Outstanding
  who : Place
  task : Word
  tag : Tag
  args : List Word
  bar : ScrAt
  arrive : Bool
  credit : Bool
  rerun : Bool
  doomed : Bool
  rank : Nat
  size : Nat
deriving DecidableEq, Repr

/-- A chunk whose landing is under way (21 R370). -/
structure Landing where
  key : Nat
  die : Nat
  inst : Nat
  ch : Chunk
deriving DecidableEq, Repr

/-- A decrement on its way to a record of this package (17 R319); `hold` marks a TDEC's, whose hold stands until it is
applied (15 R289). -/
structure DecGoing where
  key : Nat
  handle : Word
  n : Nat
  fail : Option Nat
  tag : Nat
  hold : Bool
deriving DecidableEq, Repr

/-! ## Host side -/

/-- The NAKs of RoCEv2 that the manual names (22 R391, R398). -/
inductive NakCode where
  | remoteInvalidRequest | remoteAccessError | remoteOperationalError
deriving DecidableEq, Repr

/-- What the package sends (22 R399; 17 R319; 19 R340, R351, R360; 21 R370; 22 R402); the last three of UALink are its own
accesses to another package's memory (10 R213, 22 R401): a write has no byte where its mask leaves one out. Log 9 (DEDUCED). -/
inductive Out where
  | completion (queue : Nat) (seq h2 : Word) (payload : List Word) (ip port : Nat)
  | notification (queue : Nat) (seq : Nat) (ctx gen : Nat) (payload : List Word) (ip port : Nat)
  | nak (qp : Nat) (code : NakCode)
  | readReply (qp : Nat) (bytes : List Byte)
  | writeAck (qp : Nat)
  | decrement (handle : Word) (n : Nat) (fail : Option Nat) (tag seq : Nat) (hold : Option Nat)
  | chunk (pkg die : Nat) (ch : Chunk)
  | signal (pkg : Nat) (m : SignalMsg)
  | abort (pkg die job id n : Nat)
  | ack (pkg : Nat) (nm : ChunkName)
  | chunkNak (pkg : Nat) (nm : ChunkName)
  | refused (pkg : Nat) (nm : ChunkName)
  | ualinkReply (pkg : Nat) (bytes : List Byte) (bad : List Nat)
  | probe (key : Nat) (handle : Word) (job : Nat) (ask : PodAsk)
  | probeAnswer (pkg key cause : Nat) (status : Word)
  | ualinkRead (pkg pa n : Nat)
  | ualinkWrite (pkg pa : Nat) (bytes : List (Option Byte))
  | ualinkAtomic (pkg pa op : Nat) (t : ITy) (v cmp : Word)
  | mirrorRecord (pkg die idx : Nat) (words : List Word)
  | mirrorApplied (pkg sender seq : Nat)
  | mirrorWrite (pkg addr : Nat) (bytes : List Byte)
  | mirrorHand (pkg : Nat) (m : Mirror)
  | ualinkMaps (pkg pa frames : Nat) (on : Bool)
  | heartbeat (port : Nat)
deriving DecidableEq, Repr

/-- A Bridle queue that is bound, or queue 0 (22 R395): the next sequence number, the completions stored, the endpoint,
the notifications sent and those that wait for an endpoint, the accepted commands that have not begun, the one let go on,
the one that has begun and not completed, and the numbers of those not complete that came before the last Hello. Log 89 (DEDUCED). -/
structure Queue where
  num : Nat
  ctx : Option Nat
  next : Nat
  stored : List (Nat × List Word)
  endpoint : Option (Nat × Nat)
  notes : Nat
  noteWait : List (List Word)
  waiting : List Instr
  go : Option Nat
  doing : Option BridleMsg
  past : List Nat
deriving DecidableEq, Repr

/-- A link between queues (22 R395). -/
structure Link where
  p : Nat
  c : Nat
  tokens : Nat
deriving DecidableEq, Repr

/-- A RoCEv2 region (22 R400). -/
structure Region where
  key : Nat
  ctx : Nat
  base : Nat
  len : Nat
  rd : Bool
  wr : Bool
deriving DecidableEq, Repr

/-- A RoCEv2 queue pair (22 R400). -/
structure Qp where
  num : Nat
  ctx : Nat
  remote : Nat
  gidLo : Word
  gidHi : Word
  psn : Nat
  mtu : Nat
  prio : Nat
  localPsn : Nat
deriving DecidableEq, Repr

/-- A firmware image as stored (22 R404). -/
structure Firmware where
  version : Nat
  body : List Byte
deriving DecidableEq, Repr

/-- The errors of a unit (14 R274): the cycle of each and what it counts, 1 or 4. -/
structure ErrCount where
  unit : Word
  hits : List (Nat × Nat)
deriving DecidableEq, Repr

/-- What an instruction of another package holds here (15 R289, R297): units of a counter, or a claim on a group. -/
structure PodHold where
  pkg : Nat
  key : Nat
  handle : Word
  n : Nat
  claim : Option (Nat × Bool)
deriving DecidableEq, Repr

/-- What a buddy mirrored here (22 R402). Log 102 (DEDUCED). -/
structure Mirrored where
  records : List (Nat × Nat × Nat × List Word) := []
  applied : List (Nat × Nat × Nat) := []
  writes : List (Nat × Host.Cell) := []
deriving DecidableEq, Repr

/-- A foreign line a die holds (10 R206): line address (physical / 128), its 128 bytes, dirty-byte mask, and its poisoned
granules (14 R272). -/
structure FLine where
  die : Nat
  line : Nat
  bytes : List Byte
  dirty : BitVec 128
  bad : List Nat
deriving DecidableEq, Repr

/-- Power states (22 R403). -/
inductive PState where
  | p0 | p1 | p2 | p3
deriving DecidableEq, Repr

/-- A pointer that goes round the slots of a tile, for its grants (07 R154) or for its matrix engine (08 R169), or the
instances of a rein engine (19 R345); `key` is die × 64 + tile or die × 8 + engine. -/
structure Pointer where
  key : Nat
  at' : Nat
deriving DecidableEq, Repr

/-- Whose turn it is while no event waits: the model's own. Log 89 (DEDUCED). -/
inductive Turn where
  | idle
  | group (p : Place)
  | ahead (p : Place)
  | inst (die k : Nat)
  | own
deriving DecidableEq, Repr

/-- The state of one package. `pointers` are the tiles' grant pointers, `matPtrs` their matrix engines'
(08 R169), `reinPtrs` the rein engines', `granted` the tiles (by die × 64 + tile) and engines (256 + die × 8 + engine) that
have had this cycle's grant (07 R154, 19 R345); `poison` are the granules poisoned at their homes, `exports` the frames of
this package that other packages map, each beside its package (14 R262), `stalled` what waits at this package for the spare
of a failed one (22 R402), `wrote` the bytes written at their homes in this step (22 R402), `podHolds` what instructions of
other packages hold here (15 R286). Log 9 (DEDUCED); 111 (DESIGN CHOICE). -/
structure State where
  cycle : Nat
  fresh : Nat
  turn : Turn
  agenda : List Instr
  later : List Instr
  pointers : List Pointer
  matPtrs : List Pointer
  reinPtrs : List Pointer
  granted : List Nat
  outbox : List Out
  pkgNum : Nat
  pod : List Nat
  mem : Cells
  wrote : List Nat
  poison : List Nat
  foreign : List FLine
  exports : List (Nat × Nat)
  tlb : List TlbEntry
  gens : List Nat
  ctxs : List Ctx
  groups : List Group
  recs : List TaskRec
  ended : Nat
  progs : List Prog
  insts : List Inst
  landings : List Landing
  signals : List SigOut
  decs : List DecGoing
  keys : Nat
  session : Option Nat
  features : Word
  queues : List Queue
  links : List Link
  regions : List Region
  qps : List Qp
  tolerance : Nat
  pstate : PState
  fwPieces : List Byte
  fwNext : Nat
  fwStored : Firmware
  fwRunning : Firmware
  errs : List ErrCount
  retired : List Word
  errSelect : Word
  powerLimit : Nat
  mirrored : Mirrored
  applied : List (Nat × Nat)
  failedPkgs : List Nat
  stalled : List (Nat × Out)
  podHolds : List PodHold
  spares : List (Nat × Nat)
deriving DecidableEq, Repr

/-! ## Outcomes that are not a next state -/

/-- Faults of the model: each says that an operation was applied to an agent that is not there. The step function
never applies one so; all are safe. Log 110 (DEDUCED). -/
inductive Fault where
  /-- Raised by the meaning of a tile instruction when the turn holds no group with a running block, or its running
  block has no instruction at the index being settled; safe. -/
  | noBlock
  /-- Raised by the meaning of a Rein instruction when the turn holds no live instance; safe. -/
  | noInstance
deriving DecidableEq, Repr

/-- Refusals. -/
inductive Refusal where
  /-- An instruction that has no meaning yet; raised by an arm of the dispatch only; safe. -/
  | notModelled (mnemonic : String)
deriving DecidableEq, Repr

/-- The state after a package reset (22 R411, R396, R400, R406; 21 R376). Log 6 (DESIGN CHOICE); 7 (DESIGN CHOICE); 8 (DESIGN CHOICE). -/
def State.reset : State where
  cycle := 0
  fresh := 0
  turn := .idle
  agenda := []
  later := []
  pointers := []
  matPtrs := []
  reinPtrs := []
  granted := []
  outbox := []
  pkgNum := 0
  pod := [0]
  mem := []
  wrote := []
  poison := []
  foreign := []
  exports := []
  tlb := []
  gens := List.replicate 64 1
  ctxs := []
  groups := []
  recs := []
  ended := 0
  progs := []
  insts := []
  landings := []
  signals := []
  decs := []
  keys := 0
  session := none
  features := 0
  queues := [⟨0, none, 1, [], none, 0, [], [], none, none, []⟩]
  links := []
  regions := []
  qps := []
  tolerance := 0
  pstate := .p0
  fwPieces := []
  fwNext := 0
  fwStored := ⟨0, []⟩
  fwRunning := ⟨0, []⟩
  errs := []
  retired := []
  errSelect := 0
  powerLimit := 2700
  mirrored := {}
  applied := []
  failedPkgs := []
  stalled := []
  podHolds := []
  spares := []

end Sys2Proof.Machine
end

