-- ==== Sys2Proof/Machine/Mem.lean ====
section
/-!
DEFINITION. Machine/Mem.lean: bytes by address in canonical form, the physical map (10 R210 to R212), the caches
of a die (10 R206 to R208), poison (14 R272), scratch (08 R161, R193) and barriers (08 R184 to R186).
-/
namespace Sys2Proof.Machine

/-! ## Cells -/

/-- The byte at an address; an unlisted address reads 0. Log 5 (DESIGN CHOICE). -/
def Cells.get : Cells → Nat → Byte
  | [], _ => 0
  | (b, v) :: m, a => if b = a then v else Cells.get m a

/-- Writes a byte, keeping addresses rising and no zero listed. -/
def Cells.put : Cells → Nat → Byte → Cells
  | [], a, v => if v = 0 then [] else [(a, v)]
  | (b, w) :: m, a, v =>
    if a < b then (if v = 0 then (b, w) :: m else (a, v) :: (b, w) :: m)
    else if a = b then (if v = 0 then m else (a, v) :: m)
    else (b, w) :: Cells.put m a v

/-- `n` bytes from an address. -/
def Cells.read (m : Cells) (a : Nat) : Nat → List Byte
  | 0 => []
  | n + 1 => m.get a :: Cells.read m (a + 1) n

/-- Writes bytes from an address. -/
def Cells.write (m : Cells) (a : Nat) : List Byte → Cells
  | [] => m
  | b :: bs => Cells.write (m.put a b) (a + 1) bs

/-- Clears every byte of a range. -/
def Cells.clear (m : Cells) (a n : Nat) : Cells := m.filter fun c => c.1 < a || decide (a + n ≤ c.1)

/-- Addresses above `lo` (from `lo` on), rising, and no zero byte. -/
def Cells.okFrom : Nat → Cells → Bool
  | _, [] => true
  | lo, (a, v) :: m => decide (lo ≤ a) && decide (v ≠ 0) && Cells.okFrom (a + 1) m

/-- The canonical form. Log 5 (DESIGN CHOICE). -/
def Memory.wf (m : Cells) : Bool := Cells.okFrom 0 m

/-! ## The physical map (10 R210 to R212) -/

/-- Package of a physical address. -/
def paPkg (pa : Nat) : Nat := pa / 2 ^ 42 % 1024
/-- Local part of a physical address. -/
def paLoc (pa : Nat) : Nat := pa % 2 ^ 42
/-- HBM. -/
def locHbm (l : Nat) : Bool := decide (l < 0x8000000000)
/-- Device space. -/
def locDev (l : Nat) : Bool := decide (0x8000000000 ≤ l) && decide (l < 0x10000000000)
/-- The CXL port of a local address and the offset in its range (10 R212). -/
def locCxl (l : Nat) : Option (Nat × Nat) :=
  if l < 0x10000000000 then none
  else
    let o := l - 0x10000000000
    some (o / 0xC000000000, o % 0xC000000000)
/-- A populated address of this package's map. -/
def locPopulated (l : Nat) : Bool :=
  locHbm l || (match locCxl l with
    | some (p, o) => decide (p < 4) && decide (o < Config.cxlBytes p)
    | none => false)

/-- The die at which a physical address is homed, or none for CXL and for other packages (10 R206, R211). -/
def State.homeDie (s : State) (pa : Nat) : Option Nat :=
  if paPkg pa = s.pkgNum && locHbm (paLoc pa) then some (paLoc pa / 2 ^ 37 % 4) else none

/-- An address homed on another package (10 R206, R213). -/
def State.far (s : State) (pa : Nat) : Bool := decide (paPkg pa ≠ s.pkgNum)

/-- A populated address of another package's map: its HBM, and what CXL memory that package has. Log 112 (DESIGN CHOICE). -/
def farPopulated (pa : Nat) : Bool :=
  locHbm (paLoc pa) || (match locCxl (paLoc pa) with
    | some (p, _) => decide (p < 4) && Config.farFitted (pa / 65536)
    | none => false)

/-- Memory that is fitted, on any package. Log 127 (DEDUCED). -/
def State.fitted (s : State) (pa : Nat) : Bool := if s.far pa then farPopulated pa else locPopulated (paLoc pa)

/-- A frame an access may use (14 R265 check 6). -/
def State.frameOk (s : State) (pa : Nat) : Bool := s.pod.contains (paPkg pa) && s.fitted pa

/-! ## Poison (14 R272) -/

/-- The granules of a range. -/
def granules (a n : Nat) : List Nat :=
  if n = 0 then [] else (List.range ((a + n - 1) / 64 - a / 64 + 1)).map (a / 64 + ·)

/-- The first poisoned granule of a range. -/
def poisonIn (l : List Nat) (a n : Nat) : Option Nat := (granules a n).find? l.contains

/-- A write of `n` bytes at `a`: granules covered whole lose their poison. -/
def poisonWrite (l : List Nat) (a n : Nat) : List Nat :=
  l.filter fun g => !(decide (a ≤ g * 64) && decide (g * 64 + 64 ≤ a + n))

/-- Poisons granules. -/
def poisonAdd (l gs : List Nat) : List Nat := gs.foldl (fun l g => if l.contains g then l else g :: l) l

/-! ## Foreign lines (10 R206, R207) -/

/-- 64 KiB frames of a page. -/
def pgFrames : PgSize → Nat
  | .k64 => 1 | .m2 => 32 | .g1 => 16384

/-- Bytes of a page. -/
def pgBytes (z : PgSize) : Nat := pgFrames z * 65536

/-- While a page moves, the address in its destination frame of an address in its old frame (14 R271). -/
def State.migTarget (s : State) (pa : Nat) : Option Nat :=
  (s.ctxs.flatMap fun c => c.migs).findSome? fun m =>
    if m.old * 65536 ≤ pa ∧ pa < m.old * 65536 + pgBytes m.sz then some (pa - m.old * 65536 + m.new * 65536) else none

/-- The destinations of the granules of a range in pages that move (14 R271). -/
def State.migGranules (s : State) (gs : List Nat) : List Nat := gs.filterMap fun g => (s.migTarget (g * 64)).map (· / 64)

/-- The byte at the home of an address; what another package holds is that package's. Log 112 (DESIGN CHOICE). -/
def State.homeByte (s : State) (pa : Nat) : Byte := if s.far pa then Config.farByte s.fresh pa else s.mem.get pa

/-- `n` bytes at the home of a physical address. -/
def State.homeRead (s : State) (pa : Nat) : Nat → List Byte
  | 0 => []
  | n + 1 => s.homeByte pa :: State.homeRead s (pa + 1) n

/-- A granule is poisoned at its home (14 R272). Log 112 (DESIGN CHOICE). -/
def State.badHome (s : State) (g : Nat) : Bool := if s.far (g * 64) then Config.farBad s.fresh g else s.poison.contains g

/-- The UALink reads that cover a range (22 R401): whole 16-byte units, at most 256 bytes in each. Log 112 (DESIGN CHOICE). -/
def farReads (pa n : Nat) : List Out :=
  let a := pa / 16 * 16
  let len := (pa + n + 15) / 16 * 16 - a
  (List.range ((len + 255) / 256)).map fun k =>
    .ualinkRead (paPkg pa) (a + 256 * k) (if len < 256 * k + 256 then len - 256 * k else 256)

/-- UALink reads of another package's memory leave (10 R213, 22 R401). Log 112 (DESIGN CHOICE). -/
def State.askFar (s : State) (pa n : Nat) : State :=
  if s.far pa then { s with outbox := s.outbox ++ farReads pa n } else s

/-- The UALink write of byte writes that lie in one line (22 R401): the 16-byte units from the first to the last of them, and
which bytes are written (10 R207). Log 112 (DESIGN CHOICE). -/
def farWrite (ws : List (Nat × Byte)) (line : Nat) : Out :=
  let here := ws.filter fun w => w.1 / 128 == line
  let us := (List.range 8).filter fun u => here.any fun w => w.1 % 128 / 16 == u
  let lo := line * 128 + us.headD 0 * 16
  .ualinkWrite (paPkg (line * 128)) lo
    ((List.range (line * 128 + us.getLastD 0 * 16 + 16 - lo)).map fun i =>
      (here.reverse.find? fun w => w.1 == lo + i).map Prod.snd)

/-- UALink writes leave: one for each line of the bytes (10 R207, R213; 22 R401). Log 112 (DESIGN CHOICE). -/
def State.sendFar (s : State) (ws : List (Nat × Byte)) : State :=
  { s with outbox := s.outbox ++ (ws.map fun w => w.1 / 128).eraseDups.map (farWrite ws) }

/-- Writes a byte at its home, and at the destination while its page moves (14 R271). -/
def State.homePut (s : State) (pa : Nat) (b : Byte) : State :=
  if s.far pa then s.sendFar [(pa, b)]
  else match s.migTarget pa with
    | some q => { s with mem := (s.mem.put pa b).put q b, wrote := pa :: s.wrote }
    | none => { s with mem := s.mem.put pa b, wrote := pa :: s.wrote }

/-- Byte writes at their homes; those homed on another package leave together. -/
def State.putHome (s : State) (ws : List (Nat × Byte)) : State :=
  ((ws.filter fun w => !s.far w.1).foldl (fun s w => s.homePut w.1 w.2) s).sendFar (ws.filter fun w => s.far w.1)

/-- A write of a range: granules covered whole lose their poison, at the destination too while the page moves (14 R271,
R272). Log 112 (DESIGN CHOICE). -/
def State.unpoison (s : State) (pa n : Nat) : State :=
  let whole := (granules pa n).filter fun g => decide (pa ≤ g * 64) && decide (g * 64 + 64 ≤ pa + n)
  let gone := s.migGranules whole
  { s with poison := (poisonWrite s.poison pa n).filter fun g => !gone.contains g }

/-- Poisons granules, at the destination too while their page moves (14 R271, R272). -/
def State.taint (s : State) (gs : List Nat) : State := { s with poison := poisonAdd s.poison (gs ++ s.migGranules gs) }

/-- Writes bytes at the home of a physical address. Log 109 (DEDUCED). -/
def State.homeWrite (s : State) (pa : Nat) (bs : List Byte) : State :=
  (s.putHome (((List.range bs.length).zip bs).map fun e => (pa + e.1, e.2))).unpoison pa bs.length

/-- The dirty bytes of a foreign line as writes at the home. -/
def dirtyBytes (f : FLine) : List (Nat × Byte) :=
  ((List.range 128).zip f.bytes).filterMap fun e => if f.dirty.getLsbD e.1 then some (f.line * 128 + e.1, e.2) else none

/-- The bytes of a granule that a foreign line has written. -/
def FLine.dirtyIn (f : FLine) (g : Nat) : Nat := ((dirtyBytes f).filter fun b => b.1 / 64 == g).length

/-- The poison that a line's write-back brings home (14 R272): a granule written whole is as the copy has it, one written in
part stays poisoned where either is. -/
def State.carryBack (s : State) (f : FLine) : State :=
  if s.far (f.line * 128) then s
  else
    let gs := [2 * f.line, 2 * f.line + 1]
    ((gs.filter fun g => decide (f.dirtyIn g = 64) && !f.bad.contains g).foldl (fun s g => s.unpoison (g * 64) 64) s).taint
      (gs.filter fun g => decide (f.dirtyIn g ≠ 0) && f.bad.contains g)

/-- Writes back one foreign line, and keeps it clean (10 R207). -/
def State.writeBackLine (s : State) (f : FLine) : State := (s.putHome (dirtyBytes f)).carryBack f

/-- Writes back every dirty foreign line of a die (11 R222). Log 72 (DEDUCED). -/
def State.writeBack (s : State) (die : Nat) : State :=
  let s' := (s.foreign.filter fun f => f.die == die).foldl State.writeBackLine s
  { s' with foreign := s'.foreign.map fun f => if f.die = die then { f with dirty := 0 } else f }

/-- Writes back and drops every foreign line of a die (11 R222). Log 72 (DEDUCED). -/
def State.dropForeign (s : State) (die : Nat) : State :=
  let s' := s.writeBack die
  { s' with foreign := s'.foreign.filter fun f => f.die != die }

/-- The foreign copy of a line at a die. -/
def State.fline? (s : State) (die line : Nat) : Option FLine :=
  s.foreign.find? fun f => f.die == die && f.line == line

/-- Evicts a die's foreign copy of a line: its dirty bytes are written at the home (10 R206). -/
def State.evictLine (s : State) (die line : Nat) : State :=
  match s.fline? die line with
  | none => s
  | some f =>
    let s' := s.writeBackLine f
    { s' with foreign := s'.foreign.filter fun x => !(x.die == die && x.line == line) }

/-- A scope wider than .die (11 R216). Log 32 (DEDUCED). -/
def wide : Scope → Bool
  | .pkg | .pod | .sys => true
  | _ => false

/-- The 32 MiB of a die memory that may hold foreign lines are full (10 R206). Log 114 (DESIGN CHOICE). -/
def State.full (s : State) (die : Nat) : Bool := decide (262144 ≤ (s.foreign.filter fun f => f.die == die).length)

/-- Makes a foreign copy of a line whose home is elsewhere, with its poison (14 R272); a line homed on the die needs none, and where the foreign
lines fill their part of the die memory the copy is evicted at once. Log 114 (DESIGN CHOICE). -/
def State.fetchLine (s : State) (die line : Nat) : State :=
  if s.homeDie (line * 128) = some die then s
  else match s.fline? die line with
    | some _ => s
    | none =>
      if s.full die then s.askFar (line * 128) 128
      else { s.askFar (line * 128) 128 with
        foreign := ⟨die, line, s.homeRead (line * 128) 128, 0, [2 * line, 2 * line + 1].filter s.badHome⟩ :: s.foreign }

/-- The byte a die's coherent caches hold (10 R208, row .die). -/
def State.dieByte (s : State) (die pa : Nat) : Byte :=
  if s.homeDie pa = some die then s.mem.get pa
  else match s.fline? die (pa / 128) with
    | some f => f.bytes.getD (pa % 128) 0
    | none => s.homeByte pa

/-- A granule is poisoned as a die's coherent caches hold it (14 R272). -/
def State.badDie (s : State) (die g : Nat) : Bool :=
  if s.homeDie (g * 64) = some die then s.badHome g
  else match s.fline? die (g / 2) with
    | some f => f.bad.contains g
    | none => s.badHome g

/-- `n` bytes at a die's coherent caches. Log 109 (DEDUCED). -/
def State.dieRead (s : State) (die pa : Nat) : Nat → List Byte
  | 0 => []
  | n + 1 => s.dieByte die pa :: State.dieRead s die (pa + 1) n

/-- The lines of a range. -/
def linesOf (a n : Nat) : List Nat :=
  if n = 0 then [] else (List.range ((a + n - 1) / 128 - a / 128 + 1)).map (a / 128 + ·)

/-- Evicts a die's foreign copies of the lines of a range (10 R206). Log 32 (DEDUCED). -/
def State.evictLines (s : State) (die pa n : Nat) : State := (linesOf pa n).foldl (fun s l => s.evictLine die l) s

/-- Brings the lines of a range into a die. -/
def State.fetchLines (s : State) (die pa n : Nat) : State := (linesOf pa n).foldl (fun s l => s.fetchLine die l) s

/-- A byte written into a foreign line. -/
def FLine.put (f : FLine) (i : Nat) (b : Byte) : FLine :=
  { f with bytes := f.bytes.set i b, dirty := f.dirty ||| BitVec.ofNat 128 (2 ^ i) }

/-- Writes one byte at a die's coherent caches; a line that no copy is kept of takes it at its home. Log 114 (DESIGN CHOICE). -/
def State.diePut (s : State) (die pa : Nat) (b : Byte) : State :=
  if s.homeDie pa = some die then s.homePut pa b
  else
    let s := s.fetchLine die (pa / 128)
    match s.fline? die (pa / 128) with
    | some _ => { s with foreign := updFirst (fun f => f.die == die && f.line == pa / 128) (fun f => f.put (pa % 128) b) s.foreign }
    | none => s.homePut pa b

/-- An address stands in a foreign copy of a die. -/
def State.onCopy (s : State) (die pa : Nat) : Bool := decide (s.homeDie pa ≠ some die) && (s.fline? die (pa / 128)).isSome

/-- Granules lose their poison at a point: in a die's copy, or at the home (14 R272). -/
def State.cleanAt (s : State) (die : Option Nat) (gs : List Nat) : State :=
  match die with
  | none => gs.foldl (fun s g => s.unpoison (g * 64) 64) s
  | some d =>
    (gs.filter fun g => !s.onCopy d (g * 64)).foldl (fun s g => s.unpoison (g * 64) 64)
      { s with foreign := s.foreign.map fun f => if f.die = d then { f with bad := f.bad.filter fun g => !gs.contains g } else f }

/-- Granules are poisoned at a point: in a die's copy, or at the home (14 R272). -/
def State.taintAt (s : State) (die : Option Nat) (gs : List Nat) : State :=
  match die with
  | none => s.taint gs
  | some d =>
    ({ s with foreign := s.foreign.map fun f =>
        if f.die = d then { f with bad := poisonAdd f.bad (gs.filter fun g => g / 2 == f.line) } else f } : State).taint
      (gs.filter fun g => !s.onCopy d (g * 64))

/-- The granules that a range covers whole. -/
def wholeIn (a n : Nat) : List Nat := (granules a n).filter fun g => decide (a ≤ g * 64) && decide (g * 64 + 64 ≤ a + n)

/-- Writes bytes at a die's coherent caches. Log 109 (DEDUCED). -/
def State.dieWrite (s : State) (die pa : Nat) (bs : List Byte) : State :=
  (((List.range bs.length).zip bs).foldl (fun s e => s.diePut die (pa + e.1) e.2) s).cleanAt (some die) (wholeIn pa bs.length)

/-! ## Scratch -/

/-- The group bound at a place. -/
def State.group? (s : State) (p : Place) : Option Group := s.groups.find? fun g => g.place == p

/-- Replaces the group at a place. -/
def State.setGroup (s : State) (p : Place) (f : Group → Group) : State :=
  { s with groups := updFirst (fun g => g.place == p) f s.groups }

/-- The place of the gang member of a rank. -/
def Group.member (g : Group) (rank : Nat) : Place := g.gang.getD rank g.place

/-- The window of a group. -/
def Group.window (g : Group) (w : Nat) : Window := g.win.getD w {}

/-- The group bound at a rank of a group's gang, while it is of the same task. Log 133 (DEDUCED). -/
def State.memberAt (s : State) (g : Group) (rank : Nat) : Option Group :=
  match s.group? (g.member rank) with
  | some m => if m.task = g.task ∧ m.ctx = g.ctx then some m else none
  | none => none

/-- The window that a gang member's scratch address names. -/
def State.scrWindow (s : State) (g : Group) (a : ScrAt) : Window :=
  match s.memberAt g a.rank with
  | some m => m.window a.win
  | none => {}

/-- Changes a window of a gang member. -/
def State.scrUpdate (s : State) (g : Group) (a : ScrAt) (f : Window → Window) : State :=
  match s.memberAt g a.rank with
  | some m => s.setGroup m.place fun m => { m with win := updAt m.win a.win f }
  | none => s

/-- `n` bytes of scratch. -/
def State.scrRead (s : State) (g : Group) (a : ScrAt) (n : Nat) : List Byte := (s.scrWindow g a).cells.read a.off n

/-- The poisoned granule of a scratch range. -/
def State.scrPoison (s : State) (g : Group) (a : ScrAt) (n : Nat) : Option Nat := poisonIn (s.scrWindow g a).poison a.off n

/-- Writes a window's bytes. -/
def Window.write (w : Window) (off : Nat) (bs : List Byte) : Window :=
  { cells := w.cells.write off bs, poison := poisonWrite w.poison off bs.length }

/-- Writes bytes of scratch at a member of a group's gang. -/
def State.scrWrite (s : State) (g : Group) (a : ScrAt) (bs : List Byte) : State :=
  s.scrUpdate g a fun w => w.write a.off bs

/-- Poisons the granules of a scratch range. -/
def State.scrTaint (s : State) (g : Group) (a : ScrAt) (n : Nat) : State :=
  s.scrUpdate g a fun w => { w with poison := poisonAdd w.poison (granules a.off n) }

/-! ## Barriers (08 R184, R186) -/

/-- A barrier's fields. -/
structure Barrier where
  bytes : Int
  arrivals : Nat
  reset : Nat
  phase : Bool
  error : Bool
deriving DecidableEq, Repr

/-- A barrier of its 16 bytes as a number. -/
def barOf (v : Nat) : Barrier :=
  ⟨sextN v 36, v / 2 ^ 36 % 65536, v / 2 ^ 52 % 65536, Nat.testBit v 68, Nat.testBit v 69⟩

/-- The number of a barrier. Log 134 (DESIGN CHOICE). -/
def Barrier.num (b : Barrier) : Nat :=
  truncI b.bytes 36 + b.arrivals % 65536 * 2 ^ 36 + b.reset % 65536 * 2 ^ 52 + b.phase.toNat * 2 ^ 68 + b.error.toNat * 2 ^ 69

/-- The barrier at a scratch address. -/
def State.bar (s : State) (g : Group) (a : ScrAt) : Barrier := barOf (ofBytes (s.scrRead g a 16))

/-- Stores a barrier. Log 134 (DESIGN CHOICE). -/
def State.setBar (s : State) (g : Group) (a : ScrAt) (b : Barrier) : State := s.scrWrite g a (bytesOf b.num 16)

/-- `update(bar, db, da)` (08 R186): the new barrier and the cause it reports. -/
def Barrier.update (b : Barrier) (db : Int) (da : Nat) : Barrier × Option Nat :=
  if b.error then (b, none)
  else
    let nb := b.bytes + db
    if nb < -(2 ^ 35) ∨ 2 ^ 35 - 1 < nb then ({ b with error := true }, some 0x0C6)
    else if b.arrivals < da then ({ b with error := true }, some 0x0C7)
    else
      let na := b.arrivals - da
      if nb = 0 ∧ na = 0 then ({ b with bytes := 0, arrivals := b.reset, phase := !b.phase }, none)
      else ({ b with bytes := nb, arrivals := na }, none)

/-- One update of the barrier at a scratch address (08 R186). Log 71 (DEDUCED); 134 (DESIGN CHOICE). -/
def State.barUpdate (s : State) (g : Group) (a : ScrAt) (db : Int) (da : Nat) : State × Option Nat :=
  let r := (s.bar g a).update db da
  (s.setBar g a r.1, r.2)

/-- The word BTEST delivers (08 R185). -/
def Barrier.test (b : Barrier) : Word :=
  wordN (truncI b.bytes 36 + b.arrivals % 65536 * 2 ^ 36 + b.phase.toNat * 2 ^ 52 + b.error.toNat * 2 ^ 53)

end Sys2Proof.Machine
end

