-- ==== Sys2Proof/Machine/Vm.lean ====
section
/-!
DEFINITION. Machine/Vm.lean: page tables, walks, frame pools, page commits and invalidations (14 R260 to R271,
R410).
-/
namespace Sys2Proof.Machine

/-! ## Contexts -/

/-- The context in a slot. -/
def State.ctx? (s : State) (c : Nat) : Option Ctx := s.ctxs.find? fun x => x.slot == c

/-- Replaces a context. -/
def State.setCtx (s : State) (c : Nat) (f : Ctx → Ctx) : State :=
  { s with ctxs := updFirst (fun x => x.slot == c) f s.ctxs }

/-- Draws the model's counter for a choice the spec leaves to the device. Log 4 (DESIGN CHOICE). -/
def State.draw (s : State) : State := { s with fresh := s.fresh + 1 }

/-- One of a list, by a number; a list of one gives its element. Log 4 (DESIGN CHOICE). -/
def pickOf {α : Type} (k : Nat) : List α → Option α
  | [] => none
  | [a] => some a
  | a :: b :: l => (a :: b :: l)[k % (l.length + 2)]?

/-- One of a list, by the device's choice; the first without one. Log 4 (DESIGN CHOICE). -/
def State.pick {α : Type} (s : State) (l : List α) : Option α := l[Config.choice s.fresh % l.length]?

/-! ## Leaves (14 R261) -/

/-- The kind of an entry. -/
def pteKind (e : Word) : Nat := bitsN e 0 2
/-- The state of a leaf: 1 reserved, 2 committed, 3 migrating. -/
def leafState (e : Word) : Nat := bitsN e 2 2
/-- The size code of a leaf. -/
def leafSize (e : Word) : Nat := bitsN e 4 2
/-- Read permission. -/
def leafR (e : Word) : Bool := bitN e 6
/-- Write permission. -/
def leafW (e : Word) : Bool := bitN e 7
/-- Fetch permission. -/
def leafX (e : Word) : Bool := bitN e 8
/-- Commit on touch. -/
def leafTouch (e : Word) : Bool := bitN e 9
/-- The frame field as a physical address. -/
def leafPa (e : Word) : Nat := bitsN e 16 36 * 65536
/-- Pin count. -/
def leafPins (e : Word) : Nat := bitsN e 56 8
/-- A committed or migrating leaf. -/
def leafCommitted (e : Word) : Bool := decide (2 ≤ leafState e)

/-- A page size of its code. -/
def pgOfCode (n : Nat) : PgSize :=
  match n with
  | 0 => .k64
  | 1 => .m2
  | _ => .g1

/-- A well-formed leaf of a size code (14 R261). -/
def leafWf (e : Word) (size : Nat) : Bool :=
  decide (pteKind e = 2) && decide (leafSize e = size) && decide (leafState e ≠ 0) && decide (bitsN e 52 4 = 0) &&
    decide (bitsN e 10 6 = 0) && decide (leafPa e % pgBytes (pgOfCode size) = 0)

/-- A well-formed table entry; an L2 entry's table is aligned to 128 KiB. -/
def tableWf (e : Word) (level : Nat) : Bool :=
  decide (bitsN e 52 12 = 0) && decide (bitsN e 2 10 = 0) && (decide (level = 1) || decide (bitsN e 12 5 = 0))

/-- An entry of a context's table; an unlisted entry is empty. -/
def Ctx.pteAt (c : Ctx) (level idx : Nat) : Word :=
  match c.pte.find? fun e => e.1.level == level && e.1.idx == idx with
  | some e => e.2
  | none => 0

/-- What a walk finds. -/
inductive Walk where
  | unmapped
  | malformed
  | leaf (e : Word)
deriving DecidableEq, Repr

/-- The walk of an address (14 R260, R261). -/
def Ctx.walk (c : Ctx) (va : Nat) : Walk :=
  let e1 := c.pteAt 1 (va >>> 39)
  match pteKind e1 with
  | 0 => .unmapped
  | 1 =>
    if !tableWf e1 1 then .malformed
    else
      let e2 := c.pteAt 2 (va >>> 30)
      match pteKind e2 with
      | 0 => .unmapped
      | 1 =>
        if !tableWf e2 2 then .malformed
        else
          let e3 := c.pteAt 3 (va >>> 16)
          match pteKind e3 with
          | 0 => .unmapped
          | 2 =>
            if leafWf e3 0 then .leaf e3
            else if leafWf e3 1 then
              let i0 := (va >>> 21) * 32
              if (List.range 32).all fun i => c.pteAt 3 (i0 + i) == e3 then .leaf e3 else .malformed
            else .malformed
          | _ => .malformed
      | 2 => if leafWf e2 2 then .leaf e2 else .malformed
      | _ => .malformed
  | _ => .malformed

/-- The page of an address under a leaf: its base. -/
def leafBase (va : Nat) (e : Word) : Nat :=
  let b := pgBytes (pgOfCode (leafSize e))
  va / b * b

/-- Writes an entry; an empty entry is not listed. -/
def Ctx.setPte (c : Ctx) (level idx : Nat) (e : Word) : Ctx :=
  let rest := c.pte.filter fun x => !(x.1.level == level && x.1.idx == idx)
  { c with pte := if e = 0 then rest else (⟨level, idx⟩, e) :: rest }

/-- The entries of the tables above a page, which the page service unit makes as needed. -/
def Ctx.needTables (c : Ctx) (va : Nat) (sz : PgSize) : Ctx :=
  let c := if c.pteAt 1 (va >>> 39) = 0 then c.setPte 1 (va >>> 39) 1 else c
  match sz with
  | .g1 => c
  | _ => if c.pteAt 2 (va >>> 30) = 0 then c.setPte 2 (va >>> 30) 1 else c

/-- Writes a page's leaf, or empties it: 32 entries for 2 MiB (14 R260). -/
def Ctx.setLeaf (c : Ctx) (va : Nat) (sz : PgSize) (e : Word) : Ctx :=
  let c := c.needTables va sz
  match sz with
  | .k64 => c.setPte 3 (va >>> 16) e
  | .m2 => (List.range 32).foldl (fun c i => c.setPte 3 ((va >>> 21) * 32 + i) e) c
  | .g1 => c.setPte 2 (va >>> 30) e

/-! ## Translation (14 R265, R266) -/

/-- The outcome of a translation. -/
inductive TRes where
  | ok (pa : Nat)
  | fault (cause : Nat)
  | touch
deriving DecidableEq, Repr

/-- The permissions an access needs (14 R265 check 5): the cause of a missing one. -/
def permCause (e : Word) (acc : Access) : Option Nat :=
  match acc with
  | .fetch => if leafX e then none else some 0x08A
  | .load | .engineRead => if leafR e then none else some 0x089
  | .store | .engineWrite => if leafW e then none else some 0x089
  | .atomic => if leafR e && leafW e then none else some 0x089
  | _ => none

/-- Translates an address of a context for an access (14 R265 checks 1 to 6, but alignment). Log 15 (DEDUCED). -/
def State.translate (s : State) (c : Nat) (va : Nat) (acc : Access) : TRes :=
  if 2 ^ 56 ≤ va then .fault 0x080
  else match s.ctx? c with
    | none => .fault 0x087
    | some cx =>
      match cx.walk va with
      | .malformed => .fault 0x08E
      | .unmapped => .fault 0x087
      | .leaf e =>
        if !leafCommitted e then (if leafTouch e then .touch else .fault 0x088)
        else match permCause e acc with
          | some k => .fault k
          | none =>
            let pa := leafPa e + va % pgBytes (pgOfCode (leafSize e))
            if !s.frameOk pa then .fault 0x08D
            else if acc = .fetch ∧ paPkg pa ≠ s.pkgNum then .fault 0x082
            else .ok pa

/-- Translates each 16-byte unit of a range that may cross pages: the physical addresses of its units, or the
first failure with its address. -/
def State.translateUnits (s : State) (c : Nat) (acc : Access) : Nat → Nat → Except (Nat × TRes) (List Nat)
  | _, 0 => .ok []
  | va, n + 1 =>
    match s.translate c va acc with
    | .ok pa =>
      match State.translateUnits s c acc (va + 16) n with
      | .ok l => .ok (pa :: l)
      | .error e => .error e
    | r => .error (va, r)

/-! ## Frame pools (14 R268, R410) -/

/-- Tier and die or port of a frame. -/
def frameSpot (f : Nat) : Nat × Nat :=
  let l := paLoc (f * 65536)
  match locCxl l with
  | some (p, _) => (1, p)
  | none => (0, l / 2 ^ 37 % 4)

/-- Runs of `n` aligned frames in a list, by first frame. -/
def frameRuns (l : List Nat) (n : Nat) : List Nat :=
  if n = 1 then l else l.filter fun f => decide (f % n = 0) && (List.range n).all fun i => l.contains (f + i)

/-- The frames to draw from, for a placement, in the order of R268: its die or port, its tier, the other tier. Log 78 (DESIGN CHOICE); 124 (DESIGN CHOICE). -/
def drawFrom (l : List Nat) (n : Nat) (spot : Nat × Nat) : List Nat :=
  let runs := frameRuns l n
  match runs.filter fun f => frameSpot f == spot with
  | [] =>
    match runs.filter fun f => (frameSpot f).1 == spot.1 with
    | [] => runs
    | a => a
  | a => a

/-- The frames a block that has not committed holds for VCOMMIT or PIN (12 R247). -/
def Effect.frames : Effect → List Nat
  | .commit sz _ pages => pages.flatMap fun h => h.frame.toList.flatMap fun f => (List.range (pgFrames sz)).map (f + ·)
  | _ => []

/-- The effects held by the blocks that run. -/
def State.heldEffects (s : State) : List (Group × Effect) :=
  s.groups.flatMap fun g => match g.run with
    | some r => r.nodes.map fun n => (g, n.eff)
    | none => []

/-- The unreserved free frames of a context: in the pool, in no reserve and held by no block. -/
def State.freeFrames (s : State) (c : Nat) : List Nat :=
  match s.ctx? c with
  | none => []
  | some cx =>
    let held := s.heldEffects.flatMap fun e => if e.1.ctx = c then e.2.frames else []
    cx.frames.filter fun f => !held.contains f

/-- Takes a run of `n` unreserved frames of a context for a placement. Log 78 (DESIGN CHOICE). -/
def State.takeFrames (s : State) (c : Nat) (n : Nat) (spot : Nat × Nat) : Option (Nat × State) :=
  match s.pick (drawFrom (s.freeFrames c) n spot) with
  | none => none
  | some f => some (f, (s.setCtx c fun cx => { cx with frames := cx.frames.filter fun x => !(decide (f ≤ x) && decide (x < f + n)) }).draw)

/-- Zeroes a frame run. -/
def State.zeroFrames (s : State) (f n : Nat) : State :=
  let a := f * 65536
  let b := n * 65536
  { s with
    mem := s.mem.clear a b
    poison := s.poison.filter fun g => !(decide (a ≤ g * 64) && decide (g * 64 < a + b))
    foreign := s.foreign.filter fun x => !(decide (a ≤ x.line * 128) && decide (x.line * 128 < a + b)) }

/-- The HBM stack in which a byte of tier 0 lies: the two of a die interleave at 512 bytes (10 R211). Log 107 (DESIGN CHOICE). -/
def stackOf (pa : Nat) : Nat := paLoc pa / 2 ^ 37 % 4 * 2 + pa / 512 % 2

/-- An HBM row holds a frame: one of its list that lies on the die beside whose stacks it is (10 R211; 14 R275). Log 107 (DESIGN CHOICE). -/
def State.rowHolds (s : State) (u : Word) (f : Nat) : Bool :=
  (Config.rowFrames u.toNat).contains f && s.homeDie (f * 65536) == some (bitsN u 16 3 / 2)

/-- A frame that a retired HBM row holds (14 R275). Log 79 (DEDUCED). -/
def State.frameRetired (s : State) (f : Nat) : Bool :=
  s.retired.any fun u => decide (bitsN u 0 4 = 3) && s.rowHolds u f

/-- Returns frames of a context's pool to it. Log 77 (DEDUCED). -/
def State.giveFrames (s : State) (c : Nat) (l : List Nat) : State :=
  s.setCtx c fun cx =>
    { cx with frames := l.filter (fun f => cx.pool.contains f && !cx.frames.contains f && !s.frameRetired f) ++ cx.frames }

/-- The frames of a page at a first frame. -/
def framesOf (f : Nat) (sz : PgSize) : List Nat := (List.range (pgFrames sz)).map (f + ·)

/-- The leaf of a page committed with a frame. -/
def leafWith (e : Word) (f : Nat) : Word := putBits (putBits e 16 36 f) 2 2 2

/-- Commits a reserved page with a frame run, zeroed (14 R267, R268). -/
def State.commitPage (s : State) (c va : Nat) (e : Word) (f : Nat) : State :=
  let sz := pgOfCode (leafSize e)
  (s.zeroFrames f (pgFrames sz)).setCtx c fun cx =>
    { (cx.setLeaf (leafBase va e) sz (leafWith e f)) with watch := 0 }

/-- The walk of an address in a context's table; a slot without a context maps nothing. -/
def State.walkOf (s : State) (c va : Nat) : Walk :=
  match s.ctx? c with
  | some cx => cx.walk va
  | none => .unmapped

/-- Commits the page of an address by a touch for no group or from unreserved frames only: the new state, or none
without a frame. Log 69 (DEDUCED). -/
def State.touchPage (s : State) (c va : Nat) : Option State :=
  match s.walkOf c va with
  | .leaf e =>
    if leafCommitted e then some s
    else match s.takeFrames c (pgFrames (pgOfCode (leafSize e))) (frameSpot (leafPa e / 65536)) with
      | some (f, s') => some (s'.commitPage c va e f)
      | none => none
  | _ => some s

/-- Takes a frame of a group's reserve for a 64 KiB page (14 R268 source 3). Log 78 (DESIGN CHOICE). -/
def State.takeReserve (s : State) (p : Place) (n : Nat) : Option (Nat × State) :=
  match s.group? p with
  | none => none
  | some g =>
    match s.pick (frameRuns g.reserve n) with
    | none => none
    | some f => some (f, (s.setGroup p fun g => { g with reserve := g.reserve.filter fun x => !(decide (f ≤ x) && decide (x < f + n)) }).draw)

/-- A touch for a group: unreserved frames, then its reserve. -/
def State.touchFor (s : State) (c va : Nat) (p : Place) : Option State :=
  match s.touchPage c va with
  | some s' => some s'
  | none =>
    match s.walkOf c va with
    | .leaf e =>
      match s.takeReserve p (pgFrames (pgOfCode (leafSize e))) with
      | some (f, s') => some (s'.commitPage c va e f)
      | none => none
    | _ => none

/-! ## Access of a party other than a group's instruction -/

/-- A change of the page of an address is not yet complete (14 R270). -/
def State.pageChanging (s : State) (c va : Nat) : Bool :=
  match s.ctx? c with
  | some cx => cx.invals.any fun i => decide (i.va ≤ va) && decide (va < i.va + i.size)
  | none => false

/-- In place of a cause: the access waits, since a change of its page must end before the page can be committed (14 R270). -/
def waitCause : Nat := 0

/-- Translates a range unit by unit, committing Touch pages from unreserved frames (14 R267, engines and the
dispatcher): the addresses, or the address and cause that fail. Log 69 (DEDUCED). -/
def State.reach (acc : Access) (c : Nat) : Nat → Nat → State → Except (Nat × Nat) (List Nat × State)
  | _, 0, s => .ok ([], s)
  | va, n + 1, s =>
    match s.translate c va acc with
    | .ok pa =>
      match State.reach acc c (va + 16) n s with
      | .ok (l, s') => .ok (pa :: l, s')
      | .error e => .error e
    | .fault k => .error (va, k)
    | .touch =>
      if s.pageChanging c va then .error (va, waitCause)
      else match s.touchPage c va with
      | none => .error (va, 0x08B)
      | some s1 =>
        match s1.translate c va acc with
        | .ok pa =>
          match State.reach acc c (va + 16) n s1 with
          | .ok (l, s') => .ok (pa :: l, s')
          | .error e => .error e
        | .fault k => .error (va, k)
        | .touch => .error (va, 0x08B)

/-- Units of 16 bytes of a range. -/
def units (n : Nat) : Nat := (n + 15) / 16

/-- What a read at a point leaves: a die's caches hold its lines, as for its tiles and engines (10 R206); at the home another
package is asked (10 R213). Log 140 (DEDUCED). -/
def State.bringAt (s : State) (die : Option Nat) (pa n : Nat) : State :=
  match die with
  | some d => s.fetchLines d pa n
  | none => s.askFar pa n

/-- `n` bytes at a point: a die's coherent caches, or the home (10 R208). -/
def State.readAt (s : State) (die : Option Nat) (pa n : Nat) : List Byte :=
  match die with
  | some d => s.dieRead d pa n
  | none => s.homeRead pa n

/-- A granule is poisoned at a point. -/
def State.badAt (s : State) (die : Option Nat) (g : Nat) : Bool :=
  match die with
  | some d => s.badDie d g
  | none => s.badHome g

/-- Reads `n` bytes of a context at a point, or fails with address and cause; a poisoned granule gives 0x08C with its
virtual address when `strict`. Log 140 (DEDUCED). -/
def State.ctxRead (s : State) (die : Option Nat) (c va n : Nat) (acc : Access) (strict : Bool) :
    Except (Nat × Nat) (List Byte × State) :=
  match s.reach acc c (va / 16 * 16) (units (va % 16 + n)) with
  | .error e => .error (max va e.1, e.2)
  | .ok (pas, s') =>
    match if strict then pas.findIdx? fun pa => s'.badAt die (pa / 64) else none with
    | some i => .error ((va / 16 * 16 + 16 * i) / 64 * 64, 0x08C)
    | none =>
      .ok (((pas.flatMap fun pa => s'.readAt die pa 16).drop (va % 16)).take n,
        pas.foldl (fun s pa => s.bringAt die pa 16) s')

/-- The physical bytes of a range: each byte with its address. -/
def spread (pas : List Nat) (skip : Nat) (bs : List Byte) : List (Nat × Byte) :=
  ((pas.flatMap fun pa => (List.range 16).map (pa + ·)).drop skip).zip bs

/-- Granules that bytes cover whole. -/
def wholeOf (as : List Nat) : List Nat :=
  ((as.filter fun a => a % 64 = 0).map (· / 64)).filter fun g => (List.range 64).all fun i => as.contains (g * 64 + i)

/-- Byte writes at a point. -/
def State.putAt (s : State) (die : Option Nat) (ws : List (Nat × Byte)) : State :=
  match die with
  | some d => ws.foldl (fun s w => s.diePut d w.1 w.2) s
  | none => s.putHome ws

/-- Writes bytes of a context: at a die's coherent point, or at the home. -/
def State.ctxWrite (s : State) (die : Option Nat) (c va : Nat) (bs : List Byte) (acc : Access) :
    Except (Nat × Nat) State :=
  match s.reach acc c (va / 16 * 16) (units (va % 16 + bs.length)) with
  | .error e => .error (max va e.1, e.2)
  | .ok (pas, s') =>
    let ws := spread pas (va % 16) bs
    .ok ((s'.putAt die ws).cleanAt die (wholeOf (ws.map Prod.fst)))

/-! ## Invalidation (14 R270) -/

/-- A message to another package leaves; one to a package that has failed waits for its spare (22 R402). -/
def State.toPod (s : State) (pkg : Nat) (o : Out) : State :=
  if s.failedPkgs.contains pkg then { s with stalled := s.stalled ++ [(pkg, o)] } else { s with outbox := s.outbox ++ [o] }

/-- What the running block of a group holds at other packages is given up (15 R286, R289, R297). Log 113 (DESIGN CHOICE). -/
def State.unask (s : State) (g : Group) : State :=
  match g.run with
  | none => s
  | some r => r.nodes.foldl (fun s n => match n.asked, n.l with
      | some k, some t =>
        s.toPod (bitsN t.word 54 10) (.probe k t.word (((s.ctx? g.ctx).map Ctx.tag).getD 0) .drop)
      | _, _ => s) s

/-- Ends every block not committed of a context that holds a translation of a page (14 R270), and lets requests
that waited for a lease go on. -/
def State.discardRuns (s : State) (c va size : Nat) : State :=
  let on (r : Option BlockRun) : Bool := match r with
    | some r => r.pages.any fun a => decide (va ≤ a) && decide (a < va + size)
    | none => false
  let hit : Group → Bool := fun g => g.ctx == c && (on g.run || on g.ahead)
  if s.groups.any hit then
    { (s.groups.filter fun g => g.ctx == c && on g.run).foldl State.unask s with
             groups := s.groups.map fun g => if hit g then { g with run := if on g.run then none else g.run, ahead := none } else g
             agenda := s.later ++ s.agenda, later := [] }
  else s

/-- The first part of an invalidation: new leaf, TLBs, blocks; the rest waits (14 R270). Log 15 (DEDUCED). -/
def State.beginInval (s : State) (c va : Nat) (sz : PgSize) (old new : Word) (map : Option Nat) : State :=
  let s := s.setCtx c fun cx =>
    { (cx.setLeaf va sz new) with invals := cx.invals ++ [⟨va, pgBytes sz, old, map⟩] }
  let s := { s with tlb := s.tlb.filter fun t => !(t.ctx == c && decide (va ≤ t.va) && decide (t.va < va + pgBytes sz)) }
  s.discardRuns c va (pgBytes sz)

/-- A page of a range is still being changed or moved (14 R270, R271). Log 98 (DEDUCED). -/
def Ctx.rangeBusy (c : Ctx) (lo hi : Nat) : Bool :=
  (c.invals.any fun i => decide (i.va < hi) && decide (lo < i.va + i.size)) ||
    (c.migs.any fun m => decide (m.va < hi) && decide (lo < m.va + pgBytes m.sz))

/-- A page's change is not yet complete. -/
def Ctx.changing (c : Ctx) (va : Nat) : Bool := c.invals.any fun i => decide (i.va ≤ va) && decide (va < i.va + i.size)

/-- No buffered store of the context still uses a page. -/
def State.drained (s : State) (c va size : Nat) : Bool :=
  s.groups.all fun g => g.ctx != c || g.sb.all fun e => !(decide (va ≤ e.va) && decide (e.va < va + size)) ||
    (match e.dest with
      | .peer _ => true
      | .phys _ => false)

end Sys2Proof.Machine
end

