-- ==== Sys2Proof/Machine/Operands.lean ====
section
/-!
DEFINITION. Machine/Operands.lean: what each tile instruction's word says of its operands: consumed slots with
their shapes, result, LSID, side-effect mask bit, class (02 R37, R50; 04 R84; 05 R113; 08 R162; 12 R237; 15 R285;
19 R357), and the operand values of the forms (04 R94, 05 R112).
-/
namespace Sys2Proof.Machine

/-- What a consumed slot takes: one shape, or any (02 R50). -/
inductive Need where
  | sh (x : Shape)
  | any
deriving DecidableEq, Repr

/-- What an instruction delivers: nothing, a shape, the shape of its .l token, void for any shape, or the shape
of a bound stream register (02 R50). -/
inductive Res where
  | none
  | sh (x : Shape)
  | ofL
  | voids
  | stream (n : Nat)
deriving DecidableEq, Repr

/-- The control part of a word; an instruction without one has no guard and no targets (02 R34, R48). -/
def ctlOf : Instr → Ctl
  | .read c _ _ | .write c _ _ | .mov c _ | .movi c _ _ | .movl c _ _ | .sel c _ => c
  | .fan _ t0 t1 _ _ => ⟨.off, t0, t1⟩
  | .void _ t0 t1 => ⟨.off, t0, t1⟩
  | .add c _ _ | .sub c _ _ | .mul c _ _ | .mulh c _ _ | .mad c _ _ | .div c _ _ | .rem c _ _ | .neg c _ _ | .abs c _ _ => c
  | .min c _ _ | .max c _ _ | .and c _ _ | .or c _ _ | .xor c _ _ | .not c _ | .shl c _ _ | .shr c _ _ | .sra c _ _ => c
  | .rot c _ _ | .clz c _ | .popc c _ | .bfx c _ _ | .bfi c _ _ | .lea c _ _ | .sext c _ | .zext c _ | .cmp c _ _ _ => c
  | .pand c | .por c | .pxor c | .pnot c | .plane c _ | .pcount c => c
  | .br c | .bri c _ | .call c _ | .ret c | .endg c | .trap c _ => c
  | .vadd c _ _ _ | .vsub c _ _ _ | .vmul c _ _ _ | .vdiv c _ _ _ | .vmin c _ _ _ | .vmax c _ _ _ => c
  | .vand c _ _ _ | .vor c _ _ _ | .vxor c _ _ _ | .vshl c _ _ _ | .vshr c _ _ _ | .vsra c _ _ _ => c
  | .vcmp c _ _ _ _ | .vfma c _ _ _ | .vabs c _ _ _ | .vneg c _ _ _ | .vnot c _ _ | .vsel c _ | .vcvt c _ _ _ => c
  | .vsqrt c _ _ | .vrcp c _ _ | .vrsqrte c _ _ | .vexp2 c _ _ | .vlog2 c _ _ | .vtanh c _ _ => c
  | .vreduce c _ _ _ | .vscan c _ _ _ | .vperm c _ _ | .vxlane c _ | .vbcast c _ _ | .vextr c _ | .vins c _ => c
  | .viota c _ _ | .vsortk c _ _ | .vmerge c _ | .kany c _ | .kall c _ | .kpop c _ => c
  | .mma c _ _ | .mmaG c _ _ | .mmas c _ _ | .mzero c _ _ | .mld c _ _ | .mst c _ => c
  | .qinit c _ _ _ _ | .qpush c _ _ | .qpop c _ _ | .qstat c _ _ => c
  | .cpy c _ | .cpyS c _ | .cpy2d c _ | .cpyPeer c _ | .cpyMc c _ | .cpyg c _ | .pref c _ _ => c
  | .binit c _ _ | .bexpect c _ _ | .barrive c _ _ | .bwait c _ _ | .btest c _ _ => c
  | .sbind c _ _ _ | .semit c _ _ _ | .sunbind c _ _ | .sst c _ _ | .lds c _ _ _ _ | .sts c _ _ _ _ => c
  | .ld c _ _ _ | .st c _ _ _ | .ldv c _ _ _ | .stv c _ _ _ | .gather c _ _ _ _ | .scatter c _ _ _ => c
  | .amoAdd c _ _ _ | .amoMin c _ _ _ | .amoMax c _ _ _ | .amoAnd c _ _ _ | .amoOr c _ _ _ | .amoXor c _ _ _ => c
  | .amoSwap c _ _ _ | .amoCas c _ _ _ | .fence c _ _ _ | .alloc c _ _ _ | .free c _ | .vcommit c _ _ => c
  | .vdecommit c _ _ | .vquery c _ | .vmigrate c _ _ _ _ _ | .pin c _ _ | .unpin c _ _ | .srd c _ | .swr c _ _ => c
  | .tspawn c _ _ _ | .tdec c _ _ | .tinst c _ _ | .tstat c _ | .relay c _ | .relaySig c _ | .relayPrep c _ _ => c
  | .gresume c _ _ | .gkill c _ _ | .rload c _ _ _ | .rstart c _ _ _ _ _ | .rabort c _ _ | .rstat c _ _ => c
  | _ => ⟨.off, .off, .off⟩

/-- The target bytes of a word, in order (02 R37, R38). -/
def targetsOf : Instr → List Tgt
  | .fan _ a b c d => [a, b, c, d]
  | i => [(ctlOf i).t0, (ctlOf i).t1]

/-- The LSID an instruction holds (08 R162; 12 R237; 15 R285; 19 R357). -/
def lsidOf : Instr → Option Nat
  | .mma _ _ o | .mmaG _ _ o | .mmas _ _ o => some o.lsid.toNat
  | .mzero _ l _ | .mld _ l _ => some l.toNat
  | .mst _ o => some o.lsid.toNat
  | .qinit _ l _ _ _ | .qpush _ l _ | .qpop _ l _ | .qstat _ l _ => some l.toNat
  | .cpy _ o | .cpyS _ o | .cpy2d _ o | .cpyPeer _ o | .cpyMc _ o | .cpyg _ o => some o.lsid.toNat
  | .pref _ l _ | .binit _ l _ | .bexpect _ l _ | .barrive _ l _ | .bwait _ l _ | .btest _ l _ => some l.toNat
  | .sbind _ l _ _ | .semit _ _ l _ | .sunbind _ l _ | .sst _ l _ | .lds _ _ l _ _ | .sts _ _ l _ _ => some l.toNat
  | .ld _ _ _ o | .st _ _ _ o | .ldv _ _ _ o | .stv _ _ _ o => some o.lsid.toNat
  | .gather _ _ l _ _ | .scatter _ _ l _ => some l.toNat
  | .amoAdd _ _ _ o | .amoMin _ _ _ o | .amoMax _ _ _ o | .amoAnd _ _ _ o => some o.lsid.toNat
  | .amoOr _ _ _ o | .amoXor _ _ _ o | .amoSwap _ _ _ o | .amoCas _ _ _ o => some o.lsid.toNat
  | .fence _ l _ _ | .alloc _ l _ _ | .free _ l | .vcommit _ l _ | .vdecommit _ l _ | .vquery _ l => some l.toNat
  | .vmigrate _ l _ _ _ _ | .pin _ l _ | .unpin _ l _ | .swr _ l _ => some l.toNat
  | .tspawn _ l _ _ | .tdec _ l _ | .tinst _ l _ | .tstat _ l | .relay _ l | .relaySig _ l | .relayPrep _ l _ => some l.toNat
  | .gresume _ l _ | .gkill _ l _ | .rload _ l _ _ | .rstart _ l _ _ _ _ | .rabort _ l _ | .rstat _ l _ => some l.toNat
  | _ => none

/-- The instructions that hold an LSID without a mask bit (08 R162; 12 R237, R253; 15 R285; 19 R357). -/
def noMaskBit : Instr → Bool
  | .mld _ _ _ | .qstat _ _ _ | .bwait _ _ _ | .btest _ _ _ | .sst _ _ _ | .lds _ _ _ _ _ => true
  | .ld _ _ _ _ | .ldv _ _ _ _ | .gather _ _ _ _ _ | .vquery _ _ | .swr _ _ _ | .tstat _ _ | .rstat _ _ _ => true
  | .fence _ _ .acq _ => true
  | _ => false

/-- An LSID with a bit of the side-effect mask (02 R32). -/
def maskLsid (i : Instr) : Option Nat := if noMaskBit i then none else lsidOf i

/-- The loads of 07 R148: instructions with an LSID and no mask bit, the read of an AMO, and QPOP, which reads its ring's
entry in scratch (11 R219), ALLOC, as an acquire (11 R221), and those that read a descriptor, an image, a table or their
arguments at their LSID place (08 R181; 15 R287, R293, R296; 19 R358, R359). Log 121 (DEDUCED). -/
def isLoad : Instr → Bool
  | .swr _ _ _ => false
  | .qpop _ _ _ | .alloc _ _ _ _ | .cpy2d _ _ | .cpyg _ _ => true
  | .tspawn _ _ _ _ | .relay _ _ | .relaySig _ _ | .relayPrep _ _ _ | .rload _ _ _ _ | .rstart _ _ _ _ _ _ => true
  | .amoAdd _ _ _ _ | .amoMin _ _ _ _ | .amoMax _ _ _ _ | .amoAnd _ _ _ _ => true
  | .amoOr _ _ _ _ | .amoXor _ _ _ _ | .amoSwap _ _ _ _ | .amoCas _ _ _ _ | .fence _ _ .acqrel _ => true
  | i => noMaskBit i

/-- The instructions that store to memory, global or scratch, as 07 R148 takes them. -/
def isStore : Instr → Bool
  | .st _ _ _ _ | .stv _ _ _ _ | .scatter _ _ _ _ | .sts _ _ _ _ _ | .qpush _ _ _ | .semit _ _ _ _ => true
  | .amoAdd _ _ _ _ | .amoMin _ _ _ _ | .amoMax _ _ _ _ | .amoAnd _ _ _ _ => true
  | .amoOr _ _ _ _ | .amoXor _ _ _ _ | .amoSwap _ _ _ _ | .amoCas _ _ _ _ => true
  | _ => false

/-- The branch-class instructions (02 R42). -/
def isBranch : Instr → Bool
  | .br _ | .bri _ _ | .call _ _ | .ret _ | .endg _ | .trap _ _ | .relay _ _ | .relaySig _ _ => true
  | _ => false

/-- RELAY and RELAY.SIG. -/
def isRelay : Instr → Bool
  | .relay _ _ | .relaySig _ _ => true
  | _ => false

/-- WRITE. -/
def isWrite : Instr → Bool
  | .write _ _ _ => true
  | _ => false

/-- Commands of the matrix engine (08 R163). -/
def isMatrix : Instr → Bool
  | .mma _ _ _ | .mmaG _ _ _ | .mmas _ _ _ | .mzero _ _ _ | .mst _ _ => true
  | _ => false

/-- Commands of the copy engine (08 R163). -/
def isCopy : Instr → Bool
  | .cpy _ _ | .cpyS _ _ | .cpy2d _ _ | .cpyPeer _ _ | .cpyMc _ _ | .cpyg _ _ | .pref _ _ _ => true
  | _ => false

/-- The slots a form's second operand takes: one for the producer form, none for the others. -/
def formS : SForm → List Need
  | .p => [.sh .s]
  | _ => []

/-- As `formS` for the forms with .sat. -/
def formSat : SatForm → List Need
  | .p _ => [.sh .s]
  | _ => []

/-- The second operand of a vector cell (05 R112). -/
def formV : VForm → List Need
  | .v => [.sh .v]
  | .s => [.sh .s]
  | .l _ => []

/-- The mask slot (05 R113). -/
def maskNeed : MaskUse → List Need
  | .none => []
  | _ => [.sh .k]

/-- The data slots an instruction consumes, .l first (02 R37). -/
def needsOf : Instr → List Need
  | .read _ _ _ | .movi _ _ _ | .movl _ _ _ | .void _ _ _ | .plane _ _ | .bri _ _ | .call _ _ | .ret _ | .endg _ | .trap _ _ => []
  | .write _ _ (.x _) => [.sh .s]
  | .write _ _ (.v _) => [.sh .v]
  | .write _ _ (.p _) => [.sh .p]
  | .write _ _ (.k _) => [.sh .k]
  | .mov _ _ | .fan _ _ _ _ _ => [.any]
  | .sel _ _ => [.any, .any, .sh .p]
  | .add _ _ f | .sub _ _ f | .mul _ _ f | .div _ _ f | .rem _ _ f => .sh .s :: formSat f
  | .mulh _ _ f | .min _ _ f | .max _ _ f | .and _ _ f | .or _ _ f | .xor _ _ f => .sh .s :: formS f
  | .shl _ _ f | .shr _ _ f | .sra _ _ f | .rot _ _ f | .lea _ _ f | .cmp _ _ _ f => .sh .s :: formS f
  | .mad _ _ (.p _) => [.sh .s, .sh .s, .sh .s]
  | .mad _ _ (.l _ _) => [.sh .s, .sh .s]
  | .neg _ _ _ | .abs _ _ _ | .not _ _ | .clz _ _ | .popc _ _ | .sext _ _ | .zext _ _ | .br _ => [.sh .s]
  | .bfx _ _ .p => [.sh .s, .sh .s]
  | .bfx _ _ (.i _) => [.sh .s]
  | .bfi _ _ .p => [.sh .s, .sh .s, .sh .s]
  | .bfi _ _ (.i _) => [.sh .s, .sh .s]
  | .pand _ | .por _ | .pxor _ => [.sh .p, .sh .p]
  | .pnot _ | .pcount _ => [.sh .p]
  | .vadd _ _ f m | .vsub _ _ f m | .vmul _ _ f m | .vdiv _ _ f m => .sh .v :: formV f ++ maskNeed m.mask
  | .vmin _ _ f k | .vmax _ _ f k | .vand _ _ f k | .vor _ _ f k | .vxor _ _ f k => .sh .v :: formV f ++ maskNeed k
  | .vshl _ _ f k | .vshr _ _ f k | .vsra _ _ f k | .vcmp _ _ _ f k => .sh .v :: formV f ++ maskNeed k
  | .vfma _ _ _ _ => [.sh .v, .sh .v, .sh .v]
  | .vabs _ _ _ k | .vneg _ _ _ k | .vnot _ _ k | .vrsqrte _ _ k | .vtanh _ _ k => .sh .v :: maskNeed k
  | .vcvt _ _ _ m | .vsqrt _ _ m | .vrcp _ _ m | .vexp2 _ _ m | .vlog2 _ _ m => .sh .v :: maskNeed m.mask
  | .vreduce _ _ _ m | .vscan _ _ _ m => .sh .v :: maskNeed m.mask
  | .vsel _ _ => [.sh .v, .sh .v, .sh .k]
  | .vperm _ _ k => [.sh .v, .sh .v] ++ maskNeed k
  | .vxlane _ _ | .vextr _ _ => [.sh .v, .sh .s]
  | .vbcast _ _ k | .viota _ _ k => .sh .s :: maskNeed k
  | .vins _ _ => [.sh .v, .sh .s, .sh .s]
  | .vsortk _ _ k => [.sh .v, .sh .s] ++ maskNeed k
  | .vmerge _ _ => [.sh .v, .sh .v, .sh .s]
  | .kany _ _ | .kall _ _ | .kpop _ _ => [.sh .k]
  | .mma _ _ o | .mmas _ _ o =>
    (if o.qa.isSome then [] else [.sh .s]) ++ (if o.qb.isSome then [] else [.sh .s]) ++ (if o.arrive then [.sh .s] else [])
  | .mmaG _ _ o => [.sh .s, .sh .s] ++ (if o.qb.isSome then [] else [.sh .s]) ++ (if o.arrive then [.sh .s] else [])
  | .mzero _ _ _ | .qpop _ _ _ | .qstat _ _ _ | .sunbind _ _ _ | .sst _ _ _ | .fence _ _ _ _ | .srd _ _ => []
  | .mld _ _ _ | .qinit _ _ _ _ _ | .pref _ _ _ | .barrive _ _ _ | .btest _ _ _ | .alloc _ _ _ _ | .free _ _ => [.sh .s]
  | .mst _ o => .sh .s :: (if o.credit then [.sh .s] else [])
  | .qpush _ _ _ => [.sh .v]
  | .cpy _ o | .cpyS _ o | .cpyPeer _ o | .cpyMc _ o =>
    .sh .s :: (if o.ring.isSome then [] else [.sh .s]) ++ (if o.credit then [.sh .s] else [])
  | .cpy2d _ o | .cpyg _ o => .sh .s :: (if o.credit then [.sh .s] else [])
  | .binit _ _ _ | .bexpect _ _ _ | .bwait _ _ _ => [.sh .s, .sh .s]
  | .sbind _ _ _ (.mem _ _ _) | .sbind _ _ _ (.rein _) => [.sh .s, .sh .s]
  | .sbind _ _ _ (.edge _ _) => []
  | .semit _ _ _ _ => [.any]
  | .lds _ _ _ _ _ => [.sh .s]
  | .sts _ _ _ vec _ => [.sh .s, if vec then .sh .v else .sh .s]
  | .ld _ _ _ _ | .ldv _ _ _ _ | .vquery _ _ | .swr _ _ _ => [.sh .s]
  | .st _ _ _ _ => [.sh .s, .sh .s]
  | .stv _ _ _ _ => [.sh .s, .sh .v]
  | .gather _ _ _ m _ => [.sh .s, .sh .v] ++ (if m then [.sh .k] else [])
  | .scatter _ _ _ _ => [.sh .s, .sh .v, .sh .v]
  | .amoAdd _ _ _ _ | .amoMin _ _ _ _ | .amoMax _ _ _ _ | .amoAnd _ _ _ _ => [.sh .s, .sh .s]
  | .amoOr _ _ _ _ | .amoXor _ _ _ _ | .amoSwap _ _ _ _ => [.sh .s, .sh .s]
  | .amoCas _ _ _ _ => [.sh .s, .sh .s, .sh .s]
  | .vcommit _ _ _ | .vdecommit _ _ _ | .pin _ _ _ | .unpin _ _ _ => [.sh .s, .sh .s]
  | .vmigrate _ _ _ _ a _ => [.sh .s, .sh .s] ++ (if a then [.sh .s] else [])
  | .tspawn _ _ _ _ | .tdec _ _ _ | .tstat _ _ | .gresume _ _ _ | .gkill _ _ _ | .rabort _ _ _ | .rstat _ _ _ => [.sh .s]
  | .tinst _ _ _ | .relay _ _ | .relaySig _ _ | .relayPrep _ _ _ | .rload _ _ _ _ => [.sh .s, .sh .s]
  | .rstart _ _ _ _ _ _ => [.sh .s, .sh .s, .sh .s]
  | _ => []

/-- What an instruction delivers (02 R50). -/
def resultOf : Instr → Res
  | .read _ _ (.x _) => .sh .s
  | .read _ _ (.v _) => .sh .v
  | .read _ _ (.p _) => .sh .p
  | .read _ _ (.k _) => .sh .k
  | .read _ _ (.s n) => .stream n.toNat
  | .mov _ _ | .fan _ _ _ _ _ | .sel _ _ => .ofL
  | .void _ _ _ => .voids
  | .cmp _ _ _ _ | .pand _ | .por _ | .pxor _ | .pnot _ | .plane _ _ | .kany _ _ | .kall _ _ => .sh .p
  | .vcmp _ _ _ _ _ => .sh .k
  | .vadd _ _ _ _ | .vsub _ _ _ _ | .vmul _ _ _ _ | .vdiv _ _ _ _ | .vmin _ _ _ _ | .vmax _ _ _ _ => .sh .v
  | .vand _ _ _ _ | .vor _ _ _ _ | .vxor _ _ _ _ | .vshl _ _ _ _ | .vshr _ _ _ _ | .vsra _ _ _ _ => .sh .v
  | .vfma _ _ _ _ | .vabs _ _ _ _ | .vneg _ _ _ _ | .vnot _ _ _ | .vsel _ _ | .vcvt _ _ _ _ => .sh .v
  | .vsqrt _ _ _ | .vrcp _ _ _ | .vrsqrte _ _ _ | .vexp2 _ _ _ | .vlog2 _ _ _ | .vtanh _ _ _ => .sh .v
  | .vreduce _ _ _ _ | .vscan _ _ _ _ | .vperm _ _ _ | .vxlane _ _ | .vbcast _ _ _ | .vins _ _ => .sh .v
  | .viota _ _ _ | .vsortk _ _ _ | .vmerge _ _ | .kpop _ _ | .mld _ _ _ | .qpop _ _ _ => .sh .v
  | .ldv _ _ _ _ | .gather _ _ _ _ _ => .sh .v
  | .lds _ _ _ vec _ => if vec then .sh .v else .sh .s
  | .write _ _ _ | .br _ | .bri _ _ | .call _ _ | .ret _ | .endg _ | .trap _ _ => .none
  | .mma _ _ _ | .mmaG _ _ _ | .mmas _ _ _ | .mzero _ _ _ | .mst _ _ | .qinit _ _ _ _ _ | .qpush _ _ _ => .none
  | .cpy _ _ | .cpyS _ _ | .cpy2d _ _ | .cpyPeer _ _ | .cpyMc _ _ | .cpyg _ _ | .pref _ _ _ => .none
  | .binit _ _ _ | .bexpect _ _ _ | .barrive _ _ _ | .sbind _ _ _ _ | .semit _ _ _ _ | .sunbind _ _ _ => .none
  | .sts _ _ _ _ _ | .st _ _ _ _ | .stv _ _ _ _ | .scatter _ _ _ _ | .fence _ _ _ _ | .free _ _ => .none
  | .vdecommit _ _ _ | .unpin _ _ _ | .vmigrate _ _ _ _ _ _ | .swr _ _ _ | .tdec _ _ _ => .none
  | .relay _ _ | .relaySig _ _ | .relayPrep _ _ _ | .gresume _ _ _ | .gkill _ _ _ => .none
  | .rload _ _ _ _ | .rstart _ _ _ _ _ _ | .rabort _ _ _ => .none
  | _ => .sh .s

/-- The second operand of a scalar cell: token, immediate or literal (04 R81, R94). -/
def formWord (f : SForm) (tok : Word) (lit : BitVec 4 → Word) : Word :=
  match f with
  | .p => tok
  | .i imm => imm.signExtend 64
  | .l k => lit k

/-- As `formWord` for the cells with .sat. -/
def satWord (f : SatForm) (tok : Word) (lit : BitVec 4 → Word) : Word :=
  match f with
  | .p _ => tok
  | .i imm => imm.signExtend 64
  | .l k _ => lit k

/-- The saturate bit of a form; the immediate form has none (04 R94). -/
def satBit : SatForm → Bool
  | .p s => s
  | .i _ => false
  | .l _ s => s

/-- The control of BFX and BFI (04 R96). -/
def bfWord (f : BfForm) (tok : Word) : Word :=
  match f with
  | .p => tok
  | .i imm => imm.signExtend 64

/-- The slot names in the order data operands take them (08 R162). -/
def slotAt : Nat → Slot
  | 0 => .l
  | 1 => .r
  | 2 => .t
  | _ => .g

/-- The slots an instruction consumes with what each takes: its data slots, and .g under a guard (02 R37). -/
def slotsOf (i : Instr) : List (Slot × Need) :=
  let ds := ((List.range 3).map slotAt).zip (needsOf i)
  if (ctlOf i).guard = .off then ds else ds ++ [(.g, .sh .p)]

/-- The token of a slot of a node. -/
def Node.slot (n : Node) : Slot → Option Token
  | .l => n.l
  | .r => n.r
  | .t => n.t
  | .g => n.g

/-- Every consumed slot of a node holds a token (07 R145). -/
def Node.ready (n : Node) : Bool := (slotsOf n.ins).all fun s => (n.slot s.1).isSome

/-- The node has resolved (07 R146). -/
def Node.resolved (n : Node) : Bool :=
  match n.st with
  | .fired | .nulled => true
  | _ => false

/-- A target's slot of a node filled with a token (07 R143). -/
def Node.fill (n : Node) (s : Slot) (v : Token) : Node :=
  match s with
  | .l => { n with l := some v }
  | .r => { n with r := some v }
  | .t => { n with t := some v }
  | .g => { n with g := some v }

/-- `deliver(tb, v)` (07 R143). -/
def deliver (v : Token) (ns : List Node) (tb : Tgt) : List Node :=
  match tb with
  | .off => ns
  | .to s j => updAt ns j.toNat fun n => n.fill s v

/-- Delivers a token to each target of a word (07 R143, 04 R90). -/
def deliverAll (i : Instr) (v : Token) (ns : List Node) : List Node := (targetsOf i).foldl (deliver v) ns

end Sys2Proof.Machine
end

