-- ==== Sys2Proof/Machine/Flags.lean ====
section
/-!
DEFINITION. Machine/Flags.lean: the floating-point flags a block gathers and the traps they raise (03 R70 to R73).
-/
namespace Sys2Proof.Machine

/-- The flags gathered by the instructions of a block that fired (03 R72). -/
def BlockRun.flags (r : BlockRun) : FpFlags :=
  r.nodes.foldl (fun a n => if n.st = .fired then a.or n.fl else a) {}

/-- `sr.fpflags` after a commit (03 R70, R72). -/
def orFlags (w : Word) (fl : FpFlags) : Word := (w ||| fl.word) &&& 0x1F#64

/-- What SWR leaves in a register: reserved bits stay zero (03 R70, R71). -/
def swrValue (r : SwReg) (v : Word) : Word :=
  match r with
  | .fpflags => v &&& 0x1F#64
  | .fptrap => v &&& 0x3#64
  | .seed => v

/-- The cause of the floating-point trap of a block, from the enables at its start (03 R73). -/
def fpCause (enables : Word) (fl : FpFlags) : Option Nat :=
  if fl.nv && enables.getLsbD 0 then some 0x040
  else if fl.of && enables.getLsbD 1 then some 0x041
  else none

/-- The index of the first node that satisfies a test, or 0x3F. -/
def firstIdx (ns : List Node) (f : Node → Bool) : Nat :=
  match ns.findIdx? f with
  | some i => i
  | none => 0x3F

/-- The lowest index that raised the flag of a floating-point trap (03 R73, 14 R407). -/
def fpIndex (ns : List Node) (cause : Nat) : Nat :=
  firstIdx ns fun n => decide (n.st = .fired) && (if cause = 0x040 then n.fl.nv else n.fl.of)

end Sys2Proof.Machine
end

