-- ==== Sys2Proof/Machine/Ops.lean ====
section
/-!
DEFINITION. Machine/Ops.lean: what the instructions share: settling (07 R145, R146), addresses (08 R161, 12 R236),
the order of a block's loads (07 R148), leases (11 R226), the store buffer (11 R218), a group's traps and its return
from one (14 R276, R277, R280, R407).
-/
namespace Sys2Proof.Machine

/-- The outcome of a step. -/
abbrev Out1 := Host.Outcome State Fault Refusal

/-! ## Settling -/

/-- What a meaning works from: state, group, block, node, instruction and executing lanes. -/
structure Env where
  s : State
  g : Group
  r : BlockRun
  n : Node
  i : Instr
  exec : List Nat
deriving DecidableEq, Repr

/-- What an instruction that fires does: the state after its reads, its result, flags, what it holds for commit,
the addresses it translated, and whether it is nullified although it fired (08 R177). -/
structure Fired where
  s : State
  res : Token := .void
  fl : FpFlags := {}
  eff : Effect := .none
  exit : Option Exit := none
  wr : Option WriteReq := none
  popped : Option Nat := none
  pages : List Nat := []
  leased : Bool := false
  null : Bool := false
deriving DecidableEq, Repr

/-- What comes of firing: it fires, waits (07 R147), waits in order for bytes that are leased (11 R227), faults (07 R158) or meets a Touch page (14 R267). -/
inductive Fire where
  | ok (f : Fired)
  | wait
  | queue (pa n : Nat) (pt : Option Nat)
  | fault (cause va : Nat) (acc : Access)
  | touch (va : Nat) (acc : Access)
deriving DecidableEq, Repr

/-- The token of a slot. -/
def Env.tok (e : Env) (sl : Slot) : Token := (e.n.slot sl).getD .void
/-- The S token of a slot. -/
def Env.word (e : Env) (sl : Slot) : Word := (e.tok sl).word
/-- A literal. -/
def Env.lit (e : Env) (k : BitVec 4) : Word := e.r.lits.getD k.toNat 0
/-- The count of active lanes. -/
def Env.active (e : Env) : Nat := e.g.shape.lanes
/-- The place of the group. -/
def Env.p (e : Env) : Place := e.g.place
/-- The die of the group. -/
def Env.die (e : Env) : Nat := e.g.place.die
/-- The LSID of the instruction. -/
def Env.lsid (e : Env) : Nat := (lsidOf e.i).getD 0
/-- The firing's result without an effect. -/
def Env.done (e : Env) (t : Token) : Fire := .ok { s := e.s, res := t }
/-- The firing of an instruction that delivers nothing and holds an effect. -/
def Env.hold (e : Env) (eff : Effect) : Fire := .ok { s := e.s, eff := eff }

/-- The data tokens of a node, by the slots its instruction consumes. -/
def dataTokens (i : Instr) (n : Node) : List Token :=
  ((List.range (needsOf i).length).map slotAt).map fun sl => (n.slot sl).getD .void

/-- The LSID of a node. -/
def Node.lsid (n : Node) : Nat := (lsidOf n.ins).getD 32

/-- The nodes of a block that hold an LSID below a bound, in LSID order. -/
def BlockRun.below (r : BlockRun) (j : Nat) : List Node :=
  sortBy (fun a b => decide (a.lsid < b.lsid)) (r.nodes.filter fun n => decide (n.lsid < j))

/-- The nodes with a lower LSID. -/
def Env.lower (e : Env) : List Node := e.r.below e.lsid

/-! ## What a block's commit writes to registers (04 R89, 12 R253, 03 R72) -/

/-- Writes the non-void active lanes of a register. -/
def writeLanes {α : Type} (n : Nat) (old : Lanes α) (new : Lanes (Option α)) : Lanes α :=
  laneFn fun l => match laneGet new l with
    | some x => if l < n then x else laneGet old l
    | none => laneGet old l

/-- Applies one WRITE. -/
def Group.write (g : Group) (w : WriteReq) : Group :=
  let n := g.shape.lanes
  match w.reg, w.tok with
  | .x r, .s v => if r = 0 then g else { g with x := g.x.set r.toNat v }
  | .v r, .v t => { g with v := updAt g.v r.toNat fun o => writeLanes n o t }
  | .p r, .p t => { g with p := updAt g.p r.toNat fun o => writeLanes n o t }
  | .k r, .k t => { g with k := updAt g.k r.toNat fun o => writeLanes n o t }
  | _, _ => g

/-- Applies one SWR. -/
def Group.swr (g : Group) (r : SwReg) (v : Word) : Group :=
  let v := swrValue r v
  match r with
  | .fpflags => { g with fpflags := v }
  | .fptrap => { g with fptrap := v }
  | .seed => { g with seed := v }

/-- The nodes of a block that fired. -/
def BlockRun.fired (r : BlockRun) : List Node := r.nodes.filter fun n => decide (n.st = .fired)

/-- The fired instructions that hold an LSID, in LSID order. -/
def BlockRun.effects (r : BlockRun) : List Node := (r.below 32).filter fun n => decide (n.st = .fired)

/-- WRITEs in increasing index, SWRs in LSID order, then the flags. -/
def Group.commitRegs (g : Group) (r : BlockRun) : Group :=
  let g := (r.fired.filterMap fun n => n.wr).foldl Group.write g
  let g := r.effects.foldl (fun g n => match n.eff with
    | .swr x v => g.swr x v
    | _ => g) g
  { g with fpflags := orFlags g.fpflags r.flags }

/-! ## Whose turn it is -/

/-- The node of a block's current index. -/
def BlockRun.now (r : BlockRun) : Option Node := r.nodes[r.cur]?

/-- A group as a block started ahead finds it: with what the older block's resolved WRITEs and the flags will be after its
commit (07 R153). Log 116 (DEDUCED). -/
def Group.overlay (g : Group) : Group :=
  match g.run with
  | some r => { g.commitRegs r with count := g.count + 1 }
  | none => g

/-- The group, block and node whose turn it is. -/
def State.turnNode (s : State) : Option (Group × BlockRun × Node) :=
  match s.turn with
  | .group p =>
    match s.group? p with
    | some g =>
      match g.run with
      | some r =>
        match r.nodes[r.cur]? with
        | some n => some (g, r, n)
        | none => none
      | none => none
    | none => none
  | .ahead p =>
    match s.group? p with
    | some g =>
      match g.ahead with
      | some r => r.now.map fun n => (g.overlay, r, n)
      | none => none
    | none => none
  | _ => none

/-- Changes the running block of a group. -/
def State.setRun (s : State) (p : Place) (f : BlockRun → BlockRun) : State :=
  s.setGroup p fun g => { g with run := g.run.map f }

/-- Changes the block whose turn it is, with the group's active lanes: the one started ahead in its turn (07 R153). -/
def State.setBlock (s : State) (p : Place) (f : Nat → BlockRun → BlockRun) : State :=
  s.setGroup p fun g =>
    if s.turn = .ahead p then { g with ahead := g.ahead.map (f g.shape.lanes) } else { g with run := g.run.map (f g.shape.lanes) }

/-- A wait mark is cleared when another instruction of the block resolves. -/
def Node.wake (n : Node) : Node := { n with st := if n.st = .waiting then .pending else n.st }

/-- A node whose consumed slots are full and which resolves void: its guard or one of its data tokens says so (07 R145). -/
def Node.voids (lanes : Nat) (n : Node) : Bool :=
  decide (n.st = .pending) && n.ready &&
    ((guardLanes lanes (ctlOf n.ins).guard n.g).isNone || (dataTokens n.ins n).any (Token.voidAll lanes))

/-- Resolves void, one after another, the nodes that do: at once, and without a grant (07 R155). -/
def voidClosure (lanes : Nat) : Nat → List Node → List Node
  | 0, ns => ns
  | k + 1, ns =>
    match (List.range ns.length).zip ns |>.find? fun x => x.2.voids lanes with
    | some (j, n) => voidClosure lanes k (deliverAll n.ins .void (updAt ns j fun n => { n with st := .nulled }))
    | none => ns

/-- Resolves the current node: its result is delivered to its targets, and what then is void resolves with it (07 R155). -/
def BlockRun.resolve (r : BlockRun) (lanes : Nat) (i : Instr) (res : Token) (f : Node → Node) : BlockRun :=
  { r with nodes := voidClosure lanes r.nodes.length ((deliverAll i res (updAt r.nodes r.cur f)).map Node.wake) }

/-- `resolve_void` (07 R145). -/
def State.resolveVoid (s : State) (p : Place) (i : Instr) : State :=
  s.setBlock p fun k r => r.resolve k i .void fun n => { n with st := .nulled }

/-- What a fired node remembers. -/
def Node.after (n : Node) (f : Fired) : Node :=
  { n with
    st := if f.null then .nulled else .fired
    fl := f.fl, eff := f.eff, exit := f.exit, wr := f.wr, popped := f.popped, leased := f.leased }

/-- Resolution of an instruction that fired (07 R146). -/
def State.resolveFired (p : Place) (i : Instr) (f : Fired) : State :=
  f.s.setBlock p fun k r => { (r.resolve k i f.res fun n => n.after f) with pages := f.pages ++ r.pages }

/-- What waited is tried again, before what has come since (17 R319). Log 60 (DEDUCED). -/
def State.release (s : State) : State := { s with agenda := s.later ++ s.agenda, later := [] }

/-- A lease is given up (11 R227). -/
def Node.dropLease (n : Node) : Node := if n.leased then { n with leased := false, dropped := true } else n

/-- An instruction waits; a block on its first run drops its leases (11 R227). -/
def State.resolveWait (s : State) (p : Place) (first : Bool) : State :=
  (s.setBlock p fun _ r =>
    { r with
      nodes := (updAt r.nodes r.cur fun n => { n with st := .waiting }).map fun n =>
        if first then n.dropLease else n }).release

/-- An AMO whose bytes are leased waits, and keeps the place at which it came (11 R227). -/
def State.resolveQueue (s : State) (p : Place) (first : Bool) (pa n : Nat) (pt : Option Nat) : State :=
  (s.setBlock p fun _ r =>
    { r with nodes := updAt r.nodes r.cur fun x => { x with asks := some (x.asks.getD ⟨s.fresh, pa, n, pt⟩) } }).resolveWait p first

/-- A settled instruction is marked faulted or touching (07 R158). -/
def State.resolveFault (s : State) (p : Place) (st : Status) : State :=
  s.setBlock p fun _ r => { r with nodes := updAt r.nodes r.cur fun n => { n with st := st } }

/-- `settle(i)` (07 R145). Log 110 (DEDUCED). -/
def settle (i : Instr) (s : State) (f : Env → Fire) : Out1 :=
  match s.turnNode with
  | none => .fault .noBlock
  | some (g, r, n) =>
    match guardLanes g.shape.lanes (ctlOf i).guard n.g with
    | none => .next (s.resolveVoid g.place i)
    | some ls =>
      if (dataTokens i n).any (Token.voidAll g.shape.lanes) then .next (s.resolveVoid g.place i)
      else match f ⟨s, g, r, n, i, ls⟩ with
        | .ok x => .next (State.resolveFired g.place i x)
        | .wait => .next (s.resolveWait g.place (decide (g.fails = 0)))
        | .queue pa k pt => .next (s.resolveQueue g.place (decide (g.fails = 0)) pa k pt)
        | .fault c va acc => .next (s.resolveFault g.place (.faulted ⟨c, va, acc⟩))
        | .touch va acc => .next (s.resolveFault g.place (.touched va acc))

/-! ## Addresses -/

/-- The windows of a group that an access may name: in a relay hold those below its successor's count too (18 R333). -/
def Group.reach (g : Group) : Nat :=
  match g.phase with
  | .relayHold _ kd _ | .parked (.hold _ kd _) _ => if kd.shape.windows < g.shape.windows then kd.shape.windows else g.shape.windows
  | _ => g.shape.windows

/-- `saddr` (08 R161) with the alignment and extent of the access; `peer` says that a gang peer may be named. Log 25 (DEDUCED); 133 (DEDUCED). -/
def State.saddr (s : State) (g : Group) (peer : Bool) (tok : Word) (off : BitVec 24) (n align : Nat) : Except Nat ScrAt :=
  let m := bitsN tok 28 4
  let o := truncI ((bitsN tok 0 28 : Nat) + sextN off.toNat 24) 28
  if bitsN tok 32 32 ≠ 0 ∨ g.gang.length ≤ m ∨ 2 ^ 19 ≤ o ∨ (m ≠ 0 ∧ peer = false) then .error 0x090
  else
    let rank := (g.rank + m) % g.gang.length
    match s.memberAt g rank with
    | none => .error 0x090
    | some mem =>
      let w := o / 65536
      let b := o % 65536
      if mem.reach ≤ w then .error 0x090
      else if b % align ≠ 0 then .error 0x091
      else if 65536 < b + n then .error 0x092
      else .ok ⟨rank, w, b⟩

/-- Goes on with a scratch address, or faults with the token as the address. Log 25 (DEDUCED). -/
def Env.scr (e : Env) (peer : Bool) (tok : Word) (off : BitVec 24) (n align : Nat) (k : ScrAt → Fire) : Fire :=
  match e.s.saddr e.g peer tok off n align with
  | .error c => .fault c tok.toNat .none
  | .ok a => k a

/-- The address of `gaddr` (12 R236) before its checks. -/
def gaddrSum (tok : Word) (off : BitVec 24) : Nat := truncI ((tok.toNat : Int) + sextN off.toNat 24) 64

/-- The cause of `gaddr`'s checks (12 R236). Log 26 (DEDUCED). -/
def gaddrCause (a n : Nat) : Option Nat :=
  if 2 ^ 56 ≤ a then some 0x080 else if a % n ≠ 0 then some 0x081 else none

/-- Checks and translates a global address of the group and goes on with its physical address. -/
def Env.glob (e : Env) (a n : Nat) (acc : Access) (k : Nat → Fire) : Fire :=
  match gaddrCause a n with
  | some c => .fault c a acc
  | none =>
    match e.s.translate e.g.ctx a acc with
    | .ok pa => k pa
    | .fault c => .fault c a acc
    | .touch => .touch a acc

/-! ## Stores of the block that a load sees (07 R148) -/

/-- Bytes with their addresses. -/
def bytesAt (a : Nat) (bs : List Byte) : List (Nat × Byte) := ((List.range bs.length).map (a + ·)).zip bs

/-- The physical bytes an effect will write. -/
def Effect.phys : Effect → List (Nat × Byte)
  | .stores l _ => l.flatMap fun q => bytesAt q.pa q.bytes
  | .amo _ pa _ new _ _ => new.toList.flatMap (bytesAt pa)
  | .semit _ _ mem => mem.flatMap fun q => bytesAt q.pa q.bytes
  | _ => []

/-- Bytes of a scratch range that an access covers, as pairs of place and byte. -/
def scrBytes (a : ScrAt) (bs : List Byte) : List (ScrAt × Byte) :=
  ((List.range bs.length).map fun i => { a with off := a.off + i }).zip bs

/-- The scratch bytes an effect will write. -/
def Effect.scr : Effect → List (ScrAt × Byte)
  | .scratch l => l.flatMap fun q => scrBytes q.1 q.2
  | .qpush _ _ a bs => scrBytes a bs
  | _ => []

/-- The last byte written to an address. -/
def lastAt {α : Type} [DecidableEq α] (a : α) (b : Option Byte) : List (α × Byte) → Option Byte
  | [] => b
  | w :: ws => lastAt a (if w.1 = a then some w.2 else b) ws

/-- The physical bytes a group's buffered stores will write. -/
def Group.sbPhys (g : Group) : List (Nat × Byte) :=
  g.sb.flatMap fun x => match x.dest with
    | .phys pa => bytesAt pa x.bytes
    | .peer _ => []

/-- The scratch bytes a group's buffered stores will write at peers. -/
def Group.sbScr (g : Group) : List (ScrAt × Byte) :=
  g.sb.flatMap fun x => match x.dest with
    | .phys _ => []
    | .peer a => scrBytes a x.bytes

/-- What a load's bytes may come from before memory: own buffered stores, then lower-LSID stores that fired. -/
def Env.ownPhys (e : Env) : List (Nat × Byte) := e.g.sbPhys ++ e.lower.flatMap fun n => n.eff.phys
/-- As `ownPhys` for scratch. Log 29 (DEDUCED). -/
def Env.ownScr (e : Env) : List (ScrAt × Byte) := e.g.sbScr ++ e.lower.flatMap fun n => n.eff.scr

/-- Every lower-LSID store and load has resolved (07 R148). -/
def Env.loadReady (e : Env) : Bool := e.lower.all fun n => n.resolved || !(isStore n.ins || isLoad n.ins)

/-- The bytes of a physical range as the group reads them at its die or at the home (11 R218), and the place of the
first that a poisoned granule gives. -/
def Env.readPhys (e : Env) (s : State) (home : Bool) (pa n : Nat) : List Byte × Option Nat :=
  let own := e.ownPhys
  let pt := if home then none else some e.die
  let bs := ((List.range n).map (pa + ·)).zip (s.readAt pt pa n)
  (bs.map fun b => (lastAt b.1 none own).getD b.2,
   bs.findIdx? fun b => (lastAt b.1 none own).isNone && s.badAt pt (b.1 / 64))

/-- The bytes of a scratch range as the group reads them, and the place of the first that a poisoned granule gives. Log 29 (DEDUCED). -/
def Env.readScr (e : Env) (a : ScrAt) (n : Nat) : List Byte × Option Nat :=
  let own := e.ownScr
  let w := e.s.scrWindow e.g a
  let bs := ((List.range n).map fun i => { a with off := a.off + i }).zip (w.cells.read a.off n)
  (bs.map fun b => (lastAt b.1 none own).getD b.2,
   bs.findIdx? fun b => (lastAt b.1 none own).isNone && w.poison.contains (b.1.off / 64))

/-- A scratch byte's address as a token of the group names it. -/
def Group.scrToken (g : Group) (a : ScrAt) : Nat :=
  let size := g.gang.length
  ((a.rank + size - g.rank) % size) * 2 ^ 28 + a.win * 65536 + a.off

/-- Reads scratch as a load of the block: waits for its turn and goes on with the bytes. -/
def Env.scrLoad (e : Env) (a : ScrAt) (n : Nat) (k : List Byte → Fire) : Fire :=
  if !e.loadReady then .wait
  else
    match e.readScr a n with
    | (_, some i) => .fault 0x08C (e.g.scrToken { a with off := (a.off + i) / 64 * 64 }) .load
    | (bs, none) => k bs

/-- The fault of a scratch operand. Log 25 (DEDUCED). -/
def scrFail (r : Except Nat ScrAt) (tok : Word) : List RFault :=
  match r with
  | .error c => [⟨c, tok.toNat, .none⟩]
  | .ok _ => []

/-- The address of a scratch operand that has no fault. -/
def scrOk (r : Except Nat ScrAt) : ScrAt :=
  match r with
  | .error _ => ⟨0, 0, 0⟩
  | .ok a => a

/-- The fault of a condition that must hold. -/
def failIf (b : Bool) (c va : Nat) : List RFault := if b then [⟨c, va, .none⟩] else []

/-- The faults of an engine's global operand (08 R168, R172, R179): aligned, with a zero top byte. -/
def engineAddr (tok : Word) (n : Nat) : List RFault :=
  failIf (decide (2 ^ 56 ≤ tok.toNat) || decide (tok.toNat % n ≠ 0)) 0x0C9 tok.toNat

/-- Goes on when no check fails; else the first of the list, which is in the order in which the instruction's description
lists its checks (07 R158). Log 26 (DEDUCED). -/
def checked (l : List RFault) (k : Fire) : Fire :=
  match l with
  | f :: _ => .fault f.cause f.va f.acc
  | [] => k

/-- Some lower-LSID instruction of a kind has not resolved. Log 31 (DEDUCED). -/
def Env.pendingLower (e : Env) (f : Instr → Bool) : Bool := e.lower.any fun n => f n.ins && !n.resolved

/-! ## Leases (11 R226, R227) -/

/-- Where a write or AMO of a die is performed: at a die's copy, or none for the home (10 R208), which is also where a line
is reached that the die has no room for a copy of. Log 32 (DEDUCED); 114 (DESIGN CHOICE). -/
def State.point (s : State) (die pa : Nat) (home : Bool) : Option Nat :=
  if home || s.homeDie pa == some die || ((s.fline? die (pa / 128)).isNone && s.full die) then none else some die

/-- A lease: its holder, bytes and point. -/
structure Lease where
  who : Place
  pa : Nat
  n : Nat
  pt : Option Nat
deriving DecidableEq, Repr

/-- The leases held by the running blocks. -/
def State.leases (s : State) : List Lease :=
  s.groups.flatMap fun g => match g.run with
    | none => []
    | some r => r.nodes.filterMap fun n =>
      if n.leased then
        match n.eff with
        | .amo _ pa old _ sc _ => some ⟨g.place, pa, old.length, s.point g.place.die pa (wide sc)⟩
        | _ => none
      else none

/-- Another party's lease covers bytes that are accessed at a point; of a group of the die itself, whichever point it holds
them at. Log 32 (DEDUCED). -/
def State.leaseHit (s : State) (me : Option Place) (pt : Option Nat) (pa n : Nat) : Bool :=
  s.leases.any fun l => some l.who != me && (l.pt == pt || pt == some l.who.die) && decide (l.pa < pa + n) && decide (pa < l.pa + l.n)

/-- An access of a die at a point meets another party's lease there or at the die. Log 32 (DEDUCED). -/
def State.leaseMeets (s : State) (me : Option Place) (die : Nat) (pt : Option Nat) (pa n : Nat) : Bool :=
  s.leaseHit me pt pa n || s.leaseHit me (some die) pa n

/-- A write-back of a die's dirty lines would meet another party's lease at a home. Log 72 (DEDUCED). -/
def State.backBlocked (s : State) (me : Option Place) (die : Nat) : Bool :=
  s.foreign.any fun f => f.die == die && (dirtyBytes f).any fun b => s.leaseHit me none b.1 1

/-! ## The store buffer (11 R218, R222) -/

/-- The eviction of a die's copies of the lines of a range would meet another party's lease at a home. Log 32 (DEDUCED). -/
def State.linesBlocked (s : State) (me : Option Place) (die pa n : Nat) : Bool :=
  s.foreign.any fun f => f.die == die && (linesOf pa n).contains f.line && (dirtyBytes f).any fun b => s.leaseHit me none b.1 1

/-- Drops a die's foreign copies of the lines of a range after their write-back. -/
def State.dropLines (s : State) (die pa n : Nat) : State :=
  let ls := linesOf pa n
  { s with foreign := s.foreign.filter fun f => !(f.die == die && ls.contains f.line) }

/-- A write of a release or AMO wider than .die: write-backs first, then at the home (11 R222). Log 72 (DEDUCED). -/
def State.homeRelease (s : State) (die pa : Nat) (bs : List Byte) : State :=
  (((s.writeBack die).homeWrite pa bs)).dropLines die pa bs.length

/-- The head of a group's store buffer may be performed. Log 130 (DEDUCED). -/
def State.storeReady (s : State) (g : Group) (x : SbEntry) : Bool :=
  let h := (x.rel.map wide).getD false
  match x.dest with
  | .peer _ => !(h && s.backBlocked (some g.place) g.place.die)
  | .phys pa =>
    !(s.leaseMeets (some g.place) g.place.die (s.point g.place.die pa h) pa x.bytes.length) &&
      !(h && s.backBlocked (some g.place) g.place.die)

/-- Performs one store of a group (11 R218, R222). Log 130 (DEDUCED). -/
def State.doStore (s : State) (g : Group) (x : SbEntry) : State :=
  let h := (x.rel.map wide).getD false
  match x.dest with
  | .peer a => (if h then s.writeBack g.place.die else s).scrWrite g a x.bytes
  | .phys pa => if h then s.homeRelease g.place.die pa x.bytes else s.dieWrite g.place.die pa x.bytes

/-- Performs the head of a group's store buffer, if it may be. Log 109 (DEDUCED). -/
def State.performStore (s : State) (p : Place) : Option State :=
  match s.group? p with
  | none => none
  | some g =>
    match g.sb with
    | [] => none
    | x :: rest => if s.storeReady g x then some ((s.doStore g x).setGroup p fun g => { g with sb := rest }) else none

/-- Performs up to `n` stores of a group's buffer. -/
def State.drain (p : Place) : Nat → State → State
  | 0, s => s
  | n + 1, s =>
    match s.performStore p with
    | some s' => State.drain p n s'
    | none => s

/-- Performs every store of a group's buffer that may be performed. Log 33 (DEDUCED). -/
def State.drainSb (s : State) (p : Place) : State :=
  match s.group? p with
  | some g => State.drain p g.sb.length s
  | none => s

/-- The stores of a group that have been performed. -/
def Group.performed (g : Group) : Nat := g.entered - g.sb.length

/-- Of the scopes of two releases of one store, the wider: one wider than .die covers the other kind (11 R222). Log 130 (DEDUCED). -/
def widerRel (a b : Option Scope) : Option Scope :=
  match a, b with
  | some x, some y => if wide y then some y else some x
  | some x, none => some x
  | none, y => y

/-- Puts a store into a group's buffer; after FENCE.rel it is a release of the fence's scope too (11 R222). Log 130 (DEDUCED). -/
def State.enter (s : State) (p : Place) (d : Dest) (va : Nat) (bs : List Byte) (rel : Option Scope) : State :=
  s.setGroup p fun g =>
    { g with sb := g.sb ++ [⟨d, bs, va, widerRel rel g.relFence⟩], entered := g.entered + 1 }

/-! ## Places -/

/-- An M-tile (00 R5). -/
def isMTile (tile : Nat) : Bool := decide (tile < 40)
/-- `sr.tile` of a tile (12 R254). -/
def State.tileReg (s : State) (die tile : Nat) : Nat :=
  die * 64 + tile + s.pkgNum * 256 + (if isMTile tile then 0 else 2 ^ 18)
/-- Generation of a context's slot. -/
def State.genOf (s : State) (c : Nat) : Nat := s.gens.getD c 0
/-- A group of a context's place word (14 R277). -/
def State.placeWord (s : State) (g : Group) : Word :=
  wordN (s.tileReg g.place.die g.place.tile + g.place.slot * 2 ^ 19 + g.rank * 2 ^ 21 + g.ctx * 2 ^ 25)

/-! ## Traps (14 R276, R277, R407) -/

/-- What a trap names: cause, index, LSID, block, address, access and underlying cause. -/
structure Trap where
  cause : Nat
  idx : Nat := 0x3F
  lsid : Option Nat := none
  blk : Word := 0
  va : Nat := 0
  acc : Access := .none
  under : Nat := 0
deriving DecidableEq, Repr

/-- The access codes (14 R277). -/
def accCode : Access → Nat
  | .none => 0 | .load => 1 | .store => 2 | .atomic => 3 | .fetch => 4 | .engineRead => 5 | .engineWrite => 6
  | .pageCommand => 7

/-- Exit kind of a resume (14 R277). -/
def Resume.kind : Resume → Nat
  | .rerun _ => 0
  | .goOn _ => 1
  | .pend (.br _) _ _ => 1
  | .pend (.call _ _) _ _ => 2
  | .pend .ret _ _ => 3
  | .pend .endg _ _ => 4
  | .pend (.relay sig _ _ _) _ _ => if sig then 6 else 5
  | .pend (.trap _ _) _ _ => 7
  | .hold _ _ _ => 1
  | .ended => 0

/-- Resume address (14 R277). -/
def Resume.addr : Resume → Word
  | .rerun a => a
  | .goOn a => a
  | .pend (.br a) _ _ => a
  | .pend (.call a _) _ _ => a
  | .pend (.trap _ a) _ _ => a
  | .pend _ _ _ => 0
  | .hold _ kd _ => kd.entry
  | .ended => 0

/-- The Detail that a pending TRAP gives (14 R277). -/
def Resume.detail : Resume → Nat
  | .pend (.trap n _) _ _ => 0x1C0 + n
  | _ => 0

/-- A cause of class 2 or 3. -/
def hasAddr (c : Nat) : Bool := c / 64 = 2 || c / 64 = 3

/-- The cause word (14 R277). Log 137 (DEDUCED). -/
def causeWord (t : Trap) (kind detail : Nat) (ended : Bool) : Word :=
  wordN (t.cause + t.idx * 2 ^ 16 + (match t.lsid with
      | some j => j * 2 ^ 24 + 2 ^ 29
      | none => 0) +
    (if t.under ≠ 0 then t.under else detail) * 2 ^ 32 + accCode t.acc * 2 ^ 48 + (if ended then 2 ^ 51 else 0) + kind * 2 ^ 52)

/-- The eight words of a trap record but for its record number (14 R277). -/
def State.trapWords (s : State) (g : Group) (t : Trap) (rs : Resume) : List Word :=
  [t.blk, if hasAddr t.cause then wordN t.va else 0, g.task, causeWord t rs.kind rs.detail (rs = .ended), s.placeWord g,
   rs.addr, g.count, wordN (s.genOf g.ctx + (if g.handler then 2 ^ 32 else 0))]

/-- A group traps: it parks, `sr.cause` and `sr.faultva` are written, and the dispatcher receives its record
(14 R276; 12 R254). -/
def State.takeTrap (s : State) (p : Place) (t : Trap) (rs : Resume) : State :=
  match s.group? p with
  | none => s
  | some g =>
    (((s.unask g).setCtx g.ctx fun c => { c with held := c.held ++ [⟨s.trapWords g t rs, some p, g.handler⟩] }).setGroup p fun g =>
      { g with
        phase := .parked rs false, run := none, ahead := none, grace := false, fails := 0
        cause := wordN (t.cause + t.idx * 2 ^ 16)
        faultva := if hasAddr t.cause then wordN t.va else 0 }).release

/-- A record that parks no group (14 R408). Log 147 (DESIGN CHOICE). -/
def State.looseRecord (s : State) (c : Nat) (t : Trap) (task : Word) : State :=
  s.setCtx c fun cx => { cx with held := cx.held ++
    [⟨[t.blk, if hasAddr t.cause || t.cause = 0x10C then wordN t.va else 0, task, causeWord t 0 0 false, wordN (c * 2 ^ 25), 0, 0, wordN (s.genOf c)], none, false⟩] }

/-- A stop that has been reported and whose record is not still to come goes on at GRESUME (08 R164). -/
def Stop.cleared (g : Group) (t : Tag) (x : Option Stop) : Option Stop :=
  match x with
  | some y =>
    if y.told && !(g.reports.any fun r => r.blk == t.blk && r.lsid == t.lsid) then none else some y
  | none => none

/-- An element whose READ faults is fetched again after the trap (08 R190, 14 R272). -/
def SElem.isFault : SElem → Bool
  | .fault _ _ => true
  | .data _ p => p.isSome

/-- A stream without its elements from the first that could not be fetched. -/
def Stream.unfault (st : Stream) : Stream :=
  match st.src with
  | .mem _ _ _ =>
    if st.out then st
    else
      let buf := st.buf.takeWhile fun e => !e.isFault
      { st with buf := buf, fetched := st.moved + buf.length, part := [] }
  | _ => st

/-- GRESUME's effect on a parked group, by the exit kind of its record (14 R280); its stopped command goes on, one of
the matrix engine from its start (08 R164). -/
def Group.resume (g : Group) : Group :=
  match g.phase with
  | .parked rs true =>
    let mq := g.mq.map fun c =>
      { c with
        stop := Stop.cleared g c.tag c.stop, started := c.started && c.stop.isNone
        ways := if c.stop.isNone then c.ways else [] }
    let cq := g.cq.map fun c => { c with stop := Stop.cleared g c.tag c.stop }
    let prep := g.prep.map fun q => { q with stop := Stop.cleared g q.tag q.stop }
    let ph : Phase × Word := match rs with
      | .rerun a => (.running, a)
      | .goOn a => (.running, a)
      | .pend e blk idx => (.exiting e blk idx, g.next)
      | .hold mask kd blk => (.relayHold mask kd blk, g.next)
      | .ended => (.ended, g.next)
    { g with mq := mq, cq := cq, prep := prep, phase := ph.1, next := ph.2, s := g.s.map fun st => st.map Stream.unfault }
  | _ => g

/-- A block is discarded (07 R151): its tokens, holds and leases are gone, those at other packages too (15 R286). -/
def State.discard (s : State) (p : Place) : State :=
  (((s.group? p).elim s s.unask).setGroup p fun g => { g with run := none, ahead := none, grace := false }).release

/-! ## Engine-fault reports (08 R164) -/

/-- The trap of a report. -/
def Report.trap (r : Report) : Trap := ⟨r.cause, r.idx, if r.lsid < 32 then some r.lsid else none, r.blk, r.va, r.acc, r.under⟩

/-- Adds a report of a command's cause to its group. Log 39 (DEDUCED). -/
def State.report (s : State) (p : Place) (t : Tag) (x : Stop) : State :=
  s.setGroup p fun g => { g with reports := g.reports ++ [⟨x.cause, x.under, x.va, x.acc, t.blk, t.idx, t.lsid⟩] }

/-- The tag of a command of the instruction being settled; its place and store count are set at commit. -/
def Env.tag (e : Env) : Tag :=
  ⟨0, e.r.addr, e.r.cur, e.lsid, e.n.word, e.word .l, e.word .r, e.word .t, 0⟩

/-- A group's block has something to do: a consumed slot full and not settled. -/
def Node.fireable (n : Node) : Bool := decide (n.st = .pending) && n.ready

/-- A group is waiting (07 R147). -/
def BlockRun.isWaiting (r : BlockRun) : Bool :=
  !(r.nodes.any Node.fireable) && r.nodes.any fun n => decide (n.st = .waiting)

end Sys2Proof.Machine
end

