-- ==== Sys2Proof/Machine/Block.lean ====
section
/-!
DEFINITION. Machine/Block.lean: the block and data-movement instructions (04 R86 to R93).
-/
namespace Sys2Proof.Machine

/-- A register of a file; an index outside it reads zero. -/
def regAt {α : Type} (l : List α) (n : Nat) (zero : α) : α := l.getD n zero

/-- The lanes of a v, p or k register in the executing lanes. -/
def regLanes {α : Type} (ls : List Nat) (x : Lanes α) : Lanes (Option α) :=
  laneFn fun l => if ls.contains l then some (laneGet x l) else none

/-- A stream element as a token (08 R189): 8 bytes, or 128 bytes for each lane bound. -/
def elemToken (vec : Bool) (lanes : Nat) (ls : List Nat) (bs : List Byte) : Token :=
  if vec then
    .v (laneFn fun l =>
      if ls.contains l && decide (l < lanes) then some (BitVec.ofNat 1024 (ofBytes ((bs.drop (128 * l)).take 128))) else none)
  else .s (wordN (ofBytes (bs.take 8)))

/-- The elements a stream holds and whether none is to follow: a task edge's lie in the edge's buffer (17 R315). An output
holds none: a memory output is exhausted when its count is used, a task edge's at once. Log 117 (DESIGN CHOICE). -/
def Group.streamBuf (g : Group) (st : Stream) : List SElem × Bool :=
  match st.src with
  | .edge b =>
    match g.edges.find? fun x => x.bind == b with
    | some x => (x.buf, x.ended)
    | none => ([], true)
  | .mem _ _ n => (st.buf, decide (n ≤ st.moved))
  | .rein _ _ _ => (st.buf, st.ended)

/-- READ of a stream register (04 R88; 08 R190): the head element, void at the end, or a wait. A task edge's element
is an acquire (11 R230): the die's foreign lines are dropped. -/
def Env.readStream (e : Env) (n : Nat) : Fire :=
  match e.g.s.getD n none with
  | none => e.done .void
  | some st =>
    match e.g.streamBuf st with
    | ([], true) => e.done .void
    | ([], false) => .wait
    | (.fault c va :: _, _) => .fault c va .load
    | (.data _ (some gr) :: _, _) => .fault 0x08C gr .load
    | (.data bs none :: _, _) =>
      let t := elemToken st.vec st.lanes e.exec bs
      match st.src with
      | .edge _ =>
        if e.s.backBlocked (some e.p) e.die then .wait
        else .ok { s := e.s.dropForeign e.die, res := t, popped := some n }
      | _ => .ok { s := e.s, res := t, popped := some n }

/-- READ (04 R87, R88). Log 117 (DESIGN CHOICE). -/
def execRead (c : Ctl) (t : ITy) (r : RReg) (s : State) : Out1 :=
  settle (.read c t r) s fun e =>
    match r with
    | .x n => e.done (.s (if n = 0 then 0 else regAt e.g.x n.toNat 0))
    | .v n => e.done (.v (regLanes e.exec (regAt e.g.v n.toNat (laneAll 0))))
    | .p n => e.done (.p (regLanes e.exec (regAt e.g.p n.toNat (laneAll false))))
    | .k n => e.done (.k (regLanes e.exec (regAt e.g.k n.toNat (laneAll 0))))
    | .s n => e.readStream n.toNat

/-- WRITE (04 R89): what it holds for commit. Log 23 (DEDUCED). -/
def execWrite (c : Ctl) (t : ITy) (r : WReg) (s : State) : Out1 :=
  settle (.write c t r) s fun e => .ok { s := e.s, wr := some ⟨r, (e.tok .l).restrict e.exec⟩ }

/-- MOV (04 R90). -/
def execMov (c : Ctl) (t : ITy) (s : State) : Out1 :=
  settle (.mov c t) s fun e => e.done ((e.tok .l).restrict e.exec)

/-- FAN (04 R90). -/
def execFan (t : ITy) (t0 t1 t2 t3 : Tgt) (s : State) : Out1 :=
  settle (.fan t t0 t1 t2 t3) s fun e => e.done (e.tok .l)

/-- MOVI (04 R91). -/
def execMovi (c : Ctl) (t : ITy) (imm : BitVec 32) (s : State) : Out1 :=
  settle (.movi c t imm) s fun e => e.done (.s (aluMovi t imm))

/-- MOVL (04 R91). -/
def execMovl (c : Ctl) (t : ITy) (lit : BitVec 4) (s : State) : Out1 :=
  settle (.movl c t lit) s fun e => e.done (.s (e.lit lit))

/-- VOID (04 R92). -/
def execVoid (t : ITy) (t0 t1 : Tgt) (s : State) : Out1 :=
  settle (.void t t0 t1) s fun e => e.done .void

/-- SEL (04 R93). -/
def execSel (c : Ctl) (t : ITy) (s : State) : Out1 :=
  settle (.sel c t) s fun e => e.done (aluSel e.active e.exec (e.tok .l) (e.tok .r) (e.tok .t))

end Sys2Proof.Machine
end

