-- ==== Sys2Proof/Machine/Scratch.lean ====
section
/-!
DEFINITION. Machine/Scratch.lean: scratch loads and stores (08 R193) and the barrier instructions (08 R184 to R188).
-/
namespace Sys2Proof.Machine

/-- A V token of 128 bytes for each executing lane. -/
def vBytes (ls : List Nat) (bs : List Byte) : Token :=
  .v (laneFn fun l => if ls.contains l then some (BitVec.ofNat 1024 (ofBytes ((bs.drop (128 * l)).take 128))) else none)

/-- The 128 bytes of a lane. -/
def laneBytes (x : LaneBits) : List Byte := bytesOf x.toNat 128

/-- Bytes of an integer type. -/
def iBytes (t : ITy) : Nat := iWidth t / 8

/-- LDS (08 R193). -/
def execLds (c : Ctl) (t : ITy) (lsid : BitVec 5) (vec : Bool) (off : BitVec 24) (s : State) : Out1 :=
  settle (.lds c t lsid vec off) s fun e =>
    if vec then
      e.scr true (e.word .l) off (128 * e.active) 128 fun a =>
        e.scrLoad a (128 * e.active) fun bs => e.done (vBytes e.exec bs)
    else
      e.scr true (e.word .l) off (iBytes t) (iBytes t) fun a =>
        e.scrLoad a (iBytes t) fun bs => e.done (.s (extT t (ofBytes bs)))

/-- The lanes that a vector store writes: executing and not void in the data. Log 23 (DEDUCED). -/
def Env.storeLanes (e : Env) (data : Token) : List Nat := e.exec.filter fun l => !data.voidAt l

/-- STS (08 R193). -/
def execSts (c : Ctl) (t : ITy) (lsid : BitVec 5) (vec : Bool) (off : BitVec 24) (s : State) : Out1 :=
  settle (.sts c t lsid vec off) s fun e =>
    if vec then
      e.scr true (e.word .l) off (128 * e.active) 128 fun a =>
        e.hold (.scratch ((e.storeLanes (e.tok .r)).map fun l =>
          ({ a with off := a.off + 128 * l }, laneBytes ((e.tok .r).vLane l))))
    else
      e.scr true (e.word .l) off (iBytes t) (iBytes t) fun a =>
        e.hold (.scratch [(a, bytesOf (e.word .r).toNat (iBytes t))])

/-- The address of a barrier operand (08 R184, R185). Log 29 (DEDUCED). -/
def Env.barAt (e : Env) (off : BitVec 24) (k : ScrAt → Fire) : Fire := e.scr true (e.word .l) off 16 16 k

/-- BINIT (08 R185). -/
def execBinit (c : Ctl) (lsid : BitVec 5) (off : BitVec 24) (s : State) : Out1 :=
  settle (.binit c lsid off) s fun e =>
    e.barAt off fun a =>
      if 65535 < (e.word .r).toNat then .fault 0x0C9 0 .none else e.hold (.binit a (e.word .r).toNat)

/-- BEXPECT (08 R185). -/
def execBexpect (c : Ctl) (lsid : BitVec 5) (off : BitVec 24) (s : State) : Out1 :=
  settle (.bexpect c lsid off) s fun e =>
    e.barAt off fun a =>
      if 2 ^ 35 - 1 < (e.word .r).toNat then .fault 0x0C9 0 .none else e.hold (.bupd a (e.word .r).toNat 0)

/-- BARRIVE (08 R185). -/
def execBarrive (c : Ctl) (lsid : BitVec 5) (off : BitVec 24) (s : State) : Out1 :=
  settle (.barrive c lsid off) s fun e => e.barAt off fun a => e.hold (.bupd a 0 1)

/-- The barrier as a load of the block sees it (07 R148). -/
def Env.barrier (e : Env) (a : ScrAt) : Barrier := barOf (ofBytes (e.readScr a 16).1)

/-- BWAIT (08 R185, R188). -/
def execBwait (c : Ctl) (lsid : BitVec 5) (off : BitVec 24) (s : State) : Out1 :=
  settle (.bwait c lsid off) s fun e =>
    e.barAt off fun a =>
      if !e.loadReady then .wait
      else
        let b := e.barrier a
        if b.error then .fault 0x0C8 0 .none
        else if b.phase = (e.word .r).getLsbD 0 then .wait
        else e.done (.s (wordN b.phase.toNat))

/-- BTEST (08 R185). -/
def execBtest (c : Ctl) (lsid : BitVec 5) (off : BitVec 24) (s : State) : Out1 :=
  settle (.btest c lsid off) s fun e =>
    e.barAt off fun a => if !e.loadReady then .wait else e.done (.s (e.barrier a).test)

end Sys2Proof.Machine
end

