-- ==== Sys2Proof/Machine/Ring.lean ====
section
/-!
DEFINITION. Machine/Ring.lean: rings and their instructions (08 R174 to R178).
-/
namespace Sys2Proof.Machine

/-- Entries of a ring. -/
def Ring.count (r : Ring) : Nat := 2 ^ r.c
/-- The window of a ring. -/
def Ring.win (r : Ring) : Nat := r.base / 65536
/-- Place of a ticket's entry in the ring's window (08 R175). -/
def Ring.at' (r : Ring) (rank t : Nat) : ScrAt := ⟨rank, r.win, r.base % 65536 + t % r.count * r.entry⟩
/-- Difference of two 16-bit counters. -/
def diff16 (a b : Nat) : Nat := (a + 65536 - b % 65536) % 65536
/-- Presence of a ticket's entry: empty where the entry serves an earlier ticket. -/
def Ring.presence (r : Ring) (t : Nat) : Presence :=
  if diff16 t r.rel < r.count then r.pres.getD (t % r.count) .empty else .empty
/-- Tickets are outstanding (08 R176). -/
def Ring.busy (r : Ring) : Bool := decide (r.tail ≠ r.rel) || decide (r.head ≠ r.rel)

/-- Releases consumed entries in ticket order (08 R175). -/
def Ring.releaseN : Nat → Ring → Ring
  | 0, r => r
  | n + 1, r =>
    if r.rel ≠ r.head ∧ r.pres.getD (r.rel % r.count) .empty = .consumed then
      Ring.releaseN n { r with pres := r.pres.set (r.rel % r.count) .empty, rel := (r.rel + 1) % 65536 }
    else r

/-- Consumes a ticket's entry, then releases. -/
def Ring.consume (r : Ring) (t : Nat) : Ring :=
  Ring.releaseN r.count { r with pres := r.pres.set (t % r.count) .consumed }

/-- Sets a ticket's entry. -/
def Ring.mark (r : Ring) (t : Nat) (x : Presence) : Ring := { r with pres := r.pres.set (t % r.count) x }

/-- Changes a ring of a group. -/
def Group.setRing (g : Group) (q : Nat) (f : Ring → Ring) : Group := { g with q := updAt g.q q fun r => r.map f }

/-- The producer tickets that an effect takes on a ring. -/
def Effect.produces (q : Nat) : Effect → Nat
  | .qpush q' _ _ _ => if q' = q then 1 else 0
  | .copy c => match c.dst with
    | .ring q' _ => if q' = q then 1 else 0
    | _ => 0
  | _ => 0

/-- The consumer tickets that an operand takes on a ring. -/
def MOpnd.takes (q : Nat) : MOpnd → Nat
  | .ring q' _ => if q' = q then 1 else 0
  | _ => 0

/-- The consumer tickets that an effect takes on a ring. -/
def Effect.consumes (q : Nat) : Effect → Nat
  | .qpop q' _ => if q' = q then 1 else 0
  | .matrix c => match c.op with
    | .mma _ _ _ _ a b _ => a.takes q + b.takes q
    | _ => 0
  | _ => 0

/-- The ring registers an instruction sets, produces on or consumes from. -/
def ringsOf : Instr → List (BitVec 3)
  | .qinit _ _ q _ _ | .qpush _ _ q | .qpop _ _ q => [q]
  | .mma _ _ o | .mmaG _ _ o | .mmas _ _ o => o.qa.toList ++ o.qb.toList
  | .cpy _ o | .cpyS _ o | .cpy2d _ o | .cpyPeer _ o | .cpyMc _ o | .cpyg _ o => o.ring.toList
  | _ => []

/-- Some lower-LSID instruction on a ring has not resolved (08 R175). Log 143 (DEDUCED). -/
def Env.ringPending (e : Env) (q : BitVec 3) : Bool := e.pendingLower fun i => (ringsOf i).contains q

/-- A ring as lower-LSID QINITs leave it (08 R163). -/
def Env.ring (e : Env) (q : BitVec 3) : Option Ring :=
  e.lower.foldl (fun r n => match n.eff with
    | .qinit q' x => if q' = q.toNat then some x else r
    | _ => r) (e.g.q.getD q.toNat none)

/-- Producer tickets that lower-LSID instructions take. -/
def Env.produced (e : Env) (q : BitVec 3) : Nat := sumN (e.lower.map fun n => n.eff.produces q.toNat)
/-- Consumer tickets that lower-LSID instructions take. -/
def Env.consumed (e : Env) (q : BitVec 3) : Nat := sumN (e.lower.map fun n => n.eff.consumes q.toNat)

/-- The faults of a use of a ring: none initialised, other entry bytes than `n` (when given), or its window released
by a relay (08 R174, 18 R334). -/
def Env.ringFail (e : Env) (q : BitVec 3) (n : Option Nat) : List RFault :=
  match e.ring q with
  | none => [⟨0x0C0, 0, .none⟩]
  | some r =>
    failIf (decide (e.g.shape.windows ≤ r.win)) 0x090 r.base ++
      (match n with
        | some k => failIf (decide (r.entry ≠ k)) 0x0C0 0
        | none => [])

/-- A producer's ticket, or none while no entry is released for it (08 R175). -/
def Env.ticket (e : Env) (q : BitVec 3) (r : Ring) : Option Nat :=
  let t := (r.tail + e.produced q) % 65536
  if diff16 t r.rel < r.count then some t else none

/-- QINIT (08 R176). -/
def execQinit (c : Ctl) (lsid : BitVec 5) (q : BitVec 3) (entry : BitVec 10) (cexp : BitVec 4) (s : State) : Out1 :=
  settle (.qinit c lsid q entry cexp) s fun e =>
    if e.ringPending q then .wait
    else
      let en := 64 * (entry.toNat + 1)
      let cnt := 2 ^ cexp.toNat
      let r := e.s.saddr e.g false (e.word .l) 0 (cnt * en) 64
      let busy : Bool := match e.ring q with
        | some x => x.busy
        | none => false
      checked (scrFail r (e.word .l) ++ failIf (busy || decide (e.produced q + e.consumed q ≠ 0)) 0x0C1 0)
        (e.hold (.qinit q.toNat ⟨(scrOk r).win * 65536 + (scrOk r).off, en, cexp.toNat, 0, 0, 0,
          List.replicate cnt .empty⟩))

/-- The lanes of a ring's entry, or none where QPUSH and QPOP fault (08 R177). -/
def Env.entryLanes (e : Env) (r : Ring) : Option Nat :=
  if r.entry % 128 = 0 ∧ r.entry / 128 ≤ e.active then some (r.entry / 128) else none

/-- QPUSH (08 R177). Log 24 (DEDUCED). -/
def execQpush (c : Ctl) (lsid : BitVec 5) (q : BitVec 3) (s : State) : Out1 :=
  settle (.qpush c lsid q) s fun e =>
    if e.ringPending q then .wait
    else checked (e.ringFail q none)
      (match e.ring q with
        | none => .wait
        | some r =>
          match e.entryLanes r with
          | none => .fault 0x0C2 0 .none
          | some n =>
            if (List.range n).any fun l => (e.tok .l).voidAt l || !e.exec.contains l then .ok { s := e.s, null := true }
            else match e.ticket q r with
            | none => .wait
            | some t =>
              e.hold (.qpush q.toNat t (r.at' e.g.rank t)
                ((List.range n).flatMap fun l => laneBytes ((e.tok .l).vLane l))))

/-- QPOP (08 R177). Log 29 (DEDUCED). -/
def execQpop (c : Ctl) (lsid : BitVec 5) (q : BitVec 3) (s : State) : Out1 :=
  settle (.qpop c lsid q) s fun e =>
    if e.ringPending q then .wait
    else checked (e.ringFail q none)
      (match e.ring q with
        | none => .wait
        | some r =>
          match e.entryLanes r with
          | none => .fault 0x0C2 0 .none
          | some n =>
            let t := (r.head + e.consumed q) % 65536
            if r.presence t ≠ .present then .wait
            else e.scrLoad (r.at' e.g.rank t) (128 * n) fun bs =>
              .ok { s := e.s, res := vBytes e.exec (bs ++ List.replicate (128 * (8 - n)) 0), eff := .qpop q.toNat t })

/-- The word of QSTAT (08 R178). -/
def Ring.status (r : Ring) : Word :=
  wordN (r.tail + r.head * 2 ^ 16 + r.rel * 2 ^ 32 +
    (r.pres.filter fun x => decide (x = .present)).length * 2 ^ 48 + r.c * 2 ^ 57)

/-- QSTAT (08 R178). Log 30 (DEDUCED). -/
def execQstat (c : Ctl) (lsid : BitVec 5) (q : BitVec 3) (s : State) : Out1 :=
  settle (.qstat c lsid q) s fun e =>
    if !e.loadReady then .wait
    else match e.g.q.getD q.toNat none with
      | none => .fault 0x0C0 0 .none
      | some r => checked (failIf (decide (e.g.shape.windows ≤ r.win)) 0x090 r.base) (e.done (.s r.status))

end Sys2Proof.Machine
end

