-- ==== Sys2Proof/Machine/Matrix.lean ====
section
/-!
DEFINITION. Machine/Matrix.lean: the matrix instructions as a block resolves them (08 R163, R166 to R172).
-/
namespace Sys2Proof.Machine

/-- K of an MMA (08 R166). -/
def mmaDepth (o : MmaOps) : Nat := 32 * (o.kq.toNat + 1)

/-- Bytes of an operand (08 R167). -/
def opndBytes (t : FTy) (scaled : Bool) (k : Nat) : Nat := 128 * k * fWidth t / 8 + (if scaled then 128 * (k / 32) else 0)

/-- The matrix commands of a block with lower LSIDs. -/
def Env.matrixBefore (e : Env) : Nat :=
  (e.lower.filter fun n => match n.eff with
    | .matrix _ => true
    | _ => false).length

/-- The matrix queue has no room, or a lower-LSID command is still to resolve (08 R163). -/
def Env.matrixFull (e : Env) : Bool := e.pendingLower isMatrix || decide (32 ≤ e.g.mq.length + e.matrixBefore)

/-- Holds a matrix command. -/
def Env.command (e : Env) (op : MatOp) : Fire := e.hold (.matrix ⟨e.tag, op, false, [], [], none⟩)

/-- A scratch operand of the group's own windows. Log 27 (DEDUCED). -/
def Env.own (e : Env) (tok : Word) (n align : Nat) : Except Nat ScrAt := e.s.saddr e.g false tok 0 n align

/-- One operand of an MMA: a ring's next consumer ticket or a scratch range: what it is and its faults; `skip`
counts the tickets this instruction has already taken on the ring. -/
def Env.operand (e : Env) (q : Option (BitVec 3)) (sl : Slot) (n skip : Nat) : MOpnd × List RFault :=
  match q with
  | some q =>
    let t := match e.ring q with
      | some r => (r.head + e.consumed q + skip) % 65536
      | none => 0
    (.ring q.toNat t, e.ringFail q (some n))
  | none =>
    let r := e.own (e.word sl) n 64
    (.scr (scrOk r).win (scrOk r).off, scrFail r (e.word sl))

/-- The rings of an instruction's operands have unresolved lower-LSID users. -/
def Env.ringsPending (e : Env) : Bool := (ringsOf e.i).any e.ringPending

/-- The barrier of an optional last slot: its place and faults (08 R166). Log 27 (DEDUCED). -/
def Env.barOpnd (e : Env) (on : Bool) (sl : Slot) : Option ScrAt × List RFault :=
  if on then
    let r := e.own (e.word sl) 16 16
    (some (scrOk r), scrFail r (e.word sl))
  else (none, [])

/-- The slot of the last consumed operand. -/
def Env.lastSlot (e : Env) : Slot := slotAt ((needsOf e.i).length - 1)

/-- MMA and MMAS (08 R166, R167). Log 26 (DEDUCED). -/
def Env.mma (e : Env) (t : FTy) (scaled : Bool) (o : MmaOps) : Fire :=
  if e.ringsPending || e.matrixFull then .wait
  else
    let n := opndBytes t scaled (mmaDepth o)
    let a := e.operand o.qa .l n 0
    let b := e.operand o.qb (if o.qa.isSome then .l else .r) n (if o.qa.isSome && o.qa == o.qb then 1 else 0)
    let bar := e.barOpnd o.arrive e.lastSlot
    checked ((if o.qa.isSome then b.2 ++ a.2 else a.2 ++ b.2) ++ bar.2) (e.command (.mma t scaled (mmaDepth o) o.acc.toNat a.1 b.1 bar.1))

/-- MMA (08 R166). -/
def execMma (c : Ctl) (t : FTy) (o : MmaOps) (s : State) : Out1 :=
  settle (.mma c t o) s fun e => e.mma t false o

/-- MMAS (08 R166). -/
def execMmas (c : Ctl) (t : FTy) (o : MmaOps) (s : State) : Out1 :=
  settle (.mmas c t o) s fun e => e.mma t true o

/-- MMA.G (08 R168). -/
def execMmaG (c : Ctl) (t : FTy) (o : MmaOps) (s : State) : Out1 :=
  settle (.mmaG c t o) s fun e =>
    if e.ringsPending || e.matrixFull then .wait
    else
      let idx := e.own (e.word .r) 512 4
      let b := e.operand o.qb .t (opndBytes t false (mmaDepth o)) 0
      let bar := e.barOpnd o.arrive e.lastSlot
      checked (engineAddr (e.word .l) 16 ++ scrFail idx (e.word .r) ++ b.2 ++ bar.2)
        (e.command (.mma t false (mmaDepth o) o.acc.toNat (.rows (e.word .l).toNat (scrOk idx).win (scrOk idx).off) b.1 bar.1))

/-- MZERO (08 R170). -/
def execMzero (c : Ctl) (lsid : BitVec 5) (accs : BitVec 16) (s : State) : Out1 :=
  settle (.mzero c lsid accs) s fun e => if e.matrixFull then .wait else e.command (.mzero accs.toNat)

/-- A matrix command is on an accumulator. -/
def MatOp.uses (acc : Nat) : MatOp → Bool
  | .mma _ _ _ a _ _ _ => a = acc
  | .mzero m => Nat.testBit m acc
  | .mst o _ _ _ _ _ => o.acc.toNat = acc

/-- MLD (08 R171). Log 38 (DEDUCED). -/
def execMld (c : Ctl) (lsid : BitVec 5) (acc : BitVec 4) (s : State) : Out1 :=
  settle (.mld c lsid acc) s fun e =>
    let b := (e.word .l).toNat
    if 504 < b then .fault 0x0CC 0 .none
    else if !e.loadReady || e.g.mq.any fun m => m.op.uses acc.toNat then .wait
    else
      let a := e.g.acc.getD acc.toNat {}
      if a.poisoned then .fault 0x08C 0 .none
      else e.done (vBytes e.exec (a.cells.read (128 * b) 1024))

/-- Width of an MST output type. -/
def otBytes : OTy → Nat
  | .f32 => 4
  | .bf16 | .f16 => 2
  | .e4m3 | .e5m2 => 1

/-- Row pitch of an MST in bytes (08 R172). Log 28 (DEDUCED). -/
def mstPitch (o : MstOps) : Nat := if o.pitch = 0 then 128 * otBytes o.ot else 16 * o.pitch.toNat

/-- MST (08 R172). Log 28 (DEDUCED). -/
def execMst (c : Ctl) (o : MstOps) (s : State) : Out1 :=
  settle (.mst c o) s fun e =>
    if e.matrixFull then .wait
    else
      let bar := e.barOpnd o.credit .r
      if o.out then
        checked (engineAddr (e.word .l) 64 ++ bar.2)
          (e.command (.mst o none (e.word .l).toNat bar.1 e.g.seed e.g.count))
      else
        let d := e.own (e.word .l) (127 * mstPitch o + 128 * otBytes o.ot) 64
        checked (scrFail d (e.word .l) ++ bar.2)
          (e.command (.mst o (some (scrOk d)) 0 bar.1 e.g.seed e.g.count))

end Sys2Proof.Machine
end

