-- ==== Sys2Proof/Machine/Copy.lean ====
section
/-!
DEFINITION. Machine/Copy.lean: the copy instructions as a block resolves them (08 R163, R179 to R183).
-/
namespace Sys2Proof.Machine

/-- A command to the copy engine that a block holds: a copy, or a PREF that fired (08 R163, R183). -/
def Node.holdsCopy (n : Node) : Bool :=
  match n.eff with
  | .copy _ => true
  | _ => isCopy n.ins && decide (n.st = .fired)

/-- The commands to the copy engine of a block with lower LSIDs. -/
def Env.copiesBefore (e : Env) : Nat := (e.lower.filter Node.holdsCopy).length

/-- The copy queue has no room, or a lower-LSID command is still to resolve (08 R163). -/
def Env.copyFull (e : Env) : Bool := e.pendingLower isCopy || decide (32 ≤ e.g.cq.length + e.copiesBefore)

/-- Bytes of a contiguous form (08 R179). -/
def cpyCount (o : CpyOps) : Nat := 16 * (o.bytes.toNat + 1)

/-- What a copy is made of: both sides, rows and pitches, and the faults of its operands. -/
structure CopyPlan where
  src : CSrc
  dst : CDst
  rows : Nat
  rb : Nat
  sp : Nat := 0
  dp : Nat := 0
  desc : List Byte := []
  credit : List ScrAt := []
  fails : List RFault
deriving DecidableEq, Repr

/-- Holds a copy once its checks pass, in the order of R179, and its ring has an entry (08 R163, R175). Log 26 (DEDUCED). -/
def Env.copyIt (e : Env) (ring : Option (BitVec 3)) (p : CopyPlan) : Fire :=
  let cmd (d : CDst) : Fire := e.hold (.copy ⟨0, e.tag, p.src, d, p.rows, p.rb, p.sp, p.dp, p.desc, p.credit, 0, [], [], none⟩)
  match ring with
  | none => checked p.fails (cmd p.dst)
  | some q =>
    checked (e.ringFail q (some (p.rows * p.rb)) ++ p.fails)
      (match e.ring q with
        | none => .wait
        | some r =>
          match e.ticket q r with
          | none => .wait
          | some t => cmd (.ring q.toNat t))

/-- A scratch side of a copy: its place and faults (08 R179). -/
def Env.side (e : Env) (peer : Bool) (tok : Word) (n : Nat) : ScrAt × List RFault :=
  let r := e.s.saddr e.g peer tok 0 n 16
  (scrOk r, scrFail r tok)

/-- The barrier of a copy on its last slot. Log 27 (DEDUCED). -/
def Env.copyBar (e : Env) (peer on : Bool) : List ScrAt × List RFault :=
  if on then
    let r := e.s.saddr e.g peer (e.word e.lastSlot) 0 16 16
    ([scrOk r], scrFail r (e.word e.lastSlot))
  else ([], [])

/-- A copy waits for room and for lower-LSID users of its ring. -/
def Env.copyWaits (e : Env) : Bool := e.ringsPending || e.copyFull

/-- CPY (08 R180). -/
def execCpy (c : Ctl) (o : CpyOps) (s : State) : Out1 :=
  settle (.cpy c o) s fun e =>
    if e.copyWaits then .wait
    else
      let n := (cpyCount o)
      let bar := e.copyBar false o.credit
      if o.out then
        let a := e.side false (e.word .l) n
        e.copyIt none ⟨.scr a.1, .glob (e.word .r).toNat, 1, n, 0, 0, [], bar.1, engineAddr (e.word .r) 16 ++ a.2 ++ bar.2⟩
      else
        let d := if o.ring.isSome then (⟨0, 0, 0⟩, []) else e.side false (e.word .r) n
        e.copyIt o.ring ⟨.glob (e.word .l).toNat, .scr d.1, 1, n, 0, 0, [], bar.1,
          engineAddr (e.word .l) 16 ++ d.2 ++ bar.2⟩

/-- CPY.S (08 R180). -/
def execCpyS (c : Ctl) (o : CpyOps) (s : State) : Out1 :=
  settle (.cpyS c o) s fun e =>
    if e.copyWaits then .wait
    else
      let bar := e.copyBar false o.credit
      let a := e.side false (e.word .l) (cpyCount o)
      let d := if o.ring.isSome then (⟨0, 0, 0⟩, []) else e.side false (e.word .r) (cpyCount o)
      e.copyIt o.ring ⟨.scr a.1, .scr d.1, 1, (cpyCount o), 0, 0, [], bar.1, a.2 ++ d.2 ++ bar.2⟩

/-- CPY.PEER (08 R180): one side at least is a peer. -/
def execCpyPeer (c : Ctl) (o : CpyOps) (s : State) : Out1 :=
  settle (.cpyPeer c o) s fun e =>
    if e.copyWaits then .wait
    else
      let bar := e.copyBar true o.credit
      let a := e.side true (e.word .l) (cpyCount o)
      let d := if o.ring.isSome then (⟨0, 0, 0⟩, []) else e.side true (e.word .r) (cpyCount o)
      let peer : Bool := decide (bitsN (e.word .l) 28 4 ≠ 0) || (o.ring.isNone && decide (bitsN (e.word .r) 28 4 ≠ 0))
      e.copyIt o.ring ⟨.scr a.1, .scr d.1, 1, (cpyCount o), 0, 0, [], bar.1, a.2 ++ d.2 ++ failIf (!peer) 0x0C9 0 ++ bar.2⟩

/-- The ranks a member mask names, in order of the relative number (08 R180). -/
def Group.maskRanks (g : Group) (mask : Nat) : List Nat :=
  ((List.range 16).filter fun m => Nat.testBit mask m).map fun m => (g.rank + m) % g.gang.length

/-- The same place of each member (08 R180): places and faults. -/
def Env.members (e : Env) (ranks : List Nat) (tok : Word) (n align : Nat) : List ScrAt × List RFault :=
  let o := bitsN tok 0 28
  let one (r : Nat) : Except Nat ScrAt :=
    match e.s.memberAt e.g r with
    | none => .error 0x090
    | some m =>
      if m.reach ≤ o / 65536 then .error 0x090
      else if o % 65536 % align ≠ 0 then .error 0x091
      else if 65536 < o % 65536 + n then .error 0x092
      else .ok ⟨r, o / 65536, o % 65536⟩
  (ranks.map fun r => scrOk (one r), ranks.flatMap fun r => scrFail (one r) tok)

/-- CPY.MC (08 R180). -/
def execCpyMc (c : Ctl) (o : CpyOps) (s : State) : Out1 :=
  settle (.cpyMc c o) s fun e =>
    if e.copyWaits then .wait
    else
      let d := e.word .r
      let mask := bitsN d 32 16
      let badMask : Bool := decide (mask = 0) || decide (2 ^ e.g.gang.length ≤ mask)
      let ranks := e.g.maskRanks (if badMask then 1 else mask)
      let dm := e.members ranks d (cpyCount o) 16
      let bt := if o.credit then e.word .t else 0
      let bm := if o.credit then e.members ranks bt 16 16 else ([], [])
      e.copyIt none ⟨.glob (e.word .l).toNat, .mc ranks (bitsN d 16 12) (bitsN d 0 16), 1, (cpyCount o), 0, 0, [], bm.1,
        engineAddr (e.word .l) 16 ++ failIf (decide (bitsN d 48 16 ≠ 0)) 0x090 d.toNat ++
        failIf (badMask || decide (bitsN d 28 4 ≠ 0)) 0x0CE 0 ++ dm.2 ++
        failIf (decide (bitsN bt 32 32 ≠ 0)) 0x090 bt.toNat ++ failIf (decide (bitsN bt 28 4 ≠ 0)) 0x0CE 0 ++ bm.2⟩

/-- A number in a descriptor's bytes. -/
def descN (bs : List Byte) (lo n : Nat) : Nat := ofBytes ((bs.drop lo).take n)

/-- Reads the descriptor of a copy as a load (08 R181). -/
def Env.descriptor (e : Env) (k : List Byte → Fire) : Fire := e.scr false (e.word .l) 0 32 16 fun a => e.scrLoad a 32 k

/-- Rows and row bytes of a descriptor are in range and its last bytes are zero (08 R181). -/
def descOk (d : List Byte) : Bool :=
  decide (1 ≤ descN d 24 2) && decide (descN d 24 2 ≤ 4096) && decide (1 ≤ descN d 26 2) && decide (descN d 26 2 ≤ 4096) &&
    decide (descN d 28 4 = 0)

/-- Bytes from the first row's start to the last row's end. -/
def rowsSpan (rows pitch rb : Nat) : Nat := (rows - 1) * pitch + rb

/-- CPY.2D (08 R181). -/
def execCpy2d (c : Ctl) (o : CpyOps) (s : State) : Out1 :=
  settle (.cpy2d c o) s fun e =>
    if e.copyWaits then .wait
    else e.descriptor fun d =>
      let rows := descN d 24 2
      let rb := 16 * descN d 26 2
      let sp := descN d 16 4
      let dp := if o.ring.isSome then rb else descN d 20 4
      let src := wordN (descN d 0 8)
      let dst := wordN (descN d 8 8)
      let bar := e.copyBar false o.credit
      let bad := !descOk d || decide (sp % 16 ≠ 0) || decide (dp % 16 ≠ 0) || decide (dp < rb)
      if bad then checked (failIf true 0x0C9 0 ++ bar.2) .wait
      else if o.out then
        let a := e.side false src (rowsSpan rows sp rb)
        e.copyIt none ⟨.scr a.1, .glob dst.toNat, rows, rb, sp, dp, d, bar.1, engineAddr dst 16 ++ a.2 ++ bar.2⟩
      else
        let b := if o.ring.isSome then (⟨0, 0, 0⟩, []) else e.side false dst (rowsSpan rows dp rb)
        e.copyIt o.ring ⟨.glob src.toNat, .scr b.1, rows, rb, sp, dp, d, bar.1, engineAddr src 16 ++ b.2 ++ bar.2⟩

/-- CPYG (08 R181). -/
def execCpyg (c : Ctl) (o : CpyOps) (s : State) : Out1 :=
  settle (.cpyg c o) s fun e =>
    if e.copyWaits then .wait
    else e.descriptor fun d =>
      let rows := descN d 24 2
      let rb := 16 * descN d 26 2
      let base := wordN (descN d 0 8)
      let dst := wordN (descN d 8 8)
      let lt := wordN (descN d 16 4)
      let bar := e.copyBar false o.credit
      if !descOk d || decide (descN d 20 4 ≠ 0) then checked (failIf true 0x0C9 0 ++ bar.2) .wait
      else
        let list := e.own lt (4 * rows) 4
        let b := if o.ring.isSome then (⟨0, 0, 0⟩, []) else e.side false dst (rows * rb)
        e.copyIt o.ring ⟨.gath base.toNat (scrOk list), .scr b.1, rows, rb, rb, rb, d, bar.1,
          engineAddr base 16 ++ scrFail list lt ++ b.2 ++ bar.2⟩

/-- PREF (08 R183): it waits for room and has no effect but timing. Log 37 (DEDUCED). -/
def execPref (c : Ctl) (lsid : BitVec 5) (bytes : BitVec 12) (s : State) : Out1 :=
  settle (.pref c lsid bytes) s fun e => if e.copyFull then .wait else e.hold .none

end Sys2Proof.Machine
end

