-- ==== Sys2Proof/Machine/Memory.lean ====
section
/-!
DEFINITION. Machine/Memory.lean: global loads, stores, gathers, scatters, atomics and fences as a block resolves them
(12 R236 to R242; 11 R218, R222, R226).
-/
namespace Sys2Proof.Machine

/-- Translates addresses in order: their physical addresses, or what the first that fails gives (12 R236, R239,
R240). -/
def Env.globAll (e : Env) (n : Nat) (acc : Access) : List Nat → (List Nat → Fire) → Fire
  | [], k => k []
  | a :: as, k => e.glob a n acc fun pa => e.globAll n acc as fun pas => k (pa :: pas)

/-- The state in which the loads of an instruction begin: an acquire wider than .die writes back and drops the die's
foreign lines and reads at the home (11 R222). -/
def Env.readState (e : Env) (home : Bool) : State := if home then e.s.dropForeign e.die else e.s

/-- The state in which one address is read: at the home another package is asked, at the die its lines are brought in
(10 R205, R206, R213). -/
def Env.readOne (e : Env) (s : State) (home : Bool) (pa n : Nat) : State :=
  if home then s.askFar pa n else s.fetchLines e.die pa n

/-- Loads `n` bytes at each address one after another, each translated and read before the next: the first that faults or
is poisoned is the one reported (12 R239, R240). -/
def Env.loadEach (e : Env) (home : Bool) (n align : Nat) : List Nat → State → (List (List Byte) → State → Fire) → Fire
  | [], s, k => k [] s
  | a :: as, s, k => e.glob a align .load fun pa =>
    let s' := e.readOne s home pa n
    match e.readPhys s' home pa n with
    | (_, some i) => .fault 0x08C ((a + i) / 64 * 64) .load
    | (bs, none) => e.loadEach home n align as s' fun l t => k (bs :: l) t

/-- Loads `n` bytes at each address, in order, and goes on with the bytes and the state after (07 R148; 11 R218). -/
def Env.loads (e : Env) (home : Bool) (as : List Nat) (n align : Nat) (k : List (List Byte) → Token) : Fire :=
  if !e.loadReady || (home && e.s.backBlocked (some e.p) e.die) then .wait
  else e.loadEach home n align as (e.readState home) fun l s => .ok { s := s, res := k l, pages := as }

/-- An acquire that is performed at the home (11 R222). Log 32 (DEDUCED). -/
def acqHome (acq : Bool) (o : MemOps) : Bool := acq && wide o.scope

/-- LD (12 R238). -/
def execLd (c : Ctl) (t : ITy) (acq : Bool) (o : MemOps) (s : State) : Out1 :=
  settle (.ld c t acq o) s fun e =>
    e.loads (acqHome acq o) [gaddrSum (e.word .l) o.off] (iBytes t) (iBytes t) fun l =>
      .s (extT t (ofBytes (l.headD [])))

/-- The release of a store of an order (11 R221). -/
def relOf (rel : Bool) (o : MemOps) : Option Scope := if rel then some o.scope else none

/-- Holds stores of bytes at addresses (12 R238 to R240). -/
def Env.stores (e : Env) (l : List (Nat × List Byte)) (align : Nat) (rel : Option Scope) : Fire :=
  e.globAll align .store (l.map Prod.fst) fun pas =>
    .ok { s := e.s, pages := l.map Prod.fst
          eff := .stores ((l.zip pas).map fun x => ⟨x.1.1, x.2, x.1.2⟩) rel }

/-- ST (12 R238). -/
def execSt (c : Ctl) (t : ITy) (rel : Bool) (o : MemOps) (s : State) : Out1 :=
  settle (.st c t rel o) s fun e =>
    e.stores [(gaddrSum (e.word .l) o.off, bytesOf (e.word .r).toNat (iBytes t))] (iBytes t) (relOf rel o)

/-- LDV (12 R239). Log 23 (DEDUCED). -/
def execLdv (c : Ctl) (t : ITy) (acq : Bool) (o : MemOps) (s : State) : Out1 :=
  settle (.ldv c t acq o) s fun e =>
    let a := gaddrSum (e.word .l) o.off
    e.loads (acqHome acq o) (e.exec.map fun l => a + 128 * l) 128 128 fun bs =>
      .v (laneFn fun l => match (e.exec.zip bs).find? fun x => x.1 == l with
        | some x => some (BitVec.ofNat 1024 (ofBytes x.2))
        | none => none)

/-- STV (12 R239). -/
def execStv (c : Ctl) (t : ITy) (rel : Bool) (o : MemOps) (s : State) : Out1 :=
  settle (.stv c t rel o) s fun e =>
    let a := gaddrSum (e.word .l) o.off
    e.stores ((e.storeLanes (e.tok .r)).map fun l => (a + 128 * l, laneBytes ((e.tok .r).vLane l))) 128 (relOf rel o)

/-- `ea` before its checks, for an index element (12 R240). -/
def eaOf (t : ITy) (base : Word) (off : BitVec 24) (x : Nat) : Nat :=
  gaddrSum (wordI (base.toNat + iVal t x * (iBytes t : Nat))) off

/-- The addresses of a lane's elements, none where the mask excludes one (12 R240). -/
def Env.laneEas (e : Env) (t : ITy) (off : BitVec 24) (use : Bool) (l : Nat) : List (Option Nat) :=
  let xs := elems (iWidth t) ((e.tok .r).vLane l)
  let bs := if use then maskBits (iWidth t) ((e.tok .t).kLane l) else xs.map fun _ => true
  (xs.zip bs).map fun x => if x.2 then some (eaOf t (e.word .l) off x.1) else none

/-- A lane of gathered elements: the loaded values in the places that were accessed, zero elsewhere. -/
def gathered : List (Option Nat) → List (List Byte) → List Nat
  | [], _ => []
  | none :: as, bs => 0 :: gathered as bs
  | some _ :: as, bs => ofBytes (bs.headD []) :: gathered as bs.tail

/-- GATHER's result lane by lane. -/
def gatherLanes (w : Nat) : List (Nat × List (Option Nat)) → List (List Byte) → List (Nat × LaneBits)
  | [], _ => []
  | (l, as) :: rest, bs =>
    (l, pack w (gathered as bs)) :: gatherLanes w rest (bs.drop (as.filter Option.isSome).length)

/-- GATHER (12 R240). -/
def execGather (c : Ctl) (t : ITy) (lsid : BitVec 5) (mask : Bool) (off : BitVec 24) (s : State) : Out1 :=
  settle (.gather c t lsid mask off) s fun e =>
    let live := liveLanes e.exec ([e.tok .r] ++ if mask then [e.tok .t] else [])
    let eas := live.map fun l => (l, e.laneEas t off mask l)
    e.loads false (eas.flatMap fun x => x.2.filterMap id) (iBytes t) (iBytes t) fun bs =>
      let ls := gatherLanes (iWidth t) eas bs
      .v (laneFn fun l => (ls.find? fun x => x.1 == l).map Prod.snd)

/-- SCATTER (12 R240). -/
def execScatter (c : Ctl) (t : ITy) (lsid : BitVec 5) (off : BitVec 24) (s : State) : Out1 :=
  settle (.scatter c t lsid off) s fun e =>
    let live := liveLanes e.exec [e.tok .r, e.tok .t]
    e.stores (live.flatMap fun l =>
      ((e.laneEas t off false l).zip (elems (iWidth t) ((e.tok .t).vLane l))).filterMap fun x =>
        x.1.map fun a => (a, bytesOf x.2 (iBytes t))) (iBytes t) none

/-! ## Atomics (12 R241; 11 R226, R227) -/

/-- The read of an AMO's order is an acquire. -/
def Order.isAcq : Order → Bool
  | .acq | .acqrel => true
  | _ => false

/-- The write of an AMO's order is a release. -/
def Order.isRel : Order → Bool
  | .rel | .acqrel => true
  | _ => false

/-- The state in which an AMO reads: for one at the home its die's copies of the bytes are evicted first, for an acquire all
copies are, and another package is asked (10 R206; 11 R222). Log 32 (DEDUCED). -/
def Env.amoState (e : Env) (home acq : Bool) (pa n : Nat) : State :=
  e.readOne (if home then (if acq then e.s.dropForeign e.die else e.s.evictLines e.die pa n) else e.s) home pa n

/-- Another party's lease keeps those copies from being written back. -/
def Env.amoBlocked (e : Env) (home acq : Bool) (pa n : Nat) : Bool :=
  home && (if acq then e.s.backBlocked (some e.p) e.die else e.s.linesBlocked (some e.p) e.die pa n)

/-- The group's AMO of the turn came to wait for leased bytes before another's, whose bytes it shares (11 R227): no other
waits that came first. -/
def Env.firstAsked (e : Env) (pt : Option Nat) (pa n : Nat) : Bool :=
  let before (t : Nat) : Bool := match e.n.asks with
    | some a => decide (t < a.ticket)
    | none => true
  !(e.s.groups.any fun g => g.place != e.p && (match g.run with
    | some r => r.nodes.any fun x => !x.resolved && (match x.asks with
      | some a => (decide (a.pt = pt) || g.place.die == e.die) && decide (a.pa < pa + n) && decide (pa < a.pa + a.n) && before a.ticket
      | none => false)
    | none => false))

/-- An AMO: reads and leases its bytes when it resolves, and holds the write of `f old`, if there is one. -/
def Env.amo (e : Env) (t : ITy) (ord : Order) (o : MemOps) (f : Nat → Option Nat) : Fire :=
  let a := gaddrSum (e.word .l) o.off
  let n := iBytes t
  let home := wide o.scope
  if !e.loadReady then .wait
  else e.glob a n .atomic fun pa =>
    let pt := e.s.point e.die pa home
    if e.s.leaseMeets (some e.p) e.die pt pa n || !e.firstAsked pt pa n then .queue pa n pt
    else if e.amoBlocked home (Order.isAcq ord) pa n then .wait
    else
      let s := e.amoState home (Order.isAcq ord) pa n
      match e.readPhys s home pa n with
      | (_, some i) => .fault 0x08C ((a + i) / 64 * 64) .atomic
      | (bs, none) =>
        let old := ofBytes bs
        .ok { s := s, res := .s (extT t old), pages := [a], leased := true
              eff := .amo a pa bs ((f old).map fun p => bytesOf p n) o.scope (Order.isRel ord) }

/-- The pattern of an AMO of values (12 R241). -/
def amoVal (t : ITy) (f : Int → Int → Int) (v : Word) (old : Nat) : Option Nat :=
  some (truncI (f (iVal t old) (iVal t v.toNat)) (iWidth t))

/-- The pattern of an AMO of patterns (12 R241). -/
def amoPat (t : ITy) (f : Nat → Nat → Nat) (v : Word) (old : Nat) : Option Nat := some (f old (patOf t v))

/-- AMO.ADD (12 R241). -/
def execAmoAdd (c : Ctl) (t : ITy) (ord : Order) (o : MemOps) (s : State) : Out1 :=
  settle (.amoAdd c t ord o) s fun e => e.amo t ord o (amoVal t (· + ·) (e.word .r))
/-- AMO.MIN (12 R241). -/
def execAmoMin (c : Ctl) (t : ITy) (ord : Order) (o : MemOps) (s : State) : Out1 :=
  settle (.amoMin c t ord o) s fun e => e.amo t ord o (amoVal t (pickI false) (e.word .r))
/-- AMO.MAX (12 R241). -/
def execAmoMax (c : Ctl) (t : ITy) (ord : Order) (o : MemOps) (s : State) : Out1 :=
  settle (.amoMax c t ord o) s fun e => e.amo t ord o (amoVal t (pickI true) (e.word .r))
/-- AMO.AND (12 R241). -/
def execAmoAnd (c : Ctl) (t : ITy) (ord : Order) (o : MemOps) (s : State) : Out1 :=
  settle (.amoAnd c t ord o) s fun e => e.amo t ord o (amoPat t (· &&& ·) (e.word .r))
/-- AMO.OR (12 R241). -/
def execAmoOr (c : Ctl) (t : ITy) (ord : Order) (o : MemOps) (s : State) : Out1 :=
  settle (.amoOr c t ord o) s fun e => e.amo t ord o (amoPat t (· ||| ·) (e.word .r))
/-- AMO.XOR (12 R241). -/
def execAmoXor (c : Ctl) (t : ITy) (ord : Order) (o : MemOps) (s : State) : Out1 :=
  settle (.amoXor c t ord o) s fun e => e.amo t ord o (amoPat t (· ^^^ ·) (e.word .r))
/-- AMO.SWAP (12 R241). -/
def execAmoSwap (c : Ctl) (t : ITy) (ord : Order) (o : MemOps) (s : State) : Out1 :=
  settle (.amoSwap c t ord o) s fun e => e.amo t ord o (amoPat t (fun _ v => v) (e.word .r))
/-- AMO.CAS (12 R241). -/
def execAmoCas (c : Ctl) (t : ITy) (ord : Order) (o : MemOps) (s : State) : Out1 :=
  settle (.amoCas c t ord o) s fun e =>
    e.amo t ord o fun old => if old = patOf t (e.word .r) then some (patOf t (e.word .t)) else none

/-! ## Fences (12 R242; 11 R222) -/

/-- FENCE: the acquire part waits for lower-LSID loads and drops foreign lines where its scope is wide; FENCE.acqrel
also waits for the group's earlier stores; the release part is held for commit. Log 31 (DEDUCED). -/
def execFence (c : Ctl) (lsid : BitVec 5) (ord : FOrder) (scope : Scope) (s : State) : Out1 :=
  settle (.fence c lsid ord scope) s fun e =>
    match ord with
    | .rel => e.hold (.fence scope)
    | _ =>
      if e.pendingLower isLoad || (wide scope && e.s.backBlocked (some e.p) e.die) ||
          (decide (ord = .acqrel) && !e.g.sb.isEmpty) then .wait
      else .ok { s := if wide scope then e.s.dropForeign e.die else e.s
                 eff := if ord = .acqrel then .fence scope else .none }

end Sys2Proof.Machine
end

