-- ==== Sys2Proof/Machine/Page.lean ====
section
/-!
DEFINITION. Machine/Page.lean: allocation, page-state and system-register instructions as a block resolves them
(12 R243 to R254).
-/
namespace Sys2Proof.Machine

/-! ## The heap (12 R243, R244) -/

/-- The heap ranges an effect holds for its block. -/
def Effect.ranges : Effect → List (Nat × Nat)
  | .alloc b n _ => [(b, n)]
  | .tinst _ _ _ bufs _ => bufs
  | _ => []

/-- The ranges of a context's heap that are allocated or held. -/
def State.taken (s : State) (c : Nat) : List (Nat × Nat) :=
  (match s.ctx? c with
    | some cx => cx.allocs
    | none => []) ++ s.heldEffects.flatMap fun e => if e.1.ctx = c then e.2.ranges else []

/-- A range of a heap lies in it and is free. Log 34 (DESIGN CHOICE). -/
def rangeFree (base size : Nat) (taken : List (Nat × Nat)) (b n : Nat) : Bool :=
  decide (base ≤ b) && decide (b + n ≤ base + size) && taken.all fun r => decide (b + n ≤ r.1) || decide (r.1 + r.2 ≤ b)

/-- The lowest places of free ranges: after the heap's start and after each taken range. Log 34 (DESIGN CHOICE). -/
def State.heapFits (s : State) (c : Nat) (more : List (Nat × Nat)) (n align : Nat) : List Nat :=
  match s.ctx? c with
  | none => []
  | some cx =>
    let t := more ++ s.taken c
    ((cx.heapBase :: t.map fun r => r.1 + r.2).map fun b => roundUp b align).filter fun b =>
      rangeFree cx.heapBase cx.heapSize t b n

/-- The range that the device takes: one at an aligned place of its choice if it is free there, else at one of the lowest places
(12 R244). Log 34 (DESIGN CHOICE). -/
def State.heapPick (s : State) (c : Nat) (more : List (Nat × Nat)) (n align : Nat) : Option Nat :=
  match s.pick (s.heapFits c more n align), s.ctx? c with
  | some b, some cx =>
    let a := roundUp (cx.heapBase + Config.heapAt s.fresh more.length % cx.heapSize) align
    some (if rangeFree cx.heapBase cx.heapSize (more ++ s.taken c) a n then a else b)
  | _, _ => none

/-- ALLOC (12 R244): a range of the device's choice, or 0. As an acquire of scope .pkg it synchronises with the FREE of the
bytes (11 R221, R233). Log 34 (DESIGN CHOICE). -/
def execAlloc (c : Ctl) (lsid : BitVec 5) (place : APlace) (j : BitVec 6) (s : State) : Out1 :=
  settle (.alloc c lsid place j) s fun e =>
    let n := (e.word .l).toNat
    if n = 0 ∨ 2 ^ 40 < n then .fault 0x084 0 .none
    else
      let size := roundUp n 64
      match e.s.heapPick e.g.ctx [] size (2 ^ j.toNat) with
      | none => e.done (.s 0)
      | some b =>
        if e.s.backBlocked (some e.p) e.die then .wait
        else .ok { s := (e.s.dropForeign e.die).draw, res := .s (wordN b), eff := .alloc b size place }

/-- Holds a page command (12 R245, R248, R250). -/
def Env.pageCmd (e : Env) (op : PageOp) : Fire := e.hold (.page op (e.word .l).toNat)

/-- FREE (12 R245): an address that no allocated range has gives 0x085 when performed, whatever its top byte. Log 122 (DEDUCED). -/
def execFree (c : Ctl) (lsid : BitVec 5) (s : State) : Out1 :=
  settle (.free c lsid) s fun e => if e.word .l = 0 then e.hold .none else e.pageCmd .free

/-! ## Pages (12 R246 to R250) -/

/-- The checks of address and count (12 R236, R246). Log 36 (DEDUCED). -/
def Env.pageChecks (e : Env) (sz : PgSize) : List RFault :=
  let a := (e.word .l).toNat
  (match gaddrCause a (pgBytes sz) with
    | some c => [⟨c, a, .pageCommand⟩]
    | none => []) ++ failIf (decide ((e.word .r).toNat = 0) || decide (4096 < (e.word .r).toNat)) 0x084 0

/-- The pages of a range. -/
def pagesOf (a count : Nat) (sz : PgSize) : List Nat := (List.range count).map fun i => a + i * pgBytes sz

/-- The page at an address of a size: its leaf, or none where it is unmapped or of another size. Log 136 (DEDUCED). -/
def State.leafOf (s : State) (c va : Nat) (sz : PgSize) : Option Word :=
  match s.walkOf c va with
  | .leaf e => if pgOfCode (leafSize e) = sz ∧ va < 2 ^ 56 then some e else none
  | _ => none

/-- The pins that blocks not yet committed hold on a page (12 R247). -/
def State.pinHolds (s : State) (c va : Nat) : Nat :=
  (s.heldEffects.filter fun e => decide (e.1.ctx = c) && (match e.2 with
    | .commit _ true pages => pages.any fun h => h.va == va
    | _ => false)).length

/-- Chooses a frame run for each reserved page of a range from the frames given. -/
def reserveRuns (n : Nat) : List (Nat × Word) → List Nat → State → Option (List PageHold × State)
  | [], _, s => some ([], s)
  | (va, leaf) :: rest, free, s =>
    if leafCommitted leaf then
      match reserveRuns n rest free s with
      | some (l, s') => some (⟨va, none⟩ :: l, s')
      | none => none
    else
      match s.pick (drawFrom free n (frameSpot (leafPa leaf / 65536))) with
      | none => none
      | some f =>
        match reserveRuns n rest (free.filter fun x => !(decide (f ≤ x) && decide (x < f + n))) s.draw with
        | some (l, s') => some (⟨va, some f⟩ :: l, s')
        | none => none

/-- VCOMMIT and PIN (12 R247). Log 36 (DEDUCED). -/
def Env.commitPages (e : Env) (sz : PgSize) (pin : Bool) : Fire :=
  checked (e.pageChecks sz)
    (let vas := pagesOf (e.word .l).toNat (e.word .r).toNat sz
     let leaves := vas.map fun va => (va, e.s.leafOf e.g.ctx va sz)
     let found := leaves.filterMap fun x => x.2.map fun l => (x.1, l)
     match vas.find? fun va => e.s.walkOf e.g.ctx va == .malformed with
     | some va => .fault 0x08E va .pageCommand
     | none =>
       if found.length ≠ vas.length then e.done (.s 2)
       else if pin && found.any fun x => decide (leafState x.2 = 3) then .wait
       else if pin && found.any fun x => decide (255 < leafPins x.2 + e.s.pinHolds e.g.ctx x.1 + 1) then e.done (.s 3)
       else match reserveRuns (pgFrames sz) found (e.s.freeFrames e.g.ctx) e.s with
         | none => e.done (.s 1)
         | some (holds, s') =>
           .ok { s := s', eff := .commit sz pin holds
                 res := .s (wordN ((found.filter fun x => !leafCommitted x.2).length * 65536)) })

/-- VCOMMIT (12 R247). Log 36 (DEDUCED). -/
def execVcommit (c : Ctl) (lsid : BitVec 5) (sz : PgSize) (s : State) : Out1 :=
  settle (.vcommit c lsid sz) s fun e => e.commitPages sz false

/-- PIN (12 R247). Log 36 (DEDUCED). -/
def execPin (c : Ctl) (lsid : BitVec 5) (sz : PgSize) (s : State) : Out1 :=
  settle (.pin c lsid sz) s fun e => e.commitPages sz true

/-- The barrier of an operand that may name a gang peer: its place and faults (08 R161, R188). Log 125 (DEDUCED). -/
def Env.peerBar (e : Env) (sl : Slot) : Option ScrAt × List RFault :=
  let r := e.s.saddr e.g true (e.word sl) 0 16 16
  (some (scrOk r), scrFail r (e.word sl))

/-- VDECOMMIT (12 R248). -/
def execVdecommit (c : Ctl) (lsid : BitVec 5) (sz : PgSize) (s : State) : Out1 :=
  settle (.vdecommit c lsid sz) s fun e => checked (e.pageChecks sz) (e.pageCmd (.decommit sz (e.word .r).toNat))

/-- UNPIN (12 R248). -/
def execUnpin (c : Ctl) (lsid : BitVec 5) (sz : PgSize) (s : State) : Out1 :=
  settle (.unpin c lsid sz) s fun e => checked (e.pageChecks sz) (e.pageCmd (.unpin sz (e.word .r).toNat))

/-- VMIGRATE (12 R246, R250): as a BARRIVE, its barrier may be a gang peer's. Log 125 (DEDUCED). -/
def execVmigrate (c : Ctl) (lsid : BitVec 5) (tier1 : Bool) (place : BitVec 2) (arrive : Bool) (sz : PgSize) (s : State) : Out1 :=
  settle (.vmigrate c lsid tier1 place arrive sz) s fun e =>
    let bar := if arrive then e.peerBar .t else (none, [])
    checked (e.pageChecks sz ++ bar.2) (e.pageCmd (.migrate sz (e.word .r).toNat tier1 place.toNat bar.1))

/-- The word of VQUERY for a leaf; `free` stands for the die of a remote frame, which the spec does not state
(12 R249). Log 35 (DESIGN CHOICE); 144 (DESIGN CHOICE). -/
def queryWord (s : State) (e : Word) (free : Nat) : Word :=
  let pa := leafPa e
  let com := leafCommitted e
  let remote := com && decide (paPkg pa ≠ s.pkgNum)
  let spot := frameSpot (pa / 65536)
  wordN ((if com then leafState e else 1) + (if leafTouch e then 8 else 0) + leafSize e * 16 +
    (if remote then 2 else spot.1) * 64 + (if remote then free % 4 else spot.2 % 4) * 256 +
    (if com then paPkg pa else 0) * 1024 + leafPins e * 2 ^ 20)

/-- VQUERY (12 R249). Log 35 (DESIGN CHOICE). -/
def execVquery (c : Ctl) (lsid : BitVec 5) (s : State) : Out1 :=
  settle (.vquery c lsid) s fun e =>
    if !e.loadReady then .wait
    else
      let a := (e.word .l).toNat
      if 2 ^ 56 ≤ a then .fault 0x080 a .pageCommand
      else match e.s.walkOf e.g.ctx a with
        | .leaf l => .ok { s := e.s.draw, res := .s (queryWord e.s l (Config.choice e.s.fresh)) }
        | _ => e.done (.s 0)

/-! ## System registers (12 R252 to R254) -/

/-- The value of a system register. -/
def Env.sysReg (e : Env) : SysReg → Word
  | .tile => wordN (e.s.tileReg e.p.die e.p.tile)
  | .slot => wordN e.p.slot
  | .lanes => wordN (e.active + (2 ^ e.active - 1) * 256)
  | .gang => wordN (e.g.gang.length + e.g.rank * 256)
  | .task => e.g.task
  | .ctx => wordN (e.g.ctx + e.g.gen * 65536)
  | .cycle => wordN e.s.cycle
  | .cause => e.g.cause
  | .faultva => e.g.faultva
  | .fpflags => e.g.fpflags
  | .fptrap => e.g.fptrap
  | .seed => e.g.seed

/-- SRD (12 R252). -/
def execSrd (c : Ctl) (r : SysReg) (s : State) : Out1 := settle (.srd c r) s fun e => e.done (.s (e.sysReg r))

/-- SWR (12 R253). -/
def execSwr (c : Ctl) (lsid : BitVec 5) (r : SwReg) (s : State) : Out1 :=
  settle (.swr c lsid r) s fun e => e.hold (.swr r (e.word .l))

end Sys2Proof.Machine
end

