-- ==== Sys2Proof/Machine/TaskOps.lean ====
section
/-!
DEFINITION. Machine/TaskOps.lean: task handles and records, decrements, the end of a task, signals, retirement and
task edges (15 R283 to R295; 17 R304 to R321).
-/
namespace Sys2Proof.Machine

/-! ## Handles (15 R283) -/

/-- Package of a handle. -/
def hPkg (h : Word) : Nat := bitsN h 54 10
/-- Die of a handle. -/
def hDie (h : Word) : Nat := bitsN h 52 2
/-- Record index of a handle. -/
def hRec (h : Word) : Nat := bitsN h 35 17
/-- Generation of a handle. -/
def hGen (h : Word) : Nat := bitsN h 19 16
/-- The handle of a record. -/
def handleOf (pkg die idx gen : Nat) : Word := wordN (pkg * 2 ^ 54 + die * 2 ^ 52 + idx * 2 ^ 35 + gen % 65536 * 2 ^ 19)
/-- A well-formed handle. -/
def State.handleWf (s : State) (h : Word) : Bool := decide (bitsN h 0 19 = 0) && s.pod.contains (hPkg h)

/-! ## Records (17 R304) -/

/-- A word of a record. -/
def TaskRec.w (r : TaskRec) (i : Nat) : Word := r.words.getD i 0
/-- The dependence counter. -/
def TaskRec.counter (r : TaskRec) : Nat := bitsN (r.w 1) 0 32
/-- Gang size. -/
def TaskRec.gang (r : TaskRec) : Nat := bitsN (r.w 1) 32 5
/-- Priority class. -/
def TaskRec.prio (r : TaskRec) : Nat := bitsN (r.w 1) 40 3
/-- Inline successors. -/
def TaskRec.succs (r : TaskRec) : List Word := (r.words.drop 5).take (bitsN (r.w 1) 44 4)
/-- Owning context. -/
def TaskRec.ctx (r : TaskRec) : Nat := bitsN (r.w 13) 56 6
/-- Relay count. -/
def TaskRec.relays (r : TaskRec) : Nat := bitsN (r.w 13) 48 8
/-- Instance number. -/
def TaskRec.inst (r : TaskRec) : Nat := bitsN (r.w 13) 32 16
/-- Generation of the owning context at creation. -/
def TaskRec.gen (r : TaskRec) : Nat := bitsN (r.w 13) 16 16
/-- Fail cause. -/
def TaskRec.failCause (r : TaskRec) : Nat := bitsN (r.w 13) 5 9
/-- Fail flag. -/
def TaskRec.failFlag (r : TaskRec) : Bool := bitN (r.w 13) 4
/-- Signalled. -/
def TaskRec.signalled (r : TaskRec) : Bool := bitN (r.w 13) 3
/-- State as TSTAT reports it. -/
def TaskRec.state (r : TaskRec) : Nat := bitsN (r.w 13) 0 3
/-- The record belongs to an instance. -/
def TaskRec.isMember (r : TaskRec) : Bool := bitN (r.w 14) 12
/-- Template id of a member. -/
def TaskRec.tid (r : TaskRec) : Nat := bitsN (r.w 14) 0 12
/-- Tasks of the instance neither done nor failed, in member 0. -/
def TaskRec.live (r : TaskRec) : Nat := bitsN (r.w 14) 32 32
/-- Replaces a word of a record. -/
def TaskRec.setW (r : TaskRec) (i : Nat) (f : Word → Word) : TaskRec := { r with words := updAt r.words i f }
/-- Replaces the state of a record. -/
def TaskRec.setState (r : TaskRec) (n : Nat) : TaskRec := r.setW 13 fun w => putBits w 0 3 n
/-- The two words of a binding (17 R305). -/
def TaskRec.binding (r : TaskRec) (b : Nat) : Word × Word := (r.w (16 + 2 * b), r.w (17 + 2 * b))
/-- The handle of a record of a package. -/
def TaskRec.handle (r : TaskRec) (pkg : Nat) : Word := handleOf pkg r.die r.idx r.gen

/-- The record at an index of a die, in use or retained. -/
def State.rec? (s : State) (die idx : Nat) : Option TaskRec := s.recs.find? fun r => r.die == die && r.idx == idx
/-- Replaces a record. -/
def State.setRec (s : State) (die idx : Nat) (f : TaskRec → TaskRec) : State :=
  { s with recs := updFirst (fun r => r.die == die && r.idx == idx) f s.recs }
/-- The record that a handle of this package names, unless the handle is stale. -/
def State.target (s : State) (h : Word) : Option TaskRec :=
  match s.rec? (hDie h) (hRec h) with
  | some r => if hPkg h = s.pkgNum ∧ r.gen = hGen h then some r else none
  | none => none
/-- Job tag of a context. -/
def State.tagOf (s : State) (c : Nat) : Nat :=
  match s.ctx? c with
  | some x => x.tag
  | none => 0
/-- The check of a handle for a party of a job (15 R283, R284). -/
def State.handleCause (s : State) (tag : Nat) (h : Word) : Option Nat :=
  if !s.handleWf h then some 0x100
  else match s.target h with
    | some r => if s.tagOf r.ctx = tag then none else some 0x101
    | none => none
/-- Restarts a context's stall watchdog timer (17 R322). -/
def State.progress (s : State) (c : Nat) : State := s.setCtx c fun x => { x with watch := 0 }

/-! ## Bindings (17 R305) -/

/-- Mode of a binding word. -/
def bMode (w : Word) : Nat := bitsN w 43 2
/-- Rows of a prefetch. -/
def bRows (w : Word) : Nat := bitsN w 0 12 + 1
/-- Row bytes of a prefetch. -/
def bRow (w : Word) : Nat := 16 * (bitsN w 12 12 + 1)
/-- Source pitch of a prefetch. -/
def bPitch (w : Word) : Nat := if bitsN w 24 16 = 0 then bRow w else 16 * bitsN w 24 16
/-- Window of a prefetch. -/
def bWindow (w : Word) : Nat := bitsN w 40 3
/-- Direction of a stream binding: true for output. -/
def bOut (w : Word) : Bool := bitN w 46
/-- Shape of a stream binding: true for V. -/
def bVec (w : Word) : Bool := bitN w 47
/-- Register of a stream binding. -/
def bReg (w : Word) : Nat := bitsN w 48 3
/-- Autobind. -/
def bAuto (w : Word) : Bool := bitN w 51
/-- Buffer exponent of a stream input. -/
def bBuf (w : Word) : Nat := bitsN w 52 4
/-- The consumer's binding index of a stream output. -/
def bPeer (w : Word) : Nat := bitsN w 56 3

/-- Two elements of a list are equal. -/
def hasTwice : List Nat → Bool
  | [] => false
  | a :: l => l.contains a || hasTwice l

/-- A prefetch binding within its limits that do not depend on the shape. -/
def prefetchOk (a w : Word) : Bool :=
  decide (bitsN w 46 18 = 0) && decide (bRows w * bRow w ≤ 65536) &&
    (decide (bitsN w 24 16 = 0) || decide (bRow w ≤ bPitch w)) && decide (bitsN a 0 4 = 0) && decide (bitsN a 56 8 = 0)

/-- A stream binding within its limits, in a task of a gang size. -/
def State.streamOk (s : State) (gang : Nat) (a w : Word) : Bool :=
  decide (bitsN w 0 43 = 0) && !bitN w 45 && decide (bitsN w 59 5 = 0) && decide (gang = 1) &&
    (if bOut w then decide (bBuf w = 0) && s.handleWf a && decide (hPkg a = s.pkgNum)
     else decide (4 ≤ bBuf w) && decide (bBuf w ≤ 8) && decide (a = 0) && decide (bPeer w = 0))

/-- A binding within its limits that do not depend on the shape. -/
def State.bindingOk (s : State) (gang : Nat) (b : Word × Word) : Bool :=
  match bMode b.2 with
  | 0 => decide (b.1 = 0) && decide (b.2 = 0)
  | 1 => prefetchOk b.1 b.2
  | 2 => s.streamOk gang b.1 b.2
  | _ => false

/-- The eight bindings of a record's words. -/
def bindingsOf (ws : List Word) : List (Word × Word) :=
  (List.range 8).map fun b => (ws.getD (16 + 2 * b) 0, ws.getD (17 + 2 * b) 0)

/-- The prefetch windows of bindings. -/
def windowsOf (bs : List (Word × Word)) : List Nat := (bs.filter fun b => bMode b.2 = 1).map fun b => bWindow b.2
/-- The autobind registers of bindings. -/
def autosOf (bs : List (Word × Word)) : List Nat := (bs.filter fun b => bMode b.2 = 2 && bAuto b.2).map fun b => bReg b.2

/-! ## Checks of an image (15 R287, 17 R304, R305) -/

/-- The causes of an image's fields that need neither the descriptor nor the overflow list (15 R287 step 3). Log 42 (DEDUCED). -/
def State.imageCauses (s : State) (chk : Word → Option Nat) (ws : List Word) : List Nat :=
  let w (i : Nat) : Word := ws.getD i 0
  let n := bitsN (w 1) 44 4
  let gang := bitsN (w 1) 32 5
  let bs := bindingsOf ws
  let bad : Bool := decide (bitsN (w 1) 48 16 ≠ 0) || bitN (w 1) 43 || decide (bitsN (w 1) 37 3 ≠ 0) || decide (8 < n) ||
    ((List.range 8).any fun j => decide (n ≤ j) && decide (w (5 + j) ≠ 0)) || decide (bitsN (w 3) 13 51 ≠ 0) ||
    (decide (w 2 = 0) && decide (bitsN (w 3) 0 13 ≠ 0)) || decide (w 15 ≠ 0) || bs.any (fun b => !s.bindingOk gang b) ||
    hasTwice (windowsOf bs) || hasTwice (autosOf bs)
  (if bad then [0x0C9] else []) ++
    (((List.range 8).filter (· < n)).filterMap fun j => chk (w (5 + j))) ++
    (if bitsN (w 0) 0 6 ≠ 0 ∨ bitsN (w 0) 56 8 ≠ 0 then [0x106] else []) ++
    (if gang = 0 ∨ 16 < gang then [0x107] else []) ++
    (if bitsN (w 2) 0 6 ≠ 0 ∨ bitsN (w 2) 56 8 ≠ 0 ∨ 4096 < bitsN (w 3) 0 13 then [0x10C] else [])

/-- The lowest of a list of causes. Log 26 (DEDUCED). -/
def lowestN : List Nat → Option Nat
  | [] => none
  | a :: l =>
    match lowestN l with
    | none => some a
    | some b => some (if b < a then b else a)

/-- A kernel descriptor of its eight words, or none where it is malformed (17 R306). Log 43 (DEDUCED). -/
def parseDesc (ws : List Word) : Option KDesc :=
  let w0 := ws.getD 0 0
  let w1 := ws.getD 1 0
  let sh : KShape := ⟨bitsN w1 0 4, bitsN w1 4 4, bitsN w1 8 5, bitsN w1 16 4, bitsN w1 20 4⟩
  if bitsN w0 56 8 = 0 ∧ bitsN w1 24 40 = 0 ∧ bitsN w1 13 3 = 0 ∧ 1 ≤ sh.lanes ∧ sh.lanes ≤ 8 ∧ sh.windows ≤ 8 ∧
      sh.acc ≤ 16 ∧ sh.rings ≤ 8 ∧ sh.streams ≤ 8 ∧ (ws.drop 2).all (· = 0) then
    some ⟨w0, sh⟩
  else none

/-- Bytes of an element of a stream (08 R189). -/
def elemBytes (vec : Bool) (lanes : Nat) : Nat := if vec then 128 * lanes else 8

/-- Bytes of the edge part of a tile that a task's input buffers take (17 R316). -/
def edgeBytes (lanes : Nat) (bs : List (Word × Word)) : Nat :=
  sumN ((bs.filter fun b => bMode b.2 = 2 && !bOut b.2).map fun b => roundUp (2 ^ bBuf b.2 * elemBytes (bVec b.2) lanes) 4096)

/-- The edge part of a tile (17 R316). -/
def edgePart (tile : Nat) : Nat := if isMTile tile then 262144 else 1048576

/-! ## The sites of the tiles (00 R2, R5; 14 R275) -/

/-- The number that stands for no site: retirement has taken the tile's and no spare is left (14 R275). -/
def noSite : Nat := 63

/-- Gives the logical tiles of a kind a site each, no two the same; what is left over is spare (00 R2, R5). -/
def drawSites (die : Nat) : List Nat → List Nat → List (Nat × Nat) × List Nat
  | [], left => ([], left)
  | t :: ts, left =>
    match left[Config.siteOf (die * 64 + t) % left.length]? with
    | none => ([], left)
    | some x =>
      let r := drawSites die ts (left.erase x)
      ((t, x) :: r.1, r.2)

/-- The sites of a die's M-tiles among the 42, and of its V-tiles among the 17 after them (00 R2, R5; 22 R409). -/
def sitesM (die : Nat) : List (Nat × Nat) × List Nat := drawSites die (List.range 40) (List.range 42)
/-- As `sitesM` for the V-tiles. -/
def sitesV (die : Nat) : List (Nat × Nat) × List Nat :=
  drawSites die ((List.range 16).map (40 + ·)) ((List.range 17).map (42 + ·))

/-- The spare sites of a die that are not fused off: at most two for M-tiles and one for V-tiles (00 R2, R5). Log 88 (DEDUCED); 107 (DESIGN CHOICE); 132 (DESIGN CHOICE). -/
def spareSites (die : Nat) : List Nat := ((sitesM die).2 ++ (sitesV die).2).filter fun x => !Config.fusedOff (die * 64 + x)

/-- The site that serves a logical tile. -/
def State.siteNow (s : State) (die tile : Nat) : Nat :=
  match s.spares.find? fun x => x.1 == die * 64 + tile with
  | some x => x.2
  | none => (((sitesM die).1 ++ (sitesV die).1).find? fun x => x.1 == tile).elim noSite Prod.snd

/-- A tile macro of a site of a die has been retired (14 R275, R409). -/
def State.siteRetired (s : State) (die site : Nat) : Bool :=
  s.retired.any fun u => decide (bitsN u 0 4 = 0) && decide (bitsN u 8 2 = die) && decide (bitsN u 16 6 = site)

/-- A logical tile that the dispatcher binds nothing to: its site is retired and no spare serves it (14 R275). Log 88 (DEDUCED). -/
def State.tileDead (s : State) (die tile : Nat) : Bool :=
  !s.retired.isEmpty && (s.spares.contains (die * 64 + tile, noSite) || s.siteRetired die (s.siteNow die tile))

/-- A tile that tasks are bound on can hold a shape (07 R140). -/
def State.tileHolds (s : State) (die tile : Nat) (sh : KShape) : Bool :=
  !s.tileDead die tile && (isMTile tile || decide (sh.acc ≤ 4))

/-- Some tile of a die can hold a shape (07 R140). -/
def State.dieHolds (s : State) (die : Nat) (sh : KShape) : Bool := (List.range 56).any fun t => s.tileHolds die t sh

/-- The causes of an image against a shape (15 R287 step 5): registers and windows beyond it, and a shape, or input buffers, that
no tile of the package can hold. -/
def State.shapeCauses (s : State) (sh : KShape) (ws : List Word) : List Nat :=
  let bs := bindingsOf ws
  (if (windowsOf bs).any (sh.windows ≤ ·) || (autosOf bs).any (sh.streams ≤ ·) then [0x0C9] else []) ++
    (if (List.range 4).any fun d => (List.range 56).any fun t => s.tileHolds d t sh && decide (edgeBytes sh.lanes bs ≤ edgePart t)
      then [] else [0x107])

/-- A party that is no group reads a kernel descriptor at a die (17 R306): it, or the cause and address. -/
def State.readDesc (s : State) (die c va : Nat) : Except (Nat × Nat) (KDesc × State) :=
  match s.ctxRead (some die) c va 64 .load true with
  | .error e => .error (e.2, e.1)
  | .ok (bs, s') =>
    match parseDesc (bytesWords 8 bs) with
    | none => .error (0x106, va)
    | some kd => .ok (kd, s')

/-! ## Taking records (17 R307) -/

/-- The records an effect holds. -/
def Effect.recHolds : Effect → List RecHold
  | .tspawn h => [h]
  | .tinst _ _ recs _ _ => recs
  | _ => []

/-- The number of the graph instance that an effect makes. -/
def Effect.instNum : Effect → Nat
  | .tinst _ num _ _ _ => num
  | _ => 0

/-- The records held by blocks that run. -/
def State.recHolds (s : State) : List (Group × RecHold) := s.heldEffects.flatMap fun e => e.2.recHolds.map fun h => (e.1, h)

/-- The record reserved for a context's handler (14 R279). -/
def State.isHandlerRec (s : State) (die idx : Nat) : Bool := die == 0 && s.ctxs.any fun c => c.handlerRec == some idx

/-- The instance of a record is live (17 R307). -/
def State.liveInst (s : State) (r : TaskRec) : Bool :=
  r.isMember && match s.ctx? r.ctx with
    | some c => c.ginsts.any fun g => g.tid == r.tid && g.num == r.num && !g.complete
    | none => false

/-- Retained records of a die that may be retaken, in the order in which their tasks ended; the handlers' reserved records
are not among them (14 R279). -/
def State.retakable (s : State) (die : Nat) : List TaskRec :=
  sortBy (fun a b => decide (a.retained.getD 0 < b.retained.getD 0))
    (s.recs.filter fun r => r.die == die && r.retained.isSome && !s.liveInst r && !s.isHandlerRec die r.idx)

/-- The record's task-memory macro has been disabled (14 R275). -/
def State.recDisabled (s : State) (die idx : Nat) : Bool :=
  s.retired.any fun u => decide (bitsN u 0 4 = 2) && decide (bitsN u 8 2 = die) && decide (bitsN u 16 4 = Config.recMacro idx % 16)

/-- The records of a die that count against a context's cap: its own, and those that running blocks, or the instruction itself
(`more`), will take beside them (17 R307). -/
def State.recCount (s : State) (die c : Nat) (more : List Nat) : Nat :=
  let own := s.recs.filter fun r => r.die == die && r.ctx == c && !s.isHandlerRec die r.idx
  let held := (s.recHolds.filter fun h => h.2.die = die ∧ h.1.ctx = c).map fun h => h.2.idx
  own.length + ((more ++ held).filter fun i => !own.any fun r => r.idx == i).length

/-- Chooses a record of a die for a context; `more` lists indexes already chosen by the same instruction. -/
def State.takeRec (s : State) (die c : Nat) (more : List Nat) : Option Nat :=
  let held := (s.recHolds.filter fun h => h.2.die = die)
  let heldIdx := more ++ held.map fun h => h.2.idx
  let busy (i : Nat) : Bool := heldIdx.contains i || (s.rec? die i).isSome || s.isHandlerRec die i || s.recDisabled die i
  let cap := match s.ctx? c with
    | some x => x.cap
    | none => 0
  let again := (s.retakable die).filter fun r => !heldIdx.contains r.idx && !s.recDisabled die r.idx
  if cap ≠ 0 ∧ cap ≤ s.recCount die c more then (again.find? fun r => r.ctx == c).map fun r => r.idx
  else
    let pick := Config.choice s.fresh % 131072
    if !busy pick then some pick
    else match (List.range 131072).find? fun i => !busy i with
      | some i => some i
      | none => again.head?.map fun r => r.idx

/-- The words of a record at its creation (17 R304). -/
def recWords (ws : List Word) (c gen inst : Nat) (member : Bool) (tid live : Nat) : List Word :=
  let ready := bitsN (ws.getD 1 0) 0 32 = 0
  (((ws.take 32 ++ List.replicate (32 - ws.length) 0).set 13
    (wordN (c * 2 ^ 56 + inst % 65536 * 2 ^ 32 + gen % 65536 * 2 ^ 16 + if ready then 1 else 0))).set 14
    (wordN ((if member then tid + 4096 else 0) + live * 2 ^ 32)))

/-- A record created from its words (15 R287 step 7), of an instance of the template of a number if it is a member: a counter of
zero makes it ready at once. -/
def State.createRec (s : State) (die idx : Nat) (words : List Word) (num : Nat) : State :=
  let r : TaskRec := ⟨die, idx, words, none, [], [], [], [], s.cycle, 0, 0, 0, none, [], [], num⟩
  ({ s with recs := r :: s.recs.filter fun x => !(x.die == die && x.idx == idx) } : State).progress r.ctx

/-! ## Decrements (17 R308, R319, R321) -/

/-- Counts dropped units of decrement in the live context of the sender's job (17 R321). Log 138 (DEDUCED). -/
def State.countDrop (s : State) (tag n : Nat) : State :=
  match s.ctxs.find? fun c => c.tag == tag with
  | some c => s.setCtx c.slot fun x => { x with counters := { x.counters with dropDec := x.counters.dropDec + n } }
  | none => s

/-- A Bridle command, a RoCEv2 access or a UALink message wakes the device (22 R403). -/
def State.woken (s : State) : State := { s with pstate := .p0 }

/-- A message that names its package arrives: one of another package wakes the device, and one of a package that had failed
comes from its spare, to which what waited now goes, and whose own decrements are numbered anew (22 R402, R403). Log 102 (DEDUCED). -/
def State.heard (s : State) (pkg : Nat) : State :=
  if pkg = s.pkgNum then s
  else
    let s := s.woken
    if s.failedPkgs.contains pkg then
      { s with
        failedPkgs := s.failedPkgs.filter (· != pkg)
        applied := s.applied.filter fun a => a.1 != pkg
        outbox := s.outbox ++ (s.stalled.filter fun x => x.1 == pkg).map Prod.snd
        stalled := s.stalled.filter fun x => x.1 != pkg }
    else s

/-- A package outside the pod (17 R319). -/
def State.outside (s : State) (pkg : Nat) : Bool := decide (pkg ≠ s.pkgNum) && !s.pod.contains pkg

/-- Sends a decrement of a context from a die, `hold` the key of a TDEC's hold: a release of the scope that holds both dies (11 R232), then the message,
which the context counts where it leaves the package (21 R389). -/
def State.sendDec (s : State) (die : Nat) (h : Word) (n : Nat) (fail : Option Nat) (c : Nat) (hold : Option Nat) : State :=
  let s := if hPkg h = s.pkgNum ∧ hDie h = die then s else s.writeBack die
  if hPkg h = s.pkgNum then
    { s with decs := s.decs ++ [⟨s.keys, h, n, fail, s.tagOf c, hold.isSome⟩], keys := s.keys + 1 }
  else
    let s := s.setCtx c fun x => { x with sent := x.sent + 1 }
    { s.toPod (hPkg h) (.decrement h n fail (s.tagOf c) s.keys hold) with keys := s.keys + 1 }

/-- The decrements of a task's overflow list, entry by entry (17 R309); `n` are left. Log 147 (DESIGN CHOICE). -/
def State.overflowDecs (s : State) (r : TaskRec) (fail : Option Nat) : Nat → Nat → State
  | _, 0 => s
  | va, n + 1 =>
    let stop (s : State) (under : Nat) : State :=
      s.looseRecord r.ctx { cause := 0x10C, va := va, under := under } (r.handle s.pkgNum)
    match s.ctxRead (some r.die) r.ctx va 8 .load true with
    | .error e => stop s e.2
    | .ok (bs, s') =>
      let h := wordN (ofBytes bs)
      if s'.handleWf h then (s'.sendDec r.die h 1 fail r.ctx none).overflowDecs r fail (va + 8) n
      else stop s' 0

/-- A task's successor decrement waits: a lease covers what its release writes back (11 R226), or a page of its overflow list
is to be committed by a touch while a change of it is not complete (14 R270). Log 54 (DEDUCED). -/
def State.decsWait (s : State) (h : Word) : Bool :=
  s.backBlocked none (hDie h) || (match s.target h with
    | none => false
    | some r => !r.signalled && (List.range (bitsN (r.w 3) 0 13)).any fun i =>
        let va := (r.w 2).toNat + 8 * i
        s.pageChanging r.ctx va && (match s.translate r.ctx va .load with
          | .touch => true
          | _ => false))

/-- The successor decrement of a task, made once (17 R309); `fail` makes it a failure decrement (17 R308). -/
def State.signalTask (s : State) (die idx : Nat) (fail : Option Nat) : State :=
  match s.rec? die idx with
  | none => s
  | some r =>
    if r.signalled then s
    else
      let s := s.setRec die idx fun r => r.setW 13 fun w => putBit w 3 true
      let s := r.succs.foldl (fun s h => s.sendDec die h 1 fail r.ctx none) s
      s.overflowDecs r fail (r.w 2).toNat (bitsN (r.w 3) 0 13)

/-- A graph instance completes: its buffers return to the heap as by FREE, a release of scope .pkg (11 R221, R233), then its
completion handle is decremented (15 R290). -/
def State.completeInst (s : State) (die c tid num : Nat) : State :=
  match s.ctx? c with
  | none => s
  | some x =>
    match x.ginsts.find? fun g => g.tid == tid && g.num == num && !g.complete with
    | none => s
    | some g =>
      let s := (if g.bufs.isEmpty then s else s.writeBack die).setCtx c fun x =>
        { x with
          allocs := x.allocs.filter fun a => !g.bufs.any fun b => b.1 == a.1
          ginsts := x.ginsts.map fun y => if y.tid = tid ∧ y.num = g.num then { y with complete := true } else y }
      if g.done = 0 then s else s.sendDec die g.done 1 none c none

/-- A member of an instance has ended: Live of its first record falls, and at zero the instance completes (17 R318). -/
def State.memberEnded (s : State) (r : TaskRec) (failed : Bool) : State :=
  match s.ctx? r.ctx with
  | none => s
  | some x =>
    match x.ginsts.find? fun g => g.tid == r.tid && g.num == r.num && !g.complete with
    | none => s
    | some g =>
      let s := s.setCtx r.ctx fun x => { x with
        ginsts := x.ginsts.map fun y => if y.tid = g.tid ∧ y.num = g.num then { y with failed := y.failed || failed } else y }
      let s := s.setRec (hDie g.first) (hRec g.first) fun q => q.setW 14 fun w => putBits w 32 32 (bitsN w 32 32 - 1)
      match s.rec? (hDie g.first) (hRec g.first) with
      | some q => if q.live = 0 then s.completeInst r.die r.ctx r.tid r.num else s
      | none => s

/-- Every group of a bound task has retired (17 R310). -/
def TaskRec.endDue (r : TaskRec) : Bool := (decide (r.state = 4) || decide (r.state = 5)) && decide (r.groupsLeft = 0)

/-- A task ends, done or failed (17 R310): state, order of ending, counters, successors, instance. A task whose groups have all
signalled decrements its successors as one that is done, though one was killed since (15 R295, 18 R335). Log 54 (DEDUCED). -/
def State.endTask (s : State) (die idx : Nat) (fail : Option Nat) : State :=
  match s.rec? die idx with
  | none => s
  | some r =>
    let s := s.setRec die idx fun r =>
      { (r.setW 13 fun w => putBits (putBits w 0 3 (if fail.isSome then 7 else 6)) 5 9 (fail.getD 0)) with
        retained := some s.ended, staging := [], tiles := [], kept := [] }
    let s := { s with ended := s.ended + 1 }
    let s := s.setCtx r.ctx fun c =>
      { c with
        counters := if fail.isSome then { c.counters with failed := c.counters.failed + 1 }
          else { c.counters with done := c.counters.done + 1 }
        handlerLive := c.handlerLive && !(die == 0 && c.handlerRec == some idx) }
    let s := s.signalTask die idx (if r.signals = r.gang then none else fail)
    if r.isMember then s.memberEnded r fail.isSome else s

/-- Applies a decrement at its record (17 R308, R319; 15 R286). -/
def State.applyDec (s : State) (d : DecGoing) : State :=
  match s.target d.handle with
  | none => s.countDrop d.tag d.n
  | some r =>
    if s.tagOf r.ctx ≠ d.tag then s.countDrop d.tag d.n
    else if r.counter = 0 then s.countDrop d.tag d.n
    else
      let k := if d.n < r.counter then d.n else r.counter
      let s := if k < d.n then s.countDrop d.tag (d.n - k) else s
      let s := (s.progress r.ctx).setRec r.die r.idx fun r =>
        let r := r.setW 1 fun w => putBits w 0 32 (bitsN w 0 32 - k)
        match d.fail with
        | some c => r.setW 13 fun w => putBits (putBit w 4 true) 5 9 c
        | none => r
      if r.counter - k ≠ 0 ∨ r.state ≠ 0 then s
      else if r.failFlag || d.fail.isSome then s.endTask r.die r.idx (some (d.fail.getD r.failCause))
      else s.setRec r.die r.idx fun r => { r.setState 1 with readyAt := s.cycle }

/-! ## Task edges (17 R315) -/

/-- The consumer of an output binding: its handle and binding index. -/
def TaskRec.peerOf (r : TaskRec) (b : Nat) : Word × Nat := ((r.binding b).1, bPeer (r.binding b).2)

/-- The group of a task of gang size 1. -/
def State.groupOf (s : State) (task : Word) : Option Group := s.groups.find? fun g => g.task == task

/-- The record of a group's task. -/
def State.recOf (s : State) (g : Group) : Option TaskRec := s.target g.task

/-- The producer ends an edge: its consumer's buffer is marked, or its record until it is bound. -/
def State.endEdge (s : State) (r : TaskRec) (b : Nat) : State :=
  let p := r.peerOf b
  match (s.target p.1).filter fun c => c.ctx == r.ctx with
  | none => s
  | some c =>
    let s := s.setRec c.die c.idx fun c => { c with edgesEnded := p.2 :: c.edgesEnded }
    match s.groupOf p.1 with
    | none => s
    | some g => s.setGroup g.place fun g =>
      { g with edges := g.edges.map fun e => if e.bind = p.2 then { e with ended := true } else e }

/-- The output bindings of a record. -/
def TaskRec.outputs (r : TaskRec) : List Nat :=
  (List.range 8).filter fun b => bMode (r.binding b).2 = 2 && bOut (r.binding b).2

/-- A group's output streams end (17 R315). -/
def State.endOutputs (s : State) (g : Group) : State :=
  match s.recOf g with
  | some r => r.outputs.foldl (fun (s : State) b => s.endEdge r b) s
  | none => s

/-- The group at the far end of an output binding of a group, while it is bound; an edge joins tasks of one context
(17 R315). -/
def State.edgePeer (s : State) (g : Group) (b : Nat) : Option Group :=
  match s.recOf g with
  | some r => (s.groupOf (r.peerOf b).1).filter fun q => q.ctx == g.ctx
  | none => none

/-- The consumer's side of a producer's output binding agrees: an input of the same shape in a task of the same context,
each of one group, with as many lanes for V (17 R315); a consumer's descriptor that cannot be read is not checked. Log 50 (DEDUCED). -/
def State.edgeAgrees (s : State) (r : TaskRec) (b lanes : Nat) : Bool :=
  let p := r.peerOf b
  let w := (r.binding b).2
  match s.target p.1 with
  | none => false
  | some c =>
    let cw := (c.binding p.2).2
    decide (bMode cw = 2) && !bOut cw && (bVec cw == bVec w) && (c.ctx == r.ctx) && (c.gang == 1) && (r.gang == 1) &&
      (!bVec w ||
        (match s.groupOf p.1 with
          | some g => decide (g.shape.lanes = lanes)
          | none =>
            match s.readDesc c.die c.ctx (c.w 0).toNat with
            | .ok (kd, _) => decide (kd.shape.lanes = lanes)
            | .error _ => true))

/-! ## Retirement and signals (08 R165; 15 R295; 17 R310) -/

/-- A context's page commands of a group are still to be performed. -/
def State.pageBusy (s : State) (g : Group) : Bool :=
  match s.ctx? g.ctx with
  | some c => c.pageCmds.any fun q => q.who == g.place
  | none => false

/-- Every store and command of a group has been performed. -/
def State.quiet (s : State) (g : Group) : Bool := g.sb.isEmpty && g.mq.isEmpty && g.cq.isEmpty && g.reports.isEmpty && !s.pageBusy g

/-- The window of 17 R313's deficit: 1,048,576 cycles of the 2.0 GHz clock, of which one is two of `sr.cycle`'s. -/
def slotWindow : Nat := 2 * 1048576

/-- The aging step of 17 R313: 65,536 cycles of the 2.0 GHz clock, of which one is two of `sr.cycle`'s (12 R254). -/
def aging : Nat := 2 * 65536

/-- A runnable task that has waited 8A (17 R313). -/
def State.overdue (s : State) (r : TaskRec) : Bool := decide (r.state = 3) && decide (8 * aging ≤ s.cycle - r.readyAt)

/-- An overdue task is placed on a tile. -/
def State.overdueOn (s : State) (die tile : Nat) : Bool :=
  s.recs.any fun r => r.die == die && r.tiles.contains tile && s.overdue r

/-- Frames released on a tile are held for the overdue tasks placed there that are of their context (17 R313); the first of
them in order may bind with them. -/
def State.keepFrames (s : State) (g : Group) : State :=
  { s with recs := s.recs.map fun r =>
      if r.die = g.place.die ∧ r.ctx = g.ctx ∧ r.tiles.contains g.place.tile = true ∧ s.overdue r = true then
        { r with kept := g.reserve ++ r.kept }
      else r }

/-- A group leaves its slot: its reserve returns to the pool. Log 148 (DESIGN CHOICE). -/
def State.retire (s : State) (p : Place) : State :=
  match s.group? p with
  | none => s
  | some g =>
    let s := match s.recOf g with
      | some r =>
        s.setRec r.die r.idx fun r =>
          { r with
            groupsLeft := r.groupsLeft - 1
            anyKilled := match g.killed with
              | some c => some c
              | none => r.anyKilled }
      | none => s
    let s := (s.keepFrames g).giveFrames g.ctx g.reserve
    let s := s.setCtx g.ctx fun c => { c with slotLog := (g.boundAt, s.cycle) :: c.slotLog.filter fun x => decide (s.cycle < x.2 + slotWindow) }
    { s with groups := s.groups.filter fun x => !(x.place == p) }

/-- A group whose END has committed, or that was killed, retires once its work is done (08 R165). Log 53 (DEDUCED). -/
def State.tryRetire (s : State) (p : Place) : State :=
  match s.group? p with
  | some g => if g.phase = .ended ∧ s.quiet g then s.retire p else s
  | none => s

/-- A kill drops a command that a group issued before it signalled, or meets one that stopped before its END: that signal's
decrement can no longer follow its commands (15 R295). Log 54 (DEDUCED). -/
def Group.losesSignal (g : Group) : Bool :=
  match g.sigAt with
  | none => false
  | some (k, _) =>
    (match g.phase with
      | .parked .ended _ => true
      | _ => false) ||
    ((g.mq.any fun c => c.stop.isSome) && g.mq.any fun c => decide (c.tag.seq < k)) ||
    g.cq.any fun c => c.stop.isSome && decide (c.tag.seq < k)

/-- GKILL (14 R280): stopped and held commands are dropped; what runs is completed, then the group retires. Log 53 (DEDUCED); 54 (DEDUCED). -/
def State.kill (s : State) (p : Place) : State :=
  let s := match s.group? p with
    | some g =>
      let s := s.endOutputs g
      match s.recOf g with
      | some r => if g.losesSignal then s.setRec r.die r.idx fun r => { r with signals := r.signals - 1 } else s
      | none => s
    | none => s
  let s := s.setGroup p fun g =>
    { g with
      phase := .ended, run := none, ahead := none, prep := none, reports := [], link := []
      killed := some (bitsN g.cause 0 9)
      mq := if g.mq.any fun c => c.stop.isSome then [] else g.mq
      cq := g.cq.filter fun c => c.stop.isNone }
  (s.drainSb p).tryRetire p

/-- A group has signalled, and the stores and commands before its signal have been performed (11 R232, 15 R295, 18 R331).
Log 54 (DEDUCED). -/
def State.signalDone (s : State) (g : Group) : Bool :=
  match g.sigAt with
  | none => false
  | some (k, n) => decide (n ≤ g.performed) && (g.mq.all fun c => decide (k ≤ c.tag.seq)) && (g.cq.all fun c => decide (k ≤ c.tag.seq)) &&
    (match s.ctx? g.ctx with
      | some x => x.pageCmds.all fun q => q.who != g.place || decide (k ≤ q.tag.seq)
      | none => true)

/-- Every group of a task has signalled, and the decrement that follows may be made before the task completes (15 R295). Log 54 (DEDUCED). -/
def State.signalDue (s : State) (r : TaskRec) (task : Word) : Bool :=
  let gs := s.groups.filter fun g => g.task == task
  !r.signalled && decide (r.signals = r.gang) && (gs.all s.signalDone) && gs.any fun g => decide (g.phase ≠ .ended)

/-- A task whose groups have all signalled decrements its successors once the commands before the signals have
completed, unless its completion is to do so (15 R295); a group that has been killed has signalled all the same (18 R335). Log 54 (DEDUCED). -/
def State.checkSignal (s : State) (task : Word) : State :=
  match s.target task with
  | none => s
  | some r => if s.signalDue r task && !s.decsWait task then s.signalTask r.die r.idx none else s

/-- A group signals at its commit, once (15 R295). Log 54 (DEDUCED). -/
def State.signalGroup (s : State) (p : Place) : State :=
  match s.group? p with
  | none => s
  | some g =>
    if g.sigAt.isSome then s
    else
      let s := s.setGroup p fun g => { g with sigAt := some (g.cmdSeq, g.entered) }
      match s.recOf g with
      | some r => s.setRec r.die r.idx fun r => { r with signals := r.signals + 1 }
      | none => s

/-- What follows the completion of a store or command of a group: retirement and signals. -/
def State.afterWork (s : State) (p : Place) : State :=
  match s.group? p with
  | none => s
  | some g => (s.checkSignal g.task).tryRetire p

end Sys2Proof.Machine
end

