-- ==== Sys2Proof/Machine/Task.lean ====
section
/-!
DEFINITION. Machine/Task.lean: the task instructions as a block resolves them (15 R286 to R292; 17 R318).
-/
namespace Sys2Proof.Machine

/-! ## Shared parts -/

/-- Goes on once the dispatcher has answered the instruction's probe (15 R286). Log 46 (DESIGN CHOICE); 47 (DEDUCED). -/
def Env.probed (e : Env) (k : Fire) : Fire := if e.n.answered.isSome then k else .wait

/-- A record of another package, for which its dispatcher's answer was a cause (15 R286, R298). Log 113 (DESIGN CHOICE). -/
def Env.farCause (e : Env) (h : Word) (c : Nat) : Bool := decide (hPkg h ≠ e.s.pkgNum) && e.n.answered == some c

/-- Job tag of the issuer's context. -/
def Env.tagOf (e : Env) : Nat := e.s.tagOf e.g.ctx

/-- A record created by a lower-LSID instruction of the block that a handle names (15 R287). -/
def Env.newRec (e : Env) (h : Word) : Option TaskRec :=
  ((e.lower.flatMap fun n => n.eff.recHolds.map fun x => (x, n.eff.instNum)).find? fun x =>
    hPkg h == e.s.pkgNum && hDie h == x.1.die && hRec h == x.1.idx && hGen h == e.g.gen % 65536).map fun x =>
      ⟨x.1.die, x.1.idx, x.1.words, none, [], [], [], [], 0, 0, 0, 0, none, [], [], x.2⟩

/-- The record a handle names for the block. -/
def Env.target (e : Env) (h : Word) : Option TaskRec :=
  match e.newRec h with
  | some r => some r
  | none => e.s.target h

/-- The check of a handle (15 R283, R284); a record the block creates is the issuer's own. -/
def Env.handleCause (e : Env) (h : Word) : Option Nat :=
  if (e.newRec h).isSome && e.s.handleWf h then none
  else match e.s.handleCause e.tagOf h with
    | some c => some c
    | none => if e.farCause h 0x101 then some 0x101 else none

/-- The 64 KiB pages of a range, an address in each. -/
def spanPages (va n : Nat) : List Nat :=
  (List.range ((va % 65536 + n) / 65536 + 1)).map fun i => if i = 0 then va else va / 65536 * 65536 + i * 65536

/-- Reads units of 8 bytes as a load of the group: the bytes, or what stops it. Log 121 (DEDUCED). -/
def Env.loadUnits (e : Env) : Nat → Nat → Except Fire (List Byte)
  | _, 0 => .ok []
  | va, n + 1 =>
    match gaddrCause va 8 with
    | some c => .error (.fault c va .load)
    | none =>
      match e.s.translate e.g.ctx va .load with
      | .fault c => .error (.fault c va .load)
      | .touch => .error (.touch va .load)
      | .ok pa =>
        match e.readPhys e.s false pa 8 with
        | (_, some i) => .error (.fault 0x08C ((va + i) / 64 * 64) .load)
        | (bs, none) =>
          match e.loadUnits (va + 8) n with
          | .ok l => .ok (bs ++ l)
          | .error f => .error f

/-- The lines of such units as the die holds them after the read; another package is asked for its own (10 R206, R213).
Log 140 (DEDUCED). -/
def Env.bring (e : Env) : Nat → Nat → State → State
  | _, 0, s => s
  | va, n + 1, s =>
    match s.translate e.g.ctx va .load with
    | .ok pa => e.bring (va + 8) n (s.fetchLines e.die pa 8)
    | _ => s

/-- Reads a kernel descriptor as a load and goes on with it (15 R287, R293; 17 R306). -/
def Env.loadDesc (e : Env) (va : Nat) (k : KDesc → Fire) : Fire :=
  match e.loadUnits va 8 with
  | .error f => f
  | .ok bs =>
    match parseDesc (bytesWords 8 bs) with
    | none => .fault 0x106 va .none
    | some kd => k kd

/-- A cause of the chapter, or on. -/
def causeOr (c : Option Nat) (k : Fire) : Fire :=
  match c with
  | some x => .fault x 0 .none
  | none => k

/-! ## TSPAWN (15 R287) -/

/-- What the overflow list of an image comes to: the cause 0x10C, a touch, or nothing. Log 42 (DEDUCED). -/
def Env.overflowCheck (e : Env) (ws : List Word) : Except Fire (List Nat) :=
  let a := (ws.getD 2 0).toNat
  let n := bitsN (ws.getD 3 0) 0 13
  if a = 0 ∨ n = 0 ∨ a % 64 ≠ 0 ∨ 2 ^ 56 ≤ a ∨ 4096 < n then .ok []
  else match e.loadUnits a n with
    | .error (.touch va acc) => .error (.touch va acc)
    | .error _ => .ok [0x10C]
    | .ok bs => .ok (if (bytesWords n bs).any fun h => (e.handleCause h).isSome || e.farCause h 0x10C then [0x10C] else [])

/-- The first and last byte of the overflow list that an image names: it lies in no more than two pages. -/
def overflowEnds (ws : List Word) : List Nat :=
  let a := (ws.getD 2 0).toNat
  let n := bitsN (ws.getD 3 0) 0 13
  if a = 0 ∨ n = 0 then [] else [a, a + 8 * n - 1]

/-- The state once an overflow list that an image names has been read. Log 140 (DEDUCED). -/
def Env.bringOverflow (e : Env) (ws : List Word) (s : State) : State :=
  if overflowEnds ws = [] then s else e.bring (ws.getD 2 0).toNat (bitsN (ws.getD 3 0) 0 13) s

/-- The handles of the overflow list that an image names, as the block reads it (15 R287). -/
def Env.overflowHandles (e : Env) (ws : List Word) : List Word :=
  let n := bitsN (ws.getD 3 0) 0 13
  if ws.getD 2 0 = 0 ∨ 4096 < n then []
  else match e.loadUnits (ws.getD 2 0).toNat n with
    | .ok bs => bytesWords n bs
    | .error _ => []

/-- The handles that a task instruction probes (15 R286): its operand, or the successors of a TSPAWN's image (15 R287). -/
def Env.probeHandles (e : Env) : List Word :=
  match e.n.ins with
  | .tspawn _ _ _ _ =>
    match e.s.saddr e.g false (e.word .l) 0 256 64 with
    | .error _ => []
    | .ok a =>
      let ws := bytesWords 32 (e.readScr a 256).1
      ((List.range (bitsN (ws.getD 1 0) 44 4)).map fun j => ws.getD (5 + j) 0) ++ e.overflowHandles ws
  | _ => [e.word .l]

/-- The operands of a probe are known: TSPAWN's image is read as a load (15 R286, R287). -/
def Env.mayProbe (e : Env) : Bool :=
  match e.n.ins with
  | .tspawn _ _ _ _ => e.loadReady
  | _ => true

/-- TSPAWN (15 R287). -/
def execTspawn (c : Ctl) (lsid : BitVec 5) (given : Bool) (d : BitVec 2) (s : State) : Out1 :=
  settle (.tspawn c lsid given d) s fun e => e.probed <|
    e.scr false (e.word .l) 0 256 64 fun a => e.scrLoad a 256 fun bs =>
      let ws := bytesWords 32 bs
      let die := if given then d.toNat else e.die
      match e.overflowCheck ws with
      | .error f => f
      | .ok more =>
        causeOr (lowestN (e.s.imageCauses e.handleCause ws ++ more)) <|
          let va := (ws.getD 0 0).toNat
          e.loadDesc va fun kd =>
            causeOr (lowestN (e.s.shapeCauses kd.shape ws)) <|
              match e.s.takeRec die e.g.ctx [] with
              | none => .fault 0x103 0 .none
              | some idx =>
                .ok { s := e.bring va 8 (e.bringOverflow ws e.s.draw), res := .s (handleOf e.s.pkgNum die idx e.g.gen), pages := va :: overflowEnds ws
                      eff := .tspawn ⟨die, idx, recWords ws e.g.ctx e.g.gen 0 false 0 0⟩ }

/-! ## TDEC (15 R289) -/

/-- Units of decrement held on the counter that a handle names (15 R289). -/
def State.decHolds (s : State) (h : Word) : Nat :=
  sumN (s.heldEffects.map fun e => match e.2 with
    | .tdec h' n false => if h' = h then n else 0
    | _ => 0) + sumN (s.decs.map fun d => if d.hold && d.handle == h then d.n else 0) +
    sumN (s.podHolds.map fun d => if d.handle == h then d.n else 0)

/-- TDEC (15 R289). Log 113 (DESIGN CHOICE). -/
def execTdec (c : Ctl) (lsid : BitVec 5) (n : BitVec 16) (s : State) : Out1 :=
  settle (.tdec c lsid n) s fun e => e.probed <|
    let h := e.word .l
    let k := n.toNat + 1
    causeOr (e.handleCause h) <|
      if hPkg h ≠ e.s.pkgNum then (if e.farCause h 0x102 then .fault 0x102 0 .none else e.hold (.tdec h k false))
      else match e.target h with
        | none => e.hold (.tdec h k true)
        | some r =>
          if r.counter < k + e.s.decHolds h then .fault 0x102 0 .none else e.hold (.tdec h k false)

/-! ## TINST (15 R290, R291; 17 R318) -/

/-- What an instantiation reserves. -/
structure InstPlan where
  num : Nat
  recs : List RecHold
  bufs : List (Nat × Nat)
deriving DecidableEq, Repr

/-- Records for the members of a template, on their dies. -/
def State.takeMembers (s : State) (c die : Nat) : List (List Word) → List (Nat × Nat) → Option (List (Nat × Nat))
  | [], taken => some taken
  | ws :: rest, taken =>
    let w := ws.getD 13 0
    let d := if bitN w 2 then die else bitsN w 0 2
    match s.takeRec d c ((taken.filter fun t => t.1 = d).map Prod.snd) with
    | none => none
    | some i => s.takeMembers c die rest (taken ++ [(d, i)])

/-- Heap ranges for the buffer slots of a template. Log 34 (DESIGN CHOICE); 44 (DEDUCED); 146 (DESIGN CHOICE). -/
def State.takeBufs (s : State) (c : Nat) : List (Word × Word) → List (Nat × Nat) → Option (List (Nat × Nat))
  | [], taken => some taken
  | b :: rest, taken =>
    let n := roundUp b.1.toNat 64
    match s.heapPick c taken n (2 ^ bitsN b.2 0 6) with
    | none => none
    | some a => s.takeBufs c rest (taken ++ [(a, n)])

/-- A word that may name a member (17 R318). -/
def renameMember (hs : List Word) (w : Word) : Word :=
  if w = wordN (2 ^ 18 + bitsN w 0 12) then hs.getD (bitsN w 0 12) w else w

/-- A word that may name a buffer slot (17 R318); `bufs` gives each slot's base and size. -/
def renameSlot (bufs : List (Nat × Nat)) (w : Word) : Option Word :=
  if bitN w 63 then
    match bufs[bitsN w 56 7]? with
    | some b => if bitsN w 40 16 = 0 ∧ bitsN w 0 40 < b.2 then some (wordN (b.1 + bitsN w 0 40)) else none
    | none => none
  else none

/-- The words of a member's record from its image (17 R318). -/
def renameImage (hs : List Word) (bufs : List (Nat × Nat)) (arg : Word) (ws : List Word) : List Word :=
  (List.range 32).map fun i =>
    let w := ws.getD i 0
    if 5 ≤ i ∧ i ≤ 12 then renameMember hs w
    else if i = 4 then (renameSlot bufs w).getD arg
    else if 16 ≤ i ∧ i % 2 = 0 then
      match bMode (ws.getD (i + 1) 0) with
      | 1 => (renameSlot bufs w).getD w
      | 2 => renameMember hs w
      | _ => w
    else w

/-- The number the next instance of a template takes: past those of its committed instances and of those held. Log 45 (DEDUCED). -/
def State.nextInst (s : State) (c : Nat) (t : Template) : Nat :=
  let held := s.heldEffects.filterMap fun e => match e.2 with
    | .tinst tid num _ _ _ => if e.1.ctx = c ∧ tid = t.id then some num else none
    | _ => none
  (((List.range (held.length + 1)).map (t.next + ·)).find? fun n => !held.contains n).getD t.next

/-- Instantiates a template for a context from a die (15 R290 steps 1 to 4): the plan, or the cause. Log 44 (DEDUCED); 149 (DESIGN CHOICE). -/
def State.planInst (s : State) (c gen die tid : Nat) (arg done : Word) (chk : Word → Option Nat) : Except Nat InstPlan :=
  match (s.ctx? c).bind fun x => x.templates.find? fun t => t.id == tid with
  | none => .error 0x104
  | some t =>
    match if done = 0 then none else chk done with
    | some k => .error k
    | none =>
      match s.takeMembers c die t.members [] with
      | none => .error 0x103
      | some at' =>
        match s.takeBufs c t.bufs [] with
        | none => .error 0x105
        | some bufs =>
          let num := s.nextInst c t
          let slots := bufs.zipWith (fun b x => (b.1, x.1.toNat)) t.bufs
          let hs := at'.map fun x => handleOf s.pkgNum x.1 x.2 gen
          let recs := ((List.range at'.length).zip (at'.zip t.members)).map fun x =>
            ⟨x.2.1.1, x.2.1.2, recWords (renameImage hs slots arg x.2.2) c gen num true tid (if x.1 = 0 then t.members.length else 0)⟩
          .ok ⟨num, recs, bufs⟩

/-- The instance handle of a plan (15 R291). -/
def InstPlan.handle (p : InstPlan) (pkg gen : Nat) : Word :=
  match p.recs with
  | [] => 0
  | r :: _ => handleOf pkg r.die r.idx gen ||| wordN (2 ^ 18 + p.num % 65536)

/-- TINST (15 R290). -/
def execTinst (c : Ctl) (lsid : BitVec 5) (id : BitVec 12) (s : State) : Out1 :=
  settle (.tinst c lsid id) s fun e => e.probed <|
    match e.s.planInst e.g.ctx e.g.gen e.die id.toNat (e.word .r) (e.word .l) e.handleCause with
    | .error k => .fault k 0 .none
    | .ok p =>
      .ok { s := e.s.draw, res := .s (p.handle e.s.pkgNum e.g.gen)
            eff := .tinst id.toNat p.num p.recs p.bufs (e.word .l) }

/-! ## TSTAT (15 R292) -/

/-- The status word of a record. -/
def TaskRec.status (r : TaskRec) : Word :=
  wordN (r.counter * 2 ^ 16 + r.relays * 2 ^ 8 + r.signalled.toNat * 16 + r.state)

/-- The stale word. -/
def staleWord : Word := 8

/-- An instance handle (15 R291). -/
def isInstHandle (h : Word) : Bool := bitN h 18 && decide (bitsN h 16 2 = 0)

/-- The handle of the record that a handle names: of an instance, its first record's (15 R291). -/
def wholeHandle (h : Word) : Word := if isInstHandle h then h &&& ~~~(0x7FFFF#64) else h

/-- The status word of an instance handle, the records found by `look`: stale once its first record holds a task of another
instance (15 R292). -/
def State.instStatus (s : State) (look : Word → Option TaskRec) (h : Word) : Word :=
  let first := h &&& ~~~(0x7FFFF#64)
  match look first with
  | none => staleWord
  | some r =>
    if !r.isMember || decide (r.inst ≠ bitsN h 0 16) then staleWord
    else match (s.ctx? r.ctx).bind fun c => c.ginsts.find? fun g => g.tid == r.tid && g.num == r.num with
      | some g =>
        if g.first = first then wordN (r.live * 2 ^ 16 + (if r.live ≠ 0 then 4 else if g.failed then 7 else 6)) else staleWord
      | none => if r.live ≠ 0 then wordN (r.live * 2 ^ 16 + 4) else staleWord

/-- A status word of a record of another package, or of an instance there, which this package's state does not hold: any word
of the form (15 R292). Log 46 (DESIGN CHOICE). -/
def freeStatus (inst : Bool) (n : Nat) : Word :=
  if inst then
    match n % 4 with
    | 0 => staleWord
    | 1 => wordN ((1 + n / 4 % (2 ^ 32 - 1)) * 2 ^ 16 + 4)
    | k => wordN (k + 4)
  else if n % 2 = 1 then staleWord
  else wordN (n / 2 % 8 + n / 16 % 2 * 16 + n / 32 % 256 * 2 ^ 8 + n / 2 ^ 13 % 2 ^ 32 * 2 ^ 16)

/-- TSTAT (15 R292). Log 46 (DESIGN CHOICE). -/
def execTstat (c : Ctl) (lsid : BitVec 5) (s : State) : Out1 :=
  settle (.tstat c lsid) s fun e =>
    if !e.loadReady then .wait
    else e.probed <|
      let h := e.word .l
      causeOr (e.handleCause (wholeHandle h)) <|
        if hPkg h ≠ e.s.pkgNum then .ok { s := e.s.draw, res := .s (freeStatus (bitN h 18) (Config.choice e.s.fresh)) }
        else if bitN h 18 then e.done (.s (e.s.instStatus e.target h))
        else e.done (.s (match e.target h with
          | some r => r.status
          | none => staleWord))

end Sys2Proof.Machine
end

