-- ==== Sys2Proof/Machine/ReinTile.lean ====
section
/-!
DEFINITION. Machine/ReinTile.lean: the rein instructions of the tiles as a block resolves them (19 R339, R344, R357 to
R361).
-/
namespace Sys2Proof.Machine

/-! ## RLOAD (19 R344, R358) -/

/-- The offset of a branch of a Rein program (19 R347). -/
def reinBranch : Instr → Option Int
  | .jmp imm | .loop _ imm | .bnz _ imm | .bz _ imm => some imm.toInt
  | _ => none

/-- The lowest cause of a word of an image at an index (19 R344). -/
def reinWordCause (count i : Nat) (w : Word) : Option Nat :=
  match decodeRein w with
  | .error c => some c
  | .ok ins =>
    match reinBranch ins with
    | none => none
    | some d => if 0 ≤ (i : Int) + d ∧ (i : Int) + d < count then none else some 0x142

/-- The causes of a header (19 R341, R344). -/
def reinHeaderBad (h : List Word) : Bool :=
  let w := h.getD 1 0
  let count := bitsN w 0 13
  decide (bitsN w 60 4 ≠ 0xC) || decide (count = 0) || decide (4096 < count) || decide (bitsN w 57 3 ≠ 0) ||
    decide (bitsN w 13 31 ≠ 0) || decide (h.getD 3 0 ≠ 0)

/-- Entry r of a membership table (19 R339). -/
def tabEntry (tab : List Word) (r : Nat) : Nat := bitsN (tab.getD (1 + r / 4) 0) (16 * (r % 4)) 16
/-- Ranks of a table. -/
def tabSize (tab : List Word) : Nat := bitsN (tab.getD 0 0) 0 13
/-- Own rank of a table. -/
def tabRank (tab : List Word) : Nat := bitsN (tab.getD 0 0) 16 13

/-- Word 0 of a table within R339. -/
def tabHeadOk (w : Word) : Bool :=
  decide (1 ≤ bitsN w 0 13) && decide (bitsN w 0 13 ≤ 4096) && decide (bitsN w 16 13 < bitsN w 0 13) &&
    decide (bitsN w 13 3 = 0) && decide (bitsN w 29 35 = 0)

/-- A table within R339 for a die. -/
def State.tableOk (s : State) (die : Nat) (tab : List Word) : Bool :=
  (List.range (tabSize tab)).all (fun r =>
    decide (tabEntry tab r / 4096 = 0) && s.pod.contains (tabEntry tab r % 1024)) &&
    decide (tabEntry tab (tabRank tab) = s.pkgNum + die * 1024)

/-- Parity buffers that R358 refuses. -/
def parityBad (stage : Bool) (s p b0 b1 : Nat) : Bool :=
  let total := (s + p) * 65536
  (decide (s + p ≠ 0) && (decide (b0 = 0) || decide (b0 % 16 ≠ 0) || decide (b1 = 0) || decide (b1 % 16 ≠ 0) ||
    (decide (b0 < b1 + total) && decide (b1 < b0 + total)))) || (stage && decide (s = 0))

/-- The registered program of an id for a context on a die. -/
def State.prog? (s : State) (die c id : Nat) : Option Prog :=
  s.progs.find? fun p => p.die == die && p.ctx == c && p.id == id

/-- An id that a context of a job has registered on a die (19 R344). -/
def State.idLoaded (s : State) (die tag id : Nat) : Bool :=
  s.progs.any fun p => p.die == die && p.id == id && s.tagOf p.ctx == tag

/-- A command of the rein engines. -/
def isRein : Instr → Bool
  | .rload _ _ _ _ | .rstart _ _ _ _ _ _ | .rabort _ _ _ => true
  | _ => false

/-- The id that an effect loads. -/
def Effect.loads (id : Nat) : Effect → Bool
  | .rload i _ _ _ _ _ => i = id
  | _ => false

/-- Another block of a job on a die holds an RLOAD of an id. Log 51 (DEDUCED). -/
def State.loadHeld (s : State) (me : Place) (tag id : Nat) : Bool :=
  s.heldEffects.any fun e => e.1.place != me && e.1.place.die == me.die && s.tagOf e.1.ctx == tag && e.2.loads id

/-- RLOAD's checks once everything is read (19 R344, R358). Log 26 (DEDUCED). -/
def Env.rloadCauses (e : Env) (stage parity : Nat) (h code tab : List Word) : List Nat :=
  let w := h.getD 1 0
  let id := bitsN w 44 12
  (if reinHeaderBad h then [0x140] else []) ++
    (((List.range code.length).zip code).filterMap fun x => reinWordCause code.length x.1 x.2) ++
    (if tabHeadOk (tab.getD 0 0) && e.s.tableOk e.die tab then [] else [0x142]) ++
    (if e.s.idLoaded e.die e.tagOf id || e.lower.any (fun n => n.eff.loads id) then [0x143] else []) ++
    (if parityBad (bitN w 56) stage parity (h.getD 0 0).toNat (h.getD 2 0).toNat then [0x14A] else [])

/-- Loads words and goes on with them. -/
def Env.loadWords (e : Env) (va n : Nat) (k : List Word → Fire) : Fire :=
  match e.loadUnits va n with
  | .error f => f
  | .ok bs => k (bytesWords n bs)

/-- An RLOAD as it reads its image: at its LSID place (19 R358), but as a fetch reads, seeing no store of its group that has not
been performed (10 R209). Log 121 (DEDUCED). -/
def Env.imageEnv (e : Env) : Env := { e with g := { e.g with sb := [] }, r := { e.r with nodes := [] } }

/-- RLOAD (19 R358). Log 51 (DEDUCED); 121 (DEDUCED). -/
def execRload (c : Ctl) (lsid : BitVec 5) (stage parity : BitVec 12) (s : State) : Out1 :=
  settle (.rload c lsid stage parity) s fun e =>
    if !e.loadReady || e.pendingLower isRein then .wait
    else
      let img := (e.word .l).toNat
      let tab := (e.word .r).toNat
      match gaddrCause img 16, gaddrCause tab 8 with
      | some x, _ => .fault x img .load
      | none, some x => .fault x tab .load
      | none, none =>
        e.imageEnv.loadWords img 4 fun h =>
          let w := h.getD 1 0
          if stage ≠ 0 ∧ bitN w 56 = false then .fault 0x00C 0 .none
          else
            e.imageEnv.loadWords (img + 32) (if reinHeaderBad h then 0 else bitsN w 0 13) fun code =>
              e.loadWords tab 1 fun t0 =>
                let n := tabSize t0
                e.loadWords (tab + 8) (if tabHeadOk (t0.getD 0 0) then (n + 3) / 4 else 0) fun tr =>
                  let t := t0 ++ tr
                  causeOr (lowestN (e.rloadCauses stage.toNat parity.toNat h code t)) <|
                    if e.s.loadHeld e.p e.tagOf (bitsN w 44 12) then .wait
                    else
                      .ok { s := e.bring tab t.length (e.bring img (4 + code.length) e.s), pages := spanPages img (32 + 8 * code.length) ++ spanPages tab (8 * t.length)
                            eff := .rload (bitsN w 44 12) (h ++ code) t stage.toNat parity.toNat img }

/-! ## Instances (19 R359 to R361) -/

/-- The instance holds a live place (19 R336, R356). Log 64 (DEDUCED). -/
def Inst.isLive (i : Inst) : Bool := decide (i.st = .live) || decide (i.st = .stopped)

/-- The instances of a collective of a context on a die. -/
def State.instsOf (s : State) (die c id : Nat) : List Inst :=
  s.insts.filter fun i => i.die == die && i.ctx == c && i.id == id

/-- The starts that an effect holds of an id. -/
def Effect.starts (id : Nat) : Effect → Option Nat
  | .rstart i n _ _ _ _ _ => if i = id then some n else Option.none
  | _ => Option.none

/-- The starts of an id that lower-LSID instructions hold, in order. -/
def Env.started (e : Env) (id : Nat) : List Nat := e.lower.filterMap fun n => n.eff.starts id

/-- Another block of the context on the die holds a start of an id. Log 51 (DEDUCED). -/
def State.startHeld (s : State) (g : Group) (id : Nat) : Bool :=
  s.heldEffects.any fun e => e.1.place != g.place && e.1.place.die == g.place.die && e.1.ctx == g.ctx && (e.2.starts id).isSome

/-- The number an RSTART must take, or none when any will do (19 R359). Log 51 (DEDUCED). -/
def Env.nextN (e : Env) (id : Nat) : Option Nat :=
  match (e.started id).getLast? with
  | some n => some ((n + 1) % 65536)
  | none => (e.s.prog? e.die e.g.ctx id).bind fun p => p.next

/-- The id is registered for the context on the die: from the commit of its RLOAD on (19 R358, R359). Log 51 (DEDUCED). -/
def Env.registered (e : Env) (id : Nat) : Bool := (e.s.prog? e.die e.g.ctx id).isSome

/-- The live instances of a die, with the starts its blocks hold. Log 87 (DEDUCED). -/
def State.inUse (s : State) (die : Nat) : Nat :=
  (s.insts.filter fun i => i.die == die && i.isLive).length +
    (if die = 0 then (s.ctxs.filter fun c => c.drain.isSome).length else 0) +
    (s.heldEffects.filter fun e => e.1.place.die == die && (match e.2 with
      | .rstart _ _ _ _ _ _ _ => true
      | _ => false)).length

/-- RSTART (19 R359). Log 51 (DEDUCED). -/
def execRstart (c : Ctl) (lsid : BitVec 5) (arrive credit rerun : Bool) (id : BitVec 12) (s : State) : Out1 :=
  settle (.rstart c lsid arrive credit rerun id) s fun e =>
    let i := id.toNat
    if e.pendingLower isRein then .wait
    else
      let arg := e.own (e.word .l) 64 64
      let bar := e.own (e.word .t) 16 16
      checked (scrFail arg (e.word .l) ++ scrFail bar (e.word .t)) <|
        e.scrLoad (scrOk arg) 64 fun bs =>
          let n := bitsN (e.word .r) 0 16
          if !e.registered i then .fault 0x144 0 .none
          else if e.s.startHeld e.g i then .wait
          else if (match e.nextN i with
              | some m => decide (m ≠ n)
              | none => false) then .fault 0x145 0 .none
          else if 2 ≤ ((e.s.instsOf e.die e.g.ctx i).filter Inst.isLive).length + (e.started i).length then .wait
          else if 32 ≤ e.s.inUse e.die then .fault 0x146 0 .none
          else e.hold (.rstart i n (bytesWords 8 bs) (scrOk bar) arrive credit rerun)

/-- A number that RABORT accepts: live here, or the last started here, as starts are made at their commits (19 R360). Log 51 (DEDUCED). -/
def Env.abortable (e : Env) (id n : Nat) : Bool :=
  (e.s.instsOf e.die e.g.ctx id).any (fun i => i.isLive && i.n == n) ||
    (match (e.s.prog? e.die e.g.ctx id).bind Prog.next with
      | some m => decide ((n + 1) % 65536 = m)
      | none => false)

/-- RABORT (19 R360). Log 51 (DEDUCED). -/
def execRabort (c : Ctl) (lsid : BitVec 5) (id : BitVec 12) (s : State) : Out1 :=
  settle (.rabort c lsid id) s fun e =>
    let n := bitsN (e.word .l) 0 16
    if e.pendingLower isRein then .wait
    else if !e.registered id.toNat then .fault 0x144 0 .none
    else if !e.abortable id.toNat n then .fault 0x145 0 .none
    else e.hold (.rabort id.toNat n)

/-- The state code of an instance. -/
def InstSt.code : InstSt → Nat
  | .live => 1
  | .done => 2
  | .aborted => 3
  | .stopped => 4

/-- The word of RSTAT (19 R361); `free` is Next before the first start, which the spec does not state. Log 48 (DESIGN CHOICE). -/
def rstatWord (p : Prog) (is : List Inst) (n free : Nat) : Word :=
  let next := (p.next.getD (free % 65536))
  match p.next.isSome && (decide ((n + 1) % 65536 = next) || decide ((n + 2) % 65536 = next)), is.find? fun i => i.n == n with
  | true, some i =>
    wordN (next * 2 ^ 48 + (if i.isLive then i.idx % 4096 * 2 ^ 20 + i.wait * 8 else 0) + i.st.code)
  | _, _ => wordN (next * 2 ^ 48)

/-- RSTAT (19 R361). Log 48 (DESIGN CHOICE). -/
def execRstat (c : Ctl) (lsid : BitVec 5) (id : BitVec 12) (s : State) : Out1 :=
  settle (.rstat c lsid id) s fun e =>
    if !e.loadReady then .wait
    else match e.s.prog? e.die e.g.ctx id.toNat with
      | none => .fault 0x144 0 .none
      | some p =>
        .ok { s := e.s.draw
              res := .s (rstatWord p (e.s.instsOf e.die e.g.ctx id.toNat) (bitsN (e.word .l) 0 16) (Config.choice e.s.fresh)) }

end Sys2Proof.Machine
end

