-- ==== Sys2Proof/Machine/Stream.lean ====
section
/-!
DEFINITION. Machine/Stream.lean: stream registers and their instructions (08 R189 to R192; 17 R315).
-/
namespace Sys2Proof.Machine

/-- The stream register an instruction binds, emits to or unbinds. -/
def streamOf : Instr → Option Nat
  | .sbind _ _ r _ | .semit _ _ _ r | .sunbind _ _ r => some r.toNat
  | _ => none

/-- A stream register as lower-LSID SBINDs and SUNBINDs leave it (08 R163). Log 139 (DEDUCED). -/
def Env.stream (e : Env) (r : Nat) : Option Stream :=
  e.lower.foldl (fun x n => match n.eff with
    | .sbind r' st => if r' = r then some st else x
    | .sunbind r' => if r' = r then Option.none else x
    | _ => x) (e.g.s.getD r Option.none)

/-- Elements that lower-LSID SEMITs emit to a register. -/
def Env.emittedAll (e : Env) (r : Nat) : Nat :=
  (e.lower.filter fun n => match n.eff with
    | .semit r' _ _ => r' = r
    | _ => false).length

/-- Elements that lower-LSID SEMITs emit to a register since it was last bound (08 R191). -/
def Env.emitted (e : Env) (r : Nat) : Nat :=
  e.lower.foldl (fun k n => match n.eff with
    | .semit r' _ _ => if r' = r then k + 1 else k
    | .sbind r' _ | .sunbind r' => if r' = r then 0 else k
    | _ => k) 0

/-- Some lower-LSID instruction on a stream register has not resolved. -/
def Env.streamPending (e : Env) (r : Nat) : Bool := e.pendingLower fun i => streamOf i = some r

/-- A new binding. Log 49 (DEDUCED). -/
def Env.bound (e : Env) (src : SSrc) (vec out : Bool) : Stream :=
  ⟨src, vec, out, e.active, 0, 0, [], false, bitsN e.n.word 0 27, e.word .l, e.word .r, []⟩

/-- The faults of binding a task edge (08 R189; 17 R315). Log 50 (DEDUCED). -/
def Env.edgeFails (e : Env) (v : Bool) (b : Nat) : Bool :=
  match e.s.recOf e.g with
  | none => true
  | some r =>
    let w := (r.binding b).2
    decide (bMode w ≠ 2) || bVec w != v || (bOut w && !e.s.edgeAgrees r b e.active)

/-- SBIND (08 R189). Log 49 (DEDUCED); 67 (DEDUCED); 135 (DESIGN CHOICE). -/
def execSbind (c : Ctl) (lsid : BitVec 5) (r : BitVec 3) (kind : SKind) (s : State) : Out1 :=
  settle (.sbind c lsid r kind) s fun e =>
    if e.streamPending r.toNat then .wait
    else
      let taken := failIf (e.stream r.toNat).isSome 0x0CB 0
      match kind with
      | .mem v out stride =>
        let n := (e.word .r).toNat
        let dense := elemBytes v e.active
        checked (engineAddr (e.word .l) (if v then 128 else 8) ++ failIf (decide (n = 0) || decide (2 ^ 32 ≤ n)) 0x0C9 0 ++ taken)
          (e.hold (.sbind r.toNat (e.bound
            (.mem (e.word .l).toNat (if stride = 0 then dense else 16 * stride.toNat) n) v out)))
      | .edge v b =>
        let out : Bool := match e.s.recOf e.g with
          | some x => bOut (x.binding b.toNat).2
          | none => false
        checked (taken ++ failIf (e.edgeFails v b.toNat) 0x0CB 0)
          (e.hold (.sbind r.toNat (e.bound (.edge b.toNat) v out)))
      | .rein v =>
        let z := e.own (e.word .l) 1 1
        checked (scrFail z (e.word .l) ++ taken)
          (e.hold (.sbind r.toNat (e.bound
            (.rein (scrOk z) (bitsN (e.word .r) 0 12) (bitsN (e.word .r) 12 4)) v false)))

/-- The bytes of an element of a token. -/
def elemOf (vec : Bool) (lanes : Nat) (t : Token) : List Byte :=
  if vec then (List.range lanes).flatMap fun l => laneBytes (t.vLane l) else bytesOf t.word.toNat 8

/-- Bytes from an address, cut where they meet the boundary of a line (10 R201). -/
def lineSplit (va : Nat) (bs : List Byte) : List (Nat × List Byte) :=
  (linesOf va bs.length).map fun l =>
    if l * 128 ≤ va then (va, bs.take (l * 128 + 128 - va)) else (l * 128, (bs.drop (l * 128 - va)).take 128)

/-- Translates the parts of a store one after another. -/
def Env.storeParts (e : Env) (k : List StoreReq → Fire) : List (Nat × List Byte) → List StoreReq → Fire
  | [], done => k done
  | (va, bs) :: rest, done => e.glob va 1 .store fun pa => e.storeParts k rest (done ++ [⟨va, pa, bs⟩])

/-- What a producer meets at the far end of a task edge: closed, not bound yet, or a count of free places. -/
inductive EdgeEnd where
  | closed
  | unbound
  | room (n : Nat)
deriving DecidableEq, Repr

/-- The far end of a producer's output binding (17 R315). -/
def State.edgeEnd (s : State) (g : Group) (b : Nat) : EdgeEnd :=
  match s.recOf g with
  | none => .closed
  | some r =>
    let p := r.peerOf b
    match (s.target p.1).filter fun c => c.ctx == r.ctx with
    | none => .closed
    | some c =>
      match s.edgePeer g b with
      | none => if c.state < 4 then .unbound else .closed
      | some q =>
        match q.edges.find? fun x => x.bind == p.2 with
        | none => .closed
        | some x => .room (x.cap - x.buf.length)

/-- SEMIT (08 R191). A token of another shape than a binding that the block's own SBIND makes gives 0x0CA. Log 24 (DEDUCED);
119 (DESIGN CHOICE). -/
def execSemit (c : Ctl) (t : ITy) (lsid : BitVec 5) (r : BitVec 3) (s : State) : Out1 :=
  settle (.semit c t lsid r) s fun e =>
    let x := e.tok .l
    if (List.range e.active).any fun l => x.voidAt l || (x.shape = some .v && !e.exec.contains l) then
      .ok { s := e.s, null := true }
    else if e.streamPending r.toNat then .wait
    else match e.stream r.toNat with
      | none => .fault 0x0CA 0 .none
      | some st =>
        if !st.out || x.shape ≠ some (if st.vec then Shape.v else Shape.s) then .fault 0x0CA 0 .none
        else
          let bs := elemOf st.vec st.lanes x
          let k := st.moved + e.emitted r.toNat
          match st.src with
          | .mem base stride n =>
            if n ≤ k then .fault 0x0CA 0 .none
            else e.storeParts (fun q => .ok { s := e.s, eff := .semit r.toNat bs q, pages := q.map fun x => x.va })
              (lineSplit (base + k * stride) bs) []
          | .edge b =>
            match e.s.edgeEnd e.g b with
            | .unbound => .wait
            | .closed => e.hold (.semit r.toNat bs [])
            | .room m => if m ≤ e.emittedAll r.toNat then .wait else e.hold (.semit r.toNat bs [])
          | .rein _ _ _ => .fault 0x0CA 0 .none

/-- SUNBIND (08 R192). -/
def execSunbind (c : Ctl) (lsid : BitVec 5) (r : BitVec 3) (s : State) : Out1 :=
  settle (.sunbind c lsid r) s fun e => e.hold (.sunbind r.toNat)

/-- The kind of a stream as SST delivers it. -/
def SSrc.code : SSrc → Nat
  | .mem _ _ _ => 0
  | .edge _ => 1
  | .rein _ _ _ => 2

/-- The word of SST (08 R192). -/
def Group.sstWord (g : Group) (r : Nat) : Word :=
  match g.s.getD r none with
  | none => 0
  | some st =>
    let b := if st.out then ([], false) else g.streamBuf st
    wordN (1 + (b.1.isEmpty && b.2).toNat * 2 + st.out.toNat * 4 + st.src.code * 8 + st.vec.toNat * 32 +
      (if b.1.length < 65536 then b.1.length else 65535) * 2 ^ 16 + st.moved % 2 ^ 32 * 2 ^ 32)

/-- SST (08 R192). Log 30 (DEDUCED). -/
def execSst (c : Ctl) (lsid : BitVec 5) (r : BitVec 3) (s : State) : Out1 :=
  settle (.sst c lsid r) s fun e => if !e.loadReady then .wait else e.done (.s (e.g.sstWord r.toNat))

end Sys2Proof.Machine
end

