-- ==== Sys2Proof/Machine/Xfer.lean ====
section
/-!
DEFINITION. Machine/Xfer.lean: transfers of the engines, the dispatcher and the rein engines: bytes with their poison
(14 R272), accesses of a context at a point (10 R208), and the leases they wait for (11 R226).
-/
namespace Sys2Proof.Machine

/-- A byte under way and whether it is poisoned. -/
abbrev XByte := Byte × Bool

/-- The granules of addresses that are marked. -/
def taintOf (ms : List (Nat × Bool)) : List Nat := (ms.filter Prod.snd).map fun w => w.1 / 64

/-- The addresses of byte writes and whether each byte is poisoned. -/
def marksOf (ws : List (Nat × XByte)) : List (Nat × Bool) := ws.map fun w => (w.1, w.2.2)

/-- The poison of a memory after byte writes: whole granules are cleared, those of poisoned bytes are marked (14 R272). -/
def poisonAfter (l : List Nat) (ms : List (Nat × Bool)) : List Nat :=
  let whole := wholeOf (ms.map Prod.fst)
  poisonAdd (l.filter fun g => !whole.contains g) (taintOf ms)

/-- Byte writes at a die's coherent caches, or at their homes; `more` are bytes that the same transfer has written before,
with which it may cover a granule whole (14 R272). -/
def State.putBytes (s : State) (die : Option Nat) (ws : List (Nat × XByte)) (more : List (Nat × Bool)) : State :=
  let ms := marksOf ws ++ more
  ((s.putAt die (ws.map fun w => (w.1, w.2.1))).cleanAt die (wholeOf (ms.map Prod.fst))).taintAt die (taintOf ms)

/-- Bytes of a physical range at a point, with their poison. -/
def State.getBytes (s : State) (die : Option Nat) (pa n : Nat) : List XByte :=
  (s.readAt die pa n).zip ((List.range n).map fun i => s.badAt die ((pa + i) / 64))

/-- Reads `n` bytes of a context at a point: bytes with poison, or address and cause. Log 69 (DEDUCED); 140 (DEDUCED). -/
def State.xread (s : State) (die : Option Nat) (c va n : Nat) (acc : Access) : Except (Nat × Nat) (List XByte × State) :=
  match s.reach acc c (va / 16 * 16) (units (va % 16 + n)) with
  | .error e => .error e
  | .ok (pas, s') =>
    .ok (((pas.flatMap fun pa => s'.getBytes die pa 16).drop (va % 16)).take n, pas.foldl (fun s pa => s.bringAt die pa 16) s')

/-- The physical bytes that a write of a context would make. -/
def State.xtargets (s : State) (c va n : Nat) (acc : Access) : List Nat :=
  match s.reach acc c (va / 16 * 16) (units (va % 16 + n)) with
  | .error _ => []
  | .ok (pas, _) => ((pas.flatMap fun pa => (List.range 16).map (pa + ·)).drop (va % 16)).take n

/-- Writes bytes of a context at a point; `more` as `State.putBytes` takes it, by virtual address. -/
def State.xwriteMore (s : State) (die : Option Nat) (c va : Nat) (bs : List XByte) (more : List (Nat × Bool)) (acc : Access) :
    Except (Nat × Nat) State :=
  match s.reach acc c (va / 16 * 16) (units (va % 16 + bs.length)) with
  | .error e => .error e
  | .ok (pas, s') =>
    let ts := (pas.flatMap fun pa => (List.range 16).map (pa + ·)).drop (va % 16)
    .ok (s'.putBytes die (ts.zip bs) (more.map fun m => (ts.headD 0 + m.1 - va, m.2)))

/-- Writes bytes of a context at a point. Log 69 (DEDUCED). -/
def State.xwrite (s : State) (die : Option Nat) (c va : Nat) (bs : List XByte) (acc : Access) : Except (Nat × Nat) State :=
  s.xwriteMore die c va bs [] acc

/-- A write of a context at a point must wait for another party's lease. -/
def State.xblocked (s : State) (me : Option Place) (die : Option Nat) (c va n : Nat) (acc : Access) : Bool :=
  !s.leases.isEmpty && (s.xtargets c va n acc).any fun pa =>
    s.leaseHit me (match die with
      | some d => s.point d pa false
      | none => none) pa 1

/-- Bytes of a group's scratch with their poison. -/
def State.xscr (s : State) (g : Group) (a : ScrAt) (n : Nat) : List XByte :=
  (s.scrRead g a n).zip ((List.range n).map fun i => (s.scrWindow g a).poison.contains ((a.off + i) / 64))

/-- Writes bytes to a window with their poison; `more` as `State.putBytes` takes it. -/
def Window.putMore (w : Window) (off : Nat) (bs : List XByte) (more : List (Nat × Bool)) : Window :=
  { cells := w.cells.write off (bs.map Prod.fst)
    poison := poisonAfter w.poison (marksOf (((List.range bs.length).map (off + ·)).zip bs) ++ more) }

/-- Writes bytes to a window with their poison. -/
def Window.put (w : Window) (off : Nat) (bs : List XByte) : Window := w.putMore off bs []

/-- Writes bytes to scratch of a gang member with their poison; `more` as `State.putBytes` takes it. -/
def State.xscrWrite (s : State) (g : Group) (a : ScrAt) (bs : List XByte) (more : List (Nat × Bool)) : State :=
  s.scrUpdate g a fun w => w.putMore a.off bs more

/-! ## The bytes of a transfer (08 R169, R182) -/

/-- The kinds of progress of a byte, numbered. -/
def Way.kind : Way → Nat
  | .left => 0 | .read _ _ => 1 | .put _ => 2
/-- A byte is still to read. -/
def Way.isLeft (w : Way) : Bool := w.kind == 0
/-- A byte is written. -/
def Way.isPut (w : Way) : Bool := w.kind == 2
/-- A byte that has been read, with its poison. -/
def Way.xbyte : Way → XByte
  | .read b x => (b, x)
  | _ => (0, false)

/-- How far the `n` bytes of a transfer are; none listed is still to read. -/
def waysOf (n : Nat) (l : List Way) : List Way := l ++ List.replicate (n - l.length) .left

/-- Replaces what is said of the bytes from a position. -/
def setWays (l : List Way) (i : Nat) (new : List Way) : List Way := l.take i ++ new ++ l.drop (i + new.length)

/-- The bytes with which a transfer goes on, by the device's choice: a run of them, the first one that `may` be taken, each as far
as the first, and no more of them than `cut` allows there. -/
def runAt (k : Nat) (ws : List Way) (may : Nat → Way → Bool) (cut : Nat → Nat) : Option (Nat × Nat) :=
  let is := (((List.range ws.length).zip ws).filter fun x => may x.1 x.2).map Prod.fst
  (pickOf k is).map fun i =>
    (i, 1 + k / is.length % (((ws.drop i).take (cut i)).takeWhile fun v => v.kind == (ws.getD i .left).kind).length)

/-- The bytes about a run of a transfer that it has written before, each with where it went and whether it is poisoned: those
with which the run may cover a granule whole (14 R272); `lo` and `hi` bound the positions that go to one place. -/
def putAbout (ws : List Way) (lo hi i m : Nat) (place : Nat → Nat) : List (Nat × Bool) :=
  let a := if lo + 63 < i then i - 63 else lo
  (((ws.take (if i + m + 63 < hi then i + m + 63 else hi)).drop a).zipIdx a).filterMap fun x => match x.1 with
    | .put bad => some (place x.2, bad)
    | _ => none

/-- Bytes without poison. -/
def plain (bs : List Byte) : List XByte := bs.map fun b => (b, false)

/-- A byte written at its home stands in a foreign copy of its line too, where it is no longer dirty. Log 62 (DEDUCED). -/
def FLine.take (f : FLine) (w : Nat × XByte) : FLine :=
  { f with bytes := f.bytes.set (w.1 % 128) w.2.1, dirty := f.dirty &&& ~~~(BitVec.ofNat 128 (2 ^ (w.1 % 128))) }

/-- A foreign copy takes what bytes written at their homes bring to its line, with their poison. -/
def FLine.takeAll (f : FLine) (ws : List (Nat × XByte)) : FLine :=
  let here := ws.filter fun w => w.1 / 128 == f.line
  { here.foldl FLine.take f with bad := poisonAfter f.bad (marksOf here) }

/-- A die's foreign copies take bytes written at their homes (19 R355). Log 62 (DEDUCED). -/
def State.refresh (s : State) (die : Nat) (ws : List (Nat × XByte)) : State :=
  { s with foreign := s.foreign.map fun f => if f.die = die then f.takeAll ws else f }

/-- Writes bytes of a context at their homes for a rein engine of a die, whose foreign copies take them (19 R355).
Log 62 (DEDUCED). -/
def State.areaWrite (s : State) (die c va : Nat) (bs : List XByte) : Except (Nat × Nat) State :=
  match s.xwrite none c va bs .engineWrite with
  | .error e => .error e
  | .ok s' => .ok (s'.refresh die ((s.xtargets c va bs.length .engineWrite).zip bs))

/-- Such a write must wait for another party's lease, at the homes or at the die. -/
def State.areaBlocked (s : State) (die c va n : Nat) : Bool :=
  s.xblocked none none c va n .engineWrite || s.xblocked none (some die) c va n .engineWrite

/-! ## Parking on a report (08 R164, 18 R335) -/

/-- A context is being cut (21 R377). -/
def State.isCut (s : State) (c : Nat) : Bool :=
  match s.ctx? c with
  | some x => decide (x.st = .draining) || decide (x.st = .cutting)
  | none => false

/-- Parks a group that has a report and stands where it can park at once: it waits in its block, holds in a relay, has
ended, or stands at a boundary in a cut (21 R382). In the hold the record carries the relay block's address (18 R335). Log 115 (DEDUCED). -/
def State.parkReport (s : State) (p : Place) : State :=
  match s.group? p with
  | none => s
  | some g =>
    match g.reports with
    | [] => s
    | r :: rest =>
      let drop (s : State) : State := s.setGroup p fun g => { g with reports := rest }
      match g.phase, g.run with
      | .running, some b => if b.isWaiting then (drop s).takeTrap p r.trap (.rerun b.addr) else s
      | .running, none => if s.isCut g.ctx then (drop s).takeTrap p r.trap (.rerun g.next) else s
      | .relayHold mask kd blk, _ => (drop s).takeTrap p { r.trap with blk := blk } (.hold mask kd blk)
      | .ended, _ => (drop s).takeTrap p r.trap .ended
      | _, _ => s

/-- Reports a cause of a command to its group. -/
def State.tell (s : State) (p : Place) (t : Tag) (x : Stop) : State := (s.report p t x).parkReport p

end Sys2Proof.Machine
end

