-- ==== Sys2Proof/Machine/ReinOps.lean ====
section
/-!
DEFINITION. Machine/ReinOps.lean: rein instances, their chunk descriptors and accesses, messages between ranks,
completion, stops and aborts (19 R336 to R340, R349 to R356; 21 R368 to R375).
-/
namespace Sys2Proof.Machine

/-! ## CRC-32C (19 R340) -/

/-- One bit of the reflected CRC. -/
def crcBit (c : BitVec 32) : BitVec 32 := if c.getLsbD 0 then (c >>> 1) ^^^ 0x82F63B78#32 else c >>> 1

/-- One byte of the CRC. -/
def crcByte (c : BitVec 32) (b : Byte) : BitVec 32 :=
  crcBit (crcBit (crcBit (crcBit (crcBit (crcBit (crcBit (crcBit (c ^^^ b.setWidth 32))))))))

/-- CRC-32C of bytes. -/
def crc32c (bs : List Byte) : BitVec 32 := bs.foldl crcByte 0xFFFFFFFF#32 ^^^ 0xFFFFFFFF#32

/-- The header that a chunk's tag covers. -/
def chunkHead (id n rank seq off len : Nat) : List Byte := [id, n, rank, seq, off, len].flatMap fun v => bytesOf v 4

/-- The tag of a chunk as its fields and bytes give it. -/
def chunkTag (ch : Chunk) : BitVec 32 := crc32c (chunkHead ch.id ch.n ch.rank ch.seq ch.offset ch.bytes.length ++ ch.bytes)

/-! ## Instances -/

/-- The instance of a key on a die. -/
def State.inst? (s : State) (die k : Nat) : Option Inst := s.insts.find? fun i => i.die == die && i.key == k
/-- Replaces an instance. -/
def State.setInst (s : State) (k : Nat) (f : Inst → Inst) : State := { s with insts := updFirst (fun i => i.key == k) f s.insts }
/-- The program an instance runs. -/
def State.progOf (s : State) (i : Inst) : Option Prog := s.prog? i.die i.ctx i.id
/-- Replaces a program. -/
def State.setProg (s : State) (die c id : Nat) (f : Prog → Prog) : State :=
  { s with progs := updFirst (fun p => p.die == die && p.ctx == c && p.id == id) f s.progs }

/-- The address of a parity buffer's area (19 R358): the staging area lies first. -/
def Prog.area (p : Prog) (n : Nat) (landing : Bool) : Nat :=
  (p.words.getD (if n % 2 = 0 then 0 else 2) 0).toNat + if landing then p.s * 65536 else 0

/-- Bytes of an area. -/
def Prog.areaBytes (p : Prog) (landing : Bool) : Nat := (if landing then p.p else p.s) * 65536

/-- A valid descriptor (19 R338). Log 63 (DEDUCED). -/
def Prog.descOk (p : Prog) (d : ChunkDesc) : Bool :=
  decide (d.bytes % 16 = 0) && decide (16 ≤ d.bytes) && decide (d.bytes ≤ 65536) &&
    (decide (d.space = 3) || decide (d.addr.toNat % 16 = 0)) &&
    (match d.space with
      | 0 => decide (d.addr.toNat < 2 ^ 56)
      | 1 => decide (d.addr.toNat + d.bytes ≤ p.areaBytes true)
      | 2 => decide (d.addr.toNat + d.bytes ≤ p.areaBytes false)
      | _ => true)

/-- Where a descriptor's bytes lie: the point they are accessed at and their virtual address (19 R355). -/
def Prog.place (p : Prog) (i : Inst) (d : ChunkDesc) : Option Nat × Nat :=
  match d.space with
  | 1 => (none, p.area i.n true + d.addr.toNat)
  | 2 => (none, p.area i.n false + d.addr.toNat)
  | _ => (some i.die, d.addr.toNat)

/-- Reads a descriptor's bytes. -/
def State.readChunk (s : State) (p : Prog) (i : Inst) (d : ChunkDesc) : Except (Nat × Nat) (List XByte × State) :=
  s.xread (p.place i d).1 i.ctx (p.place i d).2 d.bytes .engineRead

/-! ## Stops and completion (19 R354, R356) -/

/-- The group that started an instance, while it keeps its slot. -/
def State.starter (s : State) (i : Inst) : Option Group :=
  match s.group? i.who with
  | some g => if g.task = i.task ∧ g.ctx = i.ctx then some g else none
  | none => none

/-- A cause of an instance goes to the group that started it, or to a record that names its task (19 R356). -/
def State.tellStarter (s : State) (i : Inst) (cause under va : Nat) (acc : Access) : State :=
  match s.starter i with
  | some g => s.tell g.place i.tag ⟨cause, under, va, acc, true⟩
  | none => s.looseRecord i.ctx ⟨cause, i.tag.idx, some i.tag.lsid, i.tag.blk, va, acc, under⟩ i.task

/-- An instance stops on its rank and keeps its live place (19 R356). Log 64 (DEDUCED). -/
def State.stopInst (s : State) (i : Inst) (cause under va : Nat) (acc : Access) : State :=
  (s.setInst i.key fun i => { i with st := .stopped, wait := 0 }).tellStarter i cause under va acc

/-- An update of an instance's completion barrier. -/
def State.instBar (s : State) (i : Inst) (db : Int) (da : Nat) : State :=
  match s.starter i with
  | none => s
  | some g =>
    let r := s.barUpdate g i.bar db da
    match r.2 with
    | some c => r.1.tell g.place i.tag ⟨c, 0, 0, .none, true⟩
    | none => r.1

/-- The landing streams of a collective on the starter's tile meet their end (08 R190), for good. Log 118 (DESIGN CHOICE). -/
def State.endLanding (s : State) (i : Inst) : State :=
  { s with groups := s.groups.map fun g =>
      if g.ctx = i.ctx ∧ g.place.die = i.who.die ∧ g.place.tile = i.who.tile then
        { g with s := g.s.map fun st => st.map fun x => match x.src with
            | .rein _ id _ => if id = i.id then { x with ended := true } else x
            | _ => x }
      else g }

/-- Removes the records of instances that are no longer among the two last started (19 R361). -/
def State.trimInsts (s : State) (die c id last : Nat) : State :=
  { s with insts := s.insts.filter fun i =>
      !(i.die == die && i.ctx == c && i.id == id) || i.isLive || i.n == last || (i.n + 1) % 65536 == last }

/-- DONE's completion (19 R354). -/
def State.completeRein (s : State) (i : Inst) : State :=
  let s := if i.arrive then s.instBar i 0 1 else s
  (s.setInst i.key fun i => { i with st := .done, wait := 0, out := [] }).endLanding i

/-! ## Messages between ranks (19 R339, R340, R351) -/

/-- Package and die of a rank. -/
def Prog.rankAt (p : Prog) (r : Nat) : Nat × Nat := (tabEntry p.tab r % 1024, tabEntry p.tab r / 1024 % 4)

/-- Sends a message to a rank: at once on this package, over UALink to another. -/
def State.toRank (s : State) (pkg : Nat) (here : Instr) (away : Out) : State :=
  if pkg = s.pkgNum then { s with agenda := s.agenda ++ [here] } else { s with outbox := s.outbox ++ [away] }

/-- Sends the chunk of an outstanding SEND, reading its source (19 R349, 21 R370). Log 58 (DEDUCED). -/
def State.sendChunk (s : State) (p : Prog) (i : Inst) (o : Outstanding) : Except (Nat × Nat) State :=
  match s.readChunk p i o.src with
  | .error e => .error e
  | .ok (xs, s') =>
    let bs := xs.map Prod.fst
    let bad := (List.range xs.length).filter fun k => (xs.getD k (0, false)).2
    let dst := p.rankAt o.peer
    let ch : Chunk := ⟨s'.tagOf i.ctx, i.id, i.n, i.rank, o.seq, o.offset, bs, bad,
      crc32c (chunkHead i.id i.n i.rank o.seq o.offset bs.length ++ bs), s'.pkgNum, i.die, o.peer⟩
    .ok (s'.toRank dst.1 (.chunkArrival dst.2 ch) (.chunk dst.1 dst.2 ch))

/-- The name of a chunk at its sender, as its receiver answers it. Log 59 (DEDUCED). -/
def chunkName (ch : Chunk) (me : Nat) : ChunkName := ⟨ch.die, ch.job, ch.id, ch.n, ch.peer, ch.seq, false, me⟩

/-- The name of a signal at its sender. Log 59 (DEDUCED). -/
def signalName (m : SignalMsg) (me : Nat) : ChunkName := ⟨m.src, m.job, m.id, m.n, m.peer, m.seq, true, me⟩

/-- Sends a signal of an instance to a rank, and holds it until it is answered (19 R351). -/
def State.sendSignal (s : State) (x : SigOut) : State := s.toRank x.pkg (.signalArrival x.m) (.signal x.pkg x.m)

/-! ## Abort (21 R373) -/

/-- The landing area of an aborted instance holds bytes that the spec leaves open. Log 57 (DESIGN CHOICE). -/
def State.freeLanding (s : State) (p : Prog) (c n : Nat) : State :=
  match s.areaWrite p.die c (p.area n true) (plain ((List.range (p.areaBytes true)).map (Config.freeByte s.fresh))) with
  | .ok s' => s'.draw
  | .error _ => s

/-- An instance's record that never ran. -/
def blankInst (key die c id n : Nat) (st : InstSt) : Inst :=
  ⟨key, die, c, id, n, 0, st, false, 0, [], [], 0, [], [], [], [], [], [], ⟨die, 0, 0⟩, 0, ⟨0, 0, 0, 0, 0, 0, 0, 0, 0⟩, [], ⟨0, 0, 0⟩,
    false, false, false, false, 0, 0⟩

/-- n has not been started on a rank whose next number is given (21 R369). -/
def notStarted (next : Option Nat) (n : Nat) : Bool :=
  match next with
  | none => true
  | some m => decide (32768 ≤ (m + 131072 - 1 - n) % 65536)

/-- An instance is aborted (21 R373). -/
def State.abortNow (s : State) (p : Prog) (i : Inst) : State :=
  ((s.setInst i.key fun i => { i with st := .aborted, wait := 0, out := [], doomed := false }).endLanding i).freeLanding p i.ctx i.n

/-- A staging copy of an instance is under way (19 R359). -/
def Inst.staging (i : Inst) (p : Prog) : Bool := decide (i.st = .live) && !i.began && bitN (p.words.getD 1 0) 56

/-- An abort of instance n reaches a rank; one that finds its staging copy under way waits for it (21 R373). -/
def State.abortLocal (s : State) (die c id n : Nat) : State :=
  match s.prog? die c id with
  | none => s
  | some p =>
    match (s.instsOf die c id).find? fun i => i.n == n with
    | some i =>
      if i.staging p then s.setInst i.key fun i => { i with doomed := true }
      else if i.isLive then s.abortNow p i
      else s
    | none =>
      if notStarted p.next n then
        let s := s.setProg die c id fun p => { p with next := some ((n + 1) % 65536) }
        ({ s with insts := blankInst s.keys die c id n .aborted :: s.insts, keys := s.keys + 1 } : State).trimInsts die c id n
      else s

/-- RABORT and the cut abort an instance on every rank of its table (19 R360, 21 R382). -/
def State.abortAll (s : State) (die c id n : Nat) : State :=
  match s.prog? die c id with
  | none => s
  | some p =>
    let job := s.tagOf c
    (List.range (tabSize p.tab)).foldl (fun s r =>
      if r = tabRank p.tab then s
      else
        let dst := p.rankAt r
        s.toRank dst.1 (.abortArrival ⟨dst.2, job, id, n, r, s.pkgNum⟩) (.abort dst.1 dst.2 job id n)) (s.abortLocal die c id n)

/-! ## Starting (19 R336, R359; 21 R368) -/

/-- The engine with the fewest live instances, the lowest-numbered of equals (21 R368); a drain's reduction counts as one on its
engine of CD0 (21 R390). -/
def State.pickEngine (s : State) (die : Nat) : Nat :=
  let load (e : Nat) : Nat := (s.insts.filter fun i => i.die == die && i.isLive && i.engine == e).length +
    (if die = 0 then (s.ctxs.filter fun c => c.drain == some e).length else 0)
  (List.range 8).foldl (fun b e => if load e < load b then e else b) 0

/-- The registers of an instance at its start (19 R336). -/
def startRegs (rank size n : Nat) (args : List Word) : List Word :=
  [wordN rank, wordN size, wordN n, wordN (n % 2), 0, 0, 0, 0] ++ args

/-- The RSTART command is performed: the instance is placed (21 R368), if no abort has recorded its number since (21 R373). Log 60 (DEDUCED). -/
def State.startInst (s : State) (g : Group) (tag : Tag) (id n : Nat) (args : List Word) (bar : ScrAt)
    (arrive credit rerun : Bool) : State :=
  match s.prog? g.place.die g.ctx id with
  | none => s
  | some p =>
    if !notStarted p.next n then s else
    let i : Inst := ⟨s.keys, g.place.die, g.ctx, id, n, s.pickEngine g.place.die, .live, false,
      if bitN (p.words.getD 1 0) 56 then 6 else 0,
      startRegs (tabRank p.tab) (tabSize p.tab) n args, List.replicate 8 ⟨0, 0, 0⟩, 0, [], [], [], [], [], [], g.place, g.task, tag,
      args, bar, arrive, credit, rerun, false, tabRank p.tab, tabSize p.tab⟩
    let s := { s with insts := i :: s.insts, keys := s.keys + 1 }
    (s.setProg g.place.die g.ctx id fun p => { p with next := some ((n + 1) % 65536) }).trimInsts g.place.die g.ctx id n

/-- A count by rank. -/
def countOf (l : List (Nat × Nat)) (r : Nat) : Nat :=
  match l.find? fun e => e.1 == r with
  | some e => e.2
  | none => 0

/-- Replaces a count by rank. -/
def setCount (l : List (Nat × Nat)) (r v : Nat) : List (Nat × Nat) := (r, v) :: l.filter fun e => e.1 != r

end Sys2Proof.Machine
end

