-- ==== Sys2Proof/Machine/Relay.lean ====
section
/-!
DEFINITION. Machine/Relay.lean: RELAY, RELAY.SIG, RELAY.PREP, GRESUME and GKILL as a block resolves them (15 R293 to
R297; 18 R327, R328).
-/
namespace Sys2Proof.Machine

/-! ## A tile's accumulators (07 R140, 18 R328) -/

/-- Accumulators of a tile (07 R140). -/
def tileAccs (tile : Nat) : Nat := if isMTile tile then 16 else 4

/-- Accumulators by which a relay's successor exceeds a group. -/
def Group.grow (g : Group) : Exit → Nat
  | .relay _ _ _ kd => kd.shape.acc - g.shape.acc
  | _ => 0

/-- Accumulators that a group's relay holds in reserve, running, pending or in its hold (15 R293, 18 R335). -/
def Group.reservedAcc (g : Group) : Nat :=
  (match g.run with
    | some r => sumN (r.nodes.map fun n => match n.exit with
      | some x => g.grow x
      | none => 0)
    | none => 0) +
  (match g.phase with
    | .parked (.pend x _ _) _ => g.grow x
    | .parked (.hold _ kd _) _ => kd.shape.acc - g.shape.acc
    | .exiting x _ _ => g.grow x
    | .relayHold _ kd _ => kd.shape.acc - g.shape.acc
    | _ => 0)

/-- The groups bound on a tile. -/
def State.onTile (s : State) (die tile : Nat) : List Group :=
  s.groups.filter fun g => g.place.die == die && g.place.tile == tile

/-- Accumulators that no bound slot holds or reserves. Log 52 (DESIGN CHOICE). -/
def State.accFree (s : State) (die tile : Nat) : Nat :=
  tileAccs tile - sumN ((s.onTile die tile).map fun g => g.shape.acc + g.reservedAcc)

/-- What is released on a tile is held for a context that is being resumed and whose saved groups stood there: it has an
overdue task's right (21 R387). Log 52 (DESIGN CHOICE). -/
def State.resumeHolds (s : State) (c die tile : Nat) : Bool :=
  s.ctxs.any fun x => x.slot != c && decide (x.st = .resuming) &&
    x.savedGroups.any fun g => g.place.die == die && g.place.tile == tile

/-- Accumulators that a relay cannot reserve, though no slot holds them: all those that are free where an overdue task or a
context that is being resumed holds what is released on the tile (17 R313; 18 R328; 21 R387). Log 52 (DESIGN CHOICE). -/
def State.accOverdue (s : State) (c die tile : Nat) : Nat :=
  if s.overdueOn die tile || s.resumeHolds c die tile then s.accFree die tile else 0

/-! ## RELAY and RELAY.SIG (15 R293, R294) -/

/-- Some bit of a field of a mask stands at or beyond a count. -/
def maskBeyond (mask : Word) (lo n count : Nat) : Bool := decide (2 ^ count ≤ bitsN mask lo n)

/-- An inherited V-shaped stream register of a group under a change of lane count (18 R327). Log 139 (DEDUCED). -/
def Env.streamChange (e : Env) (mask : Word) (lanes : Nat) : Bool :=
  (List.range 8).any fun i => bitN mask (32 + i) && (match e.stream i with
    | some st => st.vec && decide (lanes ≠ e.active)
    | none => false)

/-- RELAY and RELAY.SIG (15 R293). -/
def Env.relay (e : Env) (sig : Bool) : Fire :=
  if !e.loadReady then .wait
  else
    let va := (e.word .l).toNat
    let mask := e.word .r
    match gaddrCause va 64 with
    | some c => .fault c va .load
    | none => e.loadDesc va fun kd =>
      let sh := kd.shape
      if bitsN mask 57 7 ≠ 0 then .fault 0x10A 0 .none
      else if maskBeyond mask 16 8 sh.windows || maskBeyond mask 40 16 sh.acc || maskBeyond mask 24 8 sh.rings ||
          maskBeyond mask 32 8 sh.streams || e.streamChange mask sh.lanes then .fault 0x108 0 .none
      else
        let die := e.p.die
        let tile := e.p.tile
        if (!isMTile tile && decide (4 < sh.acc)) ||
            decide (e.s.accFree die tile - e.s.accOverdue e.g.ctx die tile < sh.acc - e.g.shape.acc) then .fault 0x109 0 .none
        else .ok { s := e.bring va 8 e.s, eff := .relay, exit := some (.relay sig (e.word .l) mask kd), pages := [va] }

/-- RELAY (15 R293). -/
def execRelay (c : Ctl) (lsid : BitVec 5) (s : State) : Out1 := settle (.relay c lsid) s fun e => e.relay false

/-- RELAY.SIG (15 R293, R295). -/
def execRelaySig (c : Ctl) (lsid : BitVec 5) (s : State) : Out1 := settle (.relaySig c lsid) s fun e => e.relay true

/-! ## RELAY.PREP (15 R296) -/

/-- The pairs of a list of words. -/
def pairsOf : List Word → List (Word × Word)
  | a :: b :: l => (a, b) :: pairsOf l
  | _ => []

/-- The causes of a preparation's bindings. -/
def prepCauses (sh : KShape) (bs : List (Word × Word)) : List Nat :=
  (if bs.any (fun b => bMode b.2 ≠ 1 || !prefetchOk b.1 b.2) || hasTwice (windowsOf bs) then [0x0C9] else []) ++
    (if bs.any fun b => sh.windows ≤ bWindow b.2 then [0x108] else [])

/-- RELAY.PREP (15 R296). -/
def execRelayPrep (c : Ctl) (lsid : BitVec 5) (n : BitVec 3) (s : State) : Out1 :=
  settle (.relayPrep c lsid n) s fun e =>
    if !e.loadReady then .wait
    else
      let va := (e.word .l).toNat
      let k := n.toNat + 1
      match gaddrCause va 64 with
      | some x => .fault x va .load
      | none => e.loadDesc va fun kd =>
        e.scr false (e.word .r) 0 (16 * k) 16 fun a => e.scrLoad a (16 * k) fun bs =>
          let binds := pairsOf (bytesWords (2 * k) bs)
          causeOr (lowestN (prepCauses kd.shape binds)) <|
            .ok { s := e.bring va 8 e.s, eff := .prep (e.word .l) kd binds, pages := [va] }

/-! ## GRESUME and GKILL (15 R297) -/

/-- The group of a gang rank of the task that a handle names. -/
def State.rankGroup (s : State) (h : Word) (rank : Nat) : Option Group := s.groups.find? fun g => g.task == h && g.rank == rank

/-- Some block holds a claim on the group of a rank of a task. Log 53 (DEDUCED). -/
def State.claimed (s : State) (h : Word) (rank : Nat) : Bool :=
  (s.heldEffects.any fun e => match e.2 with
    | .gresume h' k _ => h' == h && k == rank
    | _ => false) || s.podHolds.any fun x => x.handle == h && match x.claim with
    | some c => c.1 == rank
    | none => false

/-- A context that is cut, saved or coming back (21 R382). Log 53 (DEDUCED). -/
def State.notLive (s : State) (c : Nat) : Bool :=
  match s.ctx? c with
  | some x => decide (x.st ≠ .live)
  | none => false

/-- Carries a claim out (15 R297): the group goes on or is killed; none while its context is cut or saved (21 R382), and nothing
happens once it is no longer there. Log 53 (DEDUCED). -/
def State.doClaim (s : State) (h : Word) (rank : Nat) (kill : Bool) : Option State :=
  match s.rankGroup h rank with
  | none =>
    if s.ctxs.any fun x => x.savedGroups.any fun g => g.task == h && g.rank == rank then none else some s
  | some g =>
    if s.notLive g.ctx then none
    else match g.phase with
      | .parked _ true => some (if kill then s.kill g.place else (s.setGroup g.place Group.resume).afterWork g.place)
      | _ => some s

/-- A claim of a group of a record's task (15 R297): true if it is parked, false where 0x10B is raised; none while it waits for
another claim, for the group's trap record, or for its context to be live (21 R382). Log 53 (DEDUCED). -/
def State.claimOn (s : State) (r : TaskRec) (h : Word) (rank : Nat) : Option Bool :=
  if s.notLive r.ctx then none
  else if r.gang ≤ rank then some false
  else match s.rankGroup h rank with
    | none => some false
    | some g =>
      if s.claimed h rank then none
      else match g.phase with
        | .parked _ true => some true
        | .parked _ false => none
        | _ => some false

/-- GRESUME and GKILL (15 R297). -/
def Env.onGroup (e : Env) (rank : Nat) (kill : Bool) : Fire :=
  let h := e.word .l
  causeOr (e.handleCause h) <|
    if hPkg h ≠ e.s.pkgNum then (if e.farCause h 0x10B then .fault 0x10B 0 .none else e.hold (.remote h rank kill))
    else match e.target h with
      | none => .fault 0x10B 0 .none
      | some r =>
        match e.s.claimOn r h rank with
        | none => .wait
        | some true => e.hold (.gresume h rank kill)
        | some false => .fault 0x10B 0 .none

/-- GRESUME (15 R297). Log 53 (DEDUCED); 113 (DESIGN CHOICE). -/
def execGresume (c : Ctl) (lsid : BitVec 5) (rank : BitVec 4) (s : State) : Out1 :=
  settle (.gresume c lsid rank) s fun e => e.probed (e.onGroup rank.toNat false)

/-- GKILL (15 R297). Log 53 (DEDUCED); 113 (DESIGN CHOICE). -/
def execGkill (c : Ctl) (lsid : BitVec 5) (rank : BitVec 4) (s : State) : Out1 :=
  settle (.gkill c lsid rank) s fun e => e.probed (e.onGroup rank.toNat true)

end Sys2Proof.Machine
end

