-- ==== Sys2Proof/Machine/Commit.lean ====
section
/-!
DEFINITION. Machine/Commit.lean: completion, commit and exits of a block (07 R149 to R151; 03 R72, R73; 04 R89, R100
to R107; 11 R227).
-/
namespace Sys2Proof.Machine

/-! ## Streams read -/

/-- Pops the head element of a stream (07 R150). -/
def Group.pop (g : Group) (n : Nat) : Group :=
  match g.s.getD n none with
  | none => g
  | some st =>
    let g : Group := match st.src with
      | .edge b => { g with edges := g.edges.map fun e => if e.bind = b then { e with buf := e.buf.tail, moved := e.moved + 1 } else e }
      | _ => g
    { g with s := g.s.set n (some { st with buf := st.buf.tail, moved := st.moved + 1 }) }

/-! ## Effects in LSID order (07 R150) -/

/-- A stream register of a group is a task-edge output. -/
def Group.edgeOut (g : Group) (q : Nat) : Bool :=
  match g.s.getD q none with
  | some st => st.out && (match st.src with
    | .edge _ => true
    | _ => false)
  | none => false

/-- Effects that stand behind every earlier store of the group (11 R220, R222, R226). A relay leaves the stores in the
buffer (18 R331), and so does SUNBIND of a memory output (08 R192). Log 33 (DEDUCED); 130 (DEDUCED). -/
def Effect.afterStores (g : Group) : Effect → Bool
  | .scratch l => g.relFence.isSome && l.any fun q => q.1.rank == g.rank
  | .qpush _ _ _ _ => g.relFence.isSome
  | .amo _ _ _ _ _ _ | .fence _ | .binit _ _ | .bupd _ _ _ | .sbind _ _ | .page _ _ => true
  | .sunbind q => g.edgeOut q
  | .tspawn _ | .tdec _ _ _ | .tinst _ _ _ _ _ | .prep _ _ _ | .gresume _ _ _ | .remote _ _ _ => true
  | .rload _ _ _ _ _ _ | .rstart _ _ _ _ _ _ _ | .rabort _ _ => true
  | .semit _ _ [] => true
  | _ => false

/-- The tag of a command as it enters its queue. -/
def Group.enterTag (g : Group) (t : Tag) : Tag := { t with seq := g.cmdSeq, after := g.entered }

/-- The tag of a node's instruction. -/
def BlockRun.tagOf (r : BlockRun) (i : Nat) (n : Node) : Tag :=
  ⟨0, r.addr, i, n.lsid, n.word, (n.l.getD .void).word, (n.r.getD .void).word, (n.t.getD .void).word, 0⟩

/-- The consumer tickets of a matrix command leave head. -/
def Group.takeTickets (g : Group) (op : MatOp) : Group :=
  match op with
  | .mma _ _ _ _ a b _ =>
    (List.range 8).foldl (fun (g : Group) q => g.setRing q fun r => { r with head := (r.head + a.takes q + b.takes q) % 65536 }) g
  | _ => g

/-- A producer takes its ticket; the entry begins to fill. -/
def Group.produce (g : Group) (q t : Nat) (p : Presence) : Group :=
  g.setRing q fun r => { r.mark t p with tail := (r.tail + 1) % 65536 }

/-- The frame number of a placement for a page number (12 R244, 14 R410). Log 126 (DESIGN CHOICE). -/
def State.placeFrame (s : State) (die : Nat) (place : APlace) (page : Nat) : Option Nat :=
  let base := s.pkgNum * 2 ^ 42
  match place with
  | .home => some ((base + die * 2 ^ 37) / 65536)
  | .spread => some ((base + page % 4 * 2 ^ 37) / 65536)
  | .tier1 =>
    let ports := [0, 1, 2, 3].filter fun p => Config.cxlBytes p ≠ 0
    (ports[page % ports.length]?).map fun p => (base + 0x10000000000 + p * 0xC000000000) / 65536

/-- A reserved page of a range that ALLOC would place is being changed (14 R270). Log 97 (DEDUCED). -/
def State.placeWaits (s : State) (c base size : Nat) : Bool :=
  (List.range ((base + size - 1) / 65536 - base / 65536 + 1)).any fun i =>
    let va := (base / 65536 + i) * 65536
    s.pageChanging c va && (match s.walkOf c va with
      | .leaf e => decide (leafState e = 1)
      | _ => false)

/-- ALLOC's placement of the reserved pages of a range (12 R244). Log 34 (DESIGN CHOICE); 126 (DESIGN CHOICE). -/
def State.placeRange (s : State) (c die : Nat) (place : APlace) (base size : Nat) : State :=
  (List.range ((base + size - 1) / 65536 - base / 65536 + 1)).foldl (fun s i =>
    let va := (base / 65536 + i) * 65536
    match s.walkOf c va with
    | .leaf e =>
      if leafState e = 1 then
        match s.placeFrame die place (va / 65536) with
        | some f => s.setCtx c fun cx => cx.setLeaf (leafBase va e) (pgOfCode (leafSize e)) (putBits e 16 36 f)
        | none => s
      else s
    | _ => s) s

/-- A range becomes allocated (12 R244). -/
def State.allocRange (s : State) (c die : Nat) (place : APlace) (base size : Nat) : State :=
  (s.setCtx c fun cx => { cx with allocs := (base, size) :: cx.allocs }).placeRange c die place base size

/-- One page of a VCOMMIT or PIN at its commit (12 R247). Log 145 (DESIGN CHOICE). -/
def State.commitHold (s : State) (c : Nat) (sz : PgSize) (pin : Bool) (h : PageHold) : State :=
  match s.leafOf c h.va sz with
  | none => s
  | some e =>
    let s := match leafCommitted e, h.frame with
      | false, some f =>
        (s.setCtx c fun cx => { cx with
          frames := cx.frames.filter fun x => !(decide (f ≤ x) && decide (x < f + pgFrames sz)) }).commitPage c h.va e f
      | _, _ => s
    if pin then
      match s.leafOf c h.va sz with
      | some e => s.setCtx c fun cx => cx.setLeaf h.va sz (putBits e 56 8 (leafPins e + 1))
      | none => s
    else s

/-- A page of a VCOMMIT or PIN is under a change that must end first. -/
def State.holdWaits (s : State) (c : Nat) (sz : PgSize) (pin : Bool) (h : PageHold) : Bool :=
  (match s.ctx? c with
    | some cx => cx.changing h.va
    | none => false) ||
  (pin && (match s.leafOf c h.va sz with
    | some e => decide (leafState e = 3)
    | none => false))

/-- A wider release's write-backs meet another party's lease. -/
def State.relBlocked (s : State) (p : Place) (on : Bool) : Bool := on && s.backBlocked (some p) p.die

/-- An element's release to another die meets another party's lease at its write-backs (11 R222, R226, R230). -/
def State.edgeBlocked (s : State) (g : Group) (q : Nat) : Bool :=
  match g.s.getD q none with
  | some st => (match st.src with
    | .edge b => (match s.edgePeer g b with
      | some x => decide (x.place.die ≠ g.place.die) && s.backBlocked (some g.place) g.place.die
      | none => false)
    | _ => false)
  | none => false

/-- The operation of an AMO as a UALink atomic names it (22 R401): its number in the order of the opcodes, type, operand and
the value compared with. -/
def Node.amoOp (n : Node) : Nat × ITy × Word × Word :=
  let v := (n.r.getD .void).word
  match n.ins with
  | .amoMin _ t _ _ => (1, t, v, 0)
  | .amoMax _ t _ _ => (2, t, v, 0)
  | .amoAnd _ t _ _ => (3, t, v, 0)
  | .amoOr _ t _ _ => (4, t, v, 0)
  | .amoXor _ t _ _ => (5, t, v, 0)
  | .amoSwap _ t _ _ => (6, t, v, 0)
  | .amoCas _ t _ _ => (7, t, (n.t.getD .void).word, v)
  | .amoAdd _ t _ _ => (0, t, v, 0)
  | _ => (0, .n64, v, 0)

/-- An AMO's write at a home: a release writes back the die's lines first, and its die's copies of the bytes are evicted (10 R206;
11 R222); one of another package leaves as a UALink atomic of its operation (10 R213, 22 R401). Log 32 (DEDUCED); 112 (DESIGN CHOICE). -/
def State.homeAtomic (s : State) (die pa : Nat) (bs : List Byte) (rel : Bool) (n : Node) : State :=
  let s := (if rel then s.writeBack die else s).evictLines die pa bs.length
  let o := n.amoOp
  if s.far pa then { s with outbox := s.outbox ++ [.ualinkAtomic (paPkg pa) pa o.1 o.2.1 o.2.2.1 o.2.2.2] } else s.homeWrite pa bs

/-- An element goes to the far end of a task edge; a closed edge discards it (17 R315). Log 50 (DEDUCED). -/
def State.emitEdge (s : State) (g : Group) (b : Nat) (bs : List Byte) : State :=
  match s.recOf g with
  | none => s
  | some r =>
    match s.edgePeer g b with
    | none => s
    | some q =>
      let s := if q.place.die = g.place.die then s else s.writeBack g.place.die
      s.setGroup q.place fun q => { q with
        edges := q.edges.map fun e => if e.bind = (r.peerOf b).2 then { e with buf := e.buf ++ [.data bs none] } else e }

/-- SUNBIND's effect, which the scrub of a relay shares (08 R192, 18 R332). -/
def State.unbind (s : State) (p : Place) (n : Nat) : State :=
  match s.group? p with
  | none => s
  | some g =>
    match g.s.getD n none with
    | none => s
    | some st =>
      let s := match st.src, st.out, s.recOf g with
        | .edge b, true, some r => s.endEdge r b
        | _, _, _ => s
      s.setGroup p fun g => { g with
        s := g.s.set n none
        edges := match st.src, st.out with
          | .edge b, false => g.edges.map fun e => if e.bind = b then { e with buf := [] } else e
          | _, _ => g.edges }

/-- A graph instance is made: its records, its buffers, its number (15 R290 step 5). Log 146 (DESIGN CHOICE). -/
def State.makeInst (s : State) (c gen die tid num : Nat) (recs : List RecHold) (bufs : List (Nat × Nat)) (done : Word) : State :=
  let s := recs.foldl (fun s h => s.createRec h.die h.idx h.words num) s
  let s := bufs.foldl (fun s b => s.allocRange c die .home b.1 b.2) s
  let hs := recs.map fun h => handleOf s.pkgNum h.die h.idx gen
  s.setCtx c fun cx => { cx with
    ginsts := cx.ginsts ++ [⟨tid, num, hs.headD 0, hs, bufs, done, false, false⟩]
    templates := cx.templates.map fun t => if t.id = tid ∧ t.next ≤ num then { t with next := num + 1 } else t }

/-- A list in the order that a number gives it: the lines of one access have none among them (10 R201). -/
def anyOrder {α : Type} (k : Nat) : List α → List α
  | [] => []
  | a :: l =>
    let r := anyOrder (k / (l.length + 1)) l
    r.take (k % (l.length + 1)) ++ a :: r.drop (k % (l.length + 1))

/-- Performs the effect of a node at its block's commit, in LSID place; none while another party's lease or a page's
change keeps it from being performed. Log 130 (DEDUCED). -/
def State.perform (p : Place) (r : BlockRun) (i : Nat) (n : Node) (s0 : State) : Option State :=
  let late : Bool := (s0.group? p).any n.eff.afterStores
  let s := if late then s0.drainSb p else s0
  match s.group? p with
  | none => some s
  | some g =>
    if late && !g.sb.isEmpty then none
    else
      let c := g.ctx
      let die := p.die
      match n.eff with
      | .none | .swr _ _ | .relay => some s
      | .stores l rel => some (l.foldl (fun s q => s.enter p (.phys q.pa) q.va q.bytes rel) s)
      | .scratch l =>
        let on := late && (g.relFence.map wide).getD false
        if s.relBlocked p on then none
        else some (l.foldl (fun s q =>
          if q.1.rank = g.rank then s.scrWrite g q.1 q.2 else s.enter p (.peer q.1) 0 q.2 none) (if on then s.writeBack die else s))
      | .amo _ pa _ new sc rel =>
        match new with
        | none => if s.relBlocked p (rel && wide sc) then none else some (if rel && wide sc then s.writeBack die else s)
        | some bs =>
          if s.relBlocked p (rel && wide sc) || (wide sc && s.linesBlocked (some p) die pa bs.length) then none
          else some (if wide sc then s.homeAtomic die pa bs rel n else s.dieWrite die pa bs)
      | .fence sc =>
        if s.relBlocked p (wide sc) then none
        else
          let s := if wide sc then s.writeBack die else s
          some (s.setGroup p fun g => { g with
            relFence := if (g.relFence.map wide).getD false then g.relFence else some sc })
      | .matrix cmd => some (s.setGroup p fun g =>
          { (g.takeTickets cmd.op) with mq := g.mq ++ [{ cmd with tag := g.enterTag cmd.tag }], cmdSeq := g.cmdSeq + 1 })
      | .copy cmd => some (s.setGroup p fun g =>
          let g' := match cmd.dst with
            | .ring q t => g.produce q t .filling
            | _ => g
          { g' with cq := g.cq ++ [{ cmd with id := g.cmdSeq, tag := g.enterTag cmd.tag }], cmdSeq := g.cmdSeq + 1 })
      | .qinit q x => some (s.setGroup p fun g => { g with q := g.q.set q (some x) })
      | .qpush q t a bs =>
        let on := (g.relFence.map wide).getD false
        if s.relBlocked p on then none
        else some (((if on then s.writeBack die else s).scrWrite g a bs).setGroup p fun g => g.produce q t .present)
      | .qpop q t => some (s.setGroup p fun g => g.setRing q fun x => { x with head := (x.head + 1) % 65536 }.consume t)
      | .binit a k => some (s.setBar g a ⟨0, k, k, false, false⟩)
      | .bupd a db da =>
        let x := s.barUpdate g a db da
        some (match x.2 with
          | some cause => x.1.report p (r.tagOf i n) ⟨cause, 0, 0, .none, true⟩
          | none => x.1)
      | .sbind q st => some (s.setGroup p fun g => { g with s := g.s.set q (some st) })
      | .semit q bs mem =>
        if s.edgeBlocked g q then none else
        let s := if mem.isEmpty then s
          else ((anyOrder (Config.portion s.fresh) mem).foldl (fun s x => s.enter p (.phys x.pa) x.va x.bytes none) s).draw
        let s := match g.s.getD q Option.none with
          | some st => match st.src with
            | .edge b => s.emitEdge g b bs
            | _ => s
          | Option.none => s
        some (s.setGroup p fun g => { g with s := updAt g.s q fun st => st.map fun x => { x with moved := x.moved + 1 } })
      | .sunbind q => some (s.unbind p q)
      | .alloc b k place => if s.placeWaits c b k then none else some (s.allocRange c die place b k)
      | .page op va =>
        let t := g.enterTag (r.tagOf i n)
        some ((s.setCtx c fun cx => { cx with pageCmds := cx.pageCmds ++ [⟨op, va, p, t, Option.none⟩] }).setGroup p fun g =>
          { g with cmdSeq := g.cmdSeq + 1 })
      | .commit sz pin pages =>
        if pages.any (s.holdWaits c sz pin) then none
        else some ((pages.foldl (fun s h => s.commitHold c sz pin h) s).progress c)
      | .tspawn h =>
        if s.relBlocked p (decide (h.die ≠ die)) then none
        else
          let s := if h.die = die then s else s.writeBack die
          some (s.createRec h.die h.idx h.words 0)
      | .tdec h k stale =>
        if s.relBlocked p (decide (hPkg h ≠ s.pkgNum ∨ hDie h ≠ die)) then none
        else if stale then some (s.countDrop (s.tagOf c) k)
        else some (s.sendDec die h k none c (if hPkg h = s.pkgNum then some 0 else n.asked))
      | .tinst tid num recs bufs done =>
        if s.relBlocked p (recs.any fun h => h.die ≠ die) || bufs.any (fun b => s.placeWaits c b.1 b.2) then none
        else
          let s := if recs.any (fun h => h.die ≠ die) then s.writeBack die else s
          some (s.makeInst c g.gen die tid num recs bufs done)
      | .prep desc kd binds =>
        some (s.setGroup p fun g => { g with
          prep := some ⟨desc, kd, binds, binds.map fun _ => {}, binds.map fun _ => false, Option.none, g.enterTag (r.tagOf i n)⟩
          cmdSeq := g.cmdSeq + 1 })
      | .gresume h rank kill => s.doClaim h rank kill
      | .remote h _ _ => some (s.toPod (hPkg h) (.probe (n.asked.getD 0) h (s.tagOf c) .perform))
      | .rload id ws tab st pa img => some { s with progs := ⟨die, c, id, ws, tab, st, pa, Option.none, some img⟩ :: s.progs }
      | .rstart id k args bar ar cr rr => some (s.startInst g (g.enterTag (r.tagOf i n)) id k args bar ar cr rr)
      | .rabort id k => some (s.abortAll die c id k)

/-- Performs the effects of a block in LSID order. -/
def State.performAll (p : Place) (r : BlockRun) : List (Nat × Node) → State → Option State
  | [], s => some s
  | (i, n) :: rest, s =>
    match State.perform p r i n s with
    | some s' => State.performAll p r rest s'
    | none => none

/-- The stream registers whose head elements a block's commit pops: those whose READ delivered an element of the binding
that still stands after the block's own SUNBINDs (07 R150, 08 R192). -/
def BlockRun.pops (r : BlockRun) : List Nat :=
  (r.fired.filterMap fun n => n.popped).filter fun q => !(r.effects.any fun n => match n.eff with
    | .sunbind q' => q' = q
    | _ => false)

/-- The fired instructions with their indexes, in LSID order. -/
def BlockRun.indexed (r : BlockRun) : List (Nat × Node) :=
  sortBy (fun a b => decide (a.2.lsid < b.2.lsid))
    (((List.range r.nodes.length).zip r.nodes).filter fun x => decide (x.2.lsid < 32) && decide (x.2.st = .fired))

/-- Refills a group's reserve towards 72 from unreserved frames (14 R268). -/
def State.refill (s : State) (p : Place) : State :=
  match s.group? p with
  | none => s
  | some g =>
    let free := s.freeFrames g.ctx
    if free.isEmpty ∨ 72 ≤ g.reserve.length then s
    else
      let k := Config.choice s.fresh % free.length
      let got := (free.drop k ++ free.take k).take (72 - g.reserve.length)
      ((s.setCtx g.ctx fun c => { c with frames := c.frames.filter fun f => !got.contains f }).setGroup p fun g =>
        { g with reserve := g.reserve ++ got }).draw

/-- The commit of a block up to its exit (07 R150); none while an effect cannot be performed. Log 33 (DEDUCED). -/
def State.commit (s : State) (p : Place) (g : Group) (r : BlockRun) : Option State :=
  match State.performAll p r r.indexed (s.setGroup p fun g => g.commitRegs r) with
  | none => none
  | some s =>
    let s := s.setGroup p fun g =>
      let g := r.pops.foldl Group.pop g
      { g with count := g.count + 1, run := none, fails := 0, grace := false }
    some (((s.progress g.ctx).refill p).release)

/-! ## Exits (04 R100 to R107) -/

/-- A relay takes effect (15 R293, 18 R335): the group enters its relay hold. -/
def State.enterHold (s : State) (p : Place) (sig : Bool) (desc mask : Word) (kd : KDesc) (blk : Word) : State :=
  match s.group? p with
  | none => s
  | some g =>
    let s := if sig then s.signalGroup p else s
    let s := match s.recOf g with
      | some r => s.setRec r.die r.idx fun r =>
        (r.setState 5).setW 13 fun w => putBits w 48 8 (bitsN w 48 8 + 1)
      | none => s
    (s.setGroup p fun g => { g with
      phase := .relayHold mask kd blk
      link := []
      ahead := none
      prep := match g.prep with
        | some q => if q.desc = desc then some q else none
        | none => none }).afterWork p

/-- The group goes on at a block: the one started ahead, where that is it; else its tile has started the wrong one, which is
discarded (07 R153). -/
def Group.goTo (g : Group) (a : Word) : Group :=
  { g with next := a, phase := .running, run := g.ahead.filter fun r => r.addr == a, ahead := none }

/-- Performs an exit: the link stack, the next block, END, a relay or TRAP. A pending CALL or RET that the stack cannot
take traps and stays pending (04 R107). Log 40 (DEDUCED). -/
def State.doExit (s : State) (p : Place) (e : Exit) (blk : Word) (idx : Nat) : State :=
  match s.group? p with
  | none => s
  | some g =>
    match e with
    | .br a => s.setGroup p fun g => g.goTo a
    | .call a ret =>
      if 16 ≤ g.link.length then s.takeTrap p { cause := 0x028, idx := idx, blk := blk } (.pend e blk idx)
      else s.setGroup p fun g => { (g.goTo a) with link := ret :: g.link }
    | .ret =>
      match g.link with
      | [] => s.takeTrap p { cause := 0x029, idx := idx, blk := blk } (.pend e blk idx)
      | a :: rest => s.setGroup p fun g => { (g.goTo a) with link := rest }
    | .endg =>
      ((((s.endOutputs g).signalGroup p).setGroup p fun g => { g with phase := .ended, link := [], prep := none, ahead := none }).parkReport p).afterWork p
    | .trap n next => s.takeTrap p { cause := 0x1C0 + n, idx := idx, blk := blk } (.goOn next)
    | .relay sig desc mask kd => s.enterHold p sig desc mask kd blk

/-- The boundary after a commit: a floating-point trap first, then a report, else the exit (03 R73; 08 R164, R187). Log 39 (DEDUCED). -/
def State.boundary (s : State) (p : Place) (fp : Option Trap) (e : Exit) (blk : Word) (idx : Nat) : State :=
  match s.group? p with
  | none => s
  | some g =>
    match fp, g.reports with
    | some t, _ => s.takeTrap p t (.pend e blk idx)
    | none, r :: rest =>
      (s.setGroup p fun g => { g with reports := rest }).takeTrap p r.trap (.pend e blk idx)
    | none, [] => s.doExit p e blk idx

/-! ## Lease comparison (11 R227) -/

/-- An AMO that gave up its lease, and its bytes as they stand, for a wide scope after the die's write-backs, as the AMO itself
read them: none while another party leases them. -/
def State.leaseEqual (s : State) (g : Group) (r : BlockRun) (n : Node) : Option Bool :=
  match n.eff with
  | .amo _ pa old _ sc _ =>
    let e : Env := ⟨s, g, r, n, n.ins, []⟩
    if s.leaseMeets (some g.place) g.place.die (s.point g.place.die pa (wide sc)) pa old.length then none
    else some (decide ((e.readPhys (if wide sc then s.writeBack g.place.die else s) (wide sc) pa old.length).1 = old))
  | _ => some true

/-- The nodes that dropped a lease, with their indexes. -/
def BlockRun.dropped (r : BlockRun) : List (Nat × Node) :=
  ((List.range r.nodes.length).zip r.nodes).filter fun x => x.2.dropped && decide (x.2.st = .fired)

/-! ## Completion (07 R149) -/

/-- A preparation of the relay has an unresolved prefetch fault (15 R296). Log 41 (DEDUCED). -/
def Group.prepFault (g : Group) (e : Exit) : Option Trap :=
  match e, g.prep with
  | .relay _ desc _ _, some q =>
    match q.stop with
    | some x => if q.desc = desc then some ⟨x.cause, q.tag.idx, some q.tag.lsid, q.tag.blk, x.va, x.acc, x.under⟩ else none
    | none => none
  | _, _ => none

/-- A complete block whose commit waits for another party: on its first run it drops its leases (11 R227). -/
def State.holdCommit (s : State) (p : Place) (g : Group) : State :=
  if g.fails = 0 ∧ (g.run.map fun r => r.nodes.any fun n => n.leased) = some true then
    (s.setRun p fun r => { r with nodes := r.nodes.map Node.dropLease }).release
  else s

/-- A block that completed with one exit: the checks that discard it, else its commit (04 R103; 11 R227; 15 R296). Log 41 (DEDUCED). -/
def State.finish (s : State) (p : Place) (g : Group) (r : BlockRun) (idx : Nat) (e : Exit) : State :=
  let drop (t : Trap) : State := (s.discard p).takeTrap p t (.rerun r.addr)
  let cmp := r.dropped.map fun x => (x.1, x.2, s.leaseEqual g r x.2)
  if (match e with
      | .call _ _ => decide (16 ≤ g.link.length)
      | _ => false) then drop { cause := 0x028, idx := idx, blk := r.addr }
  else if e = .ret ∧ g.link = [] then drop { cause := 0x029, idx := idx, blk := r.addr }
  else match g.prepFault e with
    | some t =>
      ((s.setGroup p fun g => { g with
        reports := g.reports.filter fun x => !(x.blk == t.blk && some x.lsid == t.lsid)
        prep := g.prep.map fun q => { q with stop := q.stop.map fun x => { x with told := true } } }).discard p).takeTrap
        p t (.rerun r.addr)
    | none =>
      if cmp.any fun x => x.2.2.isNone then s.holdCommit p g
      else match cmp.find? fun x => x.2.2 == some false with
        | some x =>
          if 16 ≤ g.fails + 1 then
            (s.setGroup p fun g => { g with fails := 0 }).discard p |>.takeTrap p
              { cause := 0x083, idx := x.1, lsid := some x.2.1.lsid, blk := r.addr,
                va := match x.2.1.eff with
                  | .amo va _ _ _ _ _ => va
                  | _ => 0
                acc := .atomic } (.rerun r.addr)
          else (s.setGroup p fun g => { g with fails := g.fails + 1 }).discard p
        | none =>
          match s.commit p g r with
          | none => s.holdCommit p g
          | some s' =>
            let fp := (fpCause g.fptrap r.flags).map fun c =>
              ({ cause := c, idx := fpIndex r.nodes c, blk := r.addr } : Trap)
            s'.boundary p fp e r.addr idx

/-- BLOCK_COMPLETE (07 R149): a complete block commits or is discarded; a pending exit that GRESUME released is
performed (03 R73). -/
def State.complete (s : State) (p : Place) : State :=
  match s.group? p with
  | none => s
  | some g =>
    match g.phase, g.run with
    | .exiting e blk idx, _ => s.boundary p none e blk idx
    | .running, some r =>
      if !r.nodes.all Node.resolved then s
      else
        let exits := ((List.range r.nodes.length).zip r.nodes).filterMap fun x => x.2.exit.map fun e => (x.1, e)
        match exits with
        | [] => (s.discard p).takeTrap p { cause := 0x020, blk := r.addr } (.rerun r.addr)
        | [(idx, e)] => s.finish p g r idx e
        | (idx, _) :: _ => (s.discard p).takeTrap p { cause := 0x021, idx := idx, blk := r.addr } (.rerun r.addr)
    | _, _ => s

end Sys2Proof.Machine
end

