-- ==== Sys2Proof/Machine/Hold.lean ====
section
/-!
DEFINITION. Machine/Hold.lean: what a relay hold waits for (18 R329, R332), and which work the engines may begin for a
group (18 R335; 21 R379, R380).
-/
namespace Sys2Proof.Machine

/-- What a relay keeps: the mask's bits by kind (15 R294). -/
def keeps (mask : Word) (lo i : Nat) : Bool := bitN mask (lo + i)

/-- A scratch byte's window is an uninherited one of the group. -/
def Group.loses (g : Group) (mask : Word) (a : ScrAt) : Bool := a.rank == g.rank && !keeps mask 16 a.win

/-- A ring is uninherited or its base window is (18 R329, R334). -/
def Group.losesRing (g : Group) (mask : Word) (q : Nat) : Bool :=
  !keeps mask 24 q || (match g.q.getD q none with
    | some r => !keeps mask 16 r.win
    | none => false)

/-- An operand touches uninherited state. -/
def Group.losesOpnd (g : Group) (mask : Word) : MOpnd → Bool
  | .scr w _ | .rows _ w _ => !keeps mask 16 w
  | .ring q _ => g.losesRing mask q

/-- A matrix command touches uninherited state (18 R329). -/
def Group.losesMatrix (g : Group) (mask : Word) (op : MatOp) : Bool :=
  match op with
  | .mma _ _ _ acc a b bar => !keeps mask 40 acc || g.losesOpnd mask a || g.losesOpnd mask b || bar.any (g.loses mask)
  | .mzero accs => (List.range 16).any fun i => Nat.testBit accs i && !keeps mask 40 i
  | .mst o scr _ credit _ _ => !keeps mask 40 o.acc.toNat || scr.any (g.loses mask) || credit.any (g.loses mask)

/-- A copy touches uninherited state (18 R329). -/
def Group.losesCopy (g : Group) (mask : Word) (c : CpyCmd) : Bool :=
  (match c.src with
    | .glob _ => false
    | .scr a | .gath _ a => g.loses mask a) ||
  (match c.dst with
    | .glob _ => false
    | .scr a => g.loses mask a
    | .ring q _ => g.losesRing mask q
    | .mc ranks w _ => ranks.contains g.rank && !keeps mask 16 w) ||
  c.credit.any (g.loses mask)

/-- A page command's barrier lies in an uninherited window (18 R329). -/
def State.losesPage (s : State) (g : Group) (mask : Word) : Bool :=
  match s.ctx? g.ctx with
  | none => false
  | some x => x.pageCmds.any fun q => q.who == g.place && (match q.op with
      | .migrate _ _ _ _ (some a) => g.loses mask a
      | _ => false)

/-- An instance that a group started would credit or arrive at a barrier in an uninherited window (18 R329). -/
def State.losesRein (s : State) (g : Group) (mask : Word) : Bool :=
  s.insts.any fun i => i.isLive && i.who == g.place && i.task == g.task && i.ctx == g.ctx && (i.arrive || i.credit) &&
    g.loses mask i.bar

/-- The hold awaits a matrix command: it or one queued behind it touches uninherited state (18 R329). -/
def Group.awaitsMatrix (g : Group) (seq : Nat) : Bool :=
  match g.phase with
  | .relayHold mask _ _ => g.mq.any fun c => decide (seq ≤ c.tag.seq) && g.losesMatrix mask c.op
  | _ => false

/-- An operand is a ring's entry. -/
def MOpnd.isEntry (q t : Nat) : MOpnd → Bool
  | .ring q' t' => q' == q && t' == t
  | _ => false

/-- A matrix command reads a ring's entry. -/
def MatOp.readsEntry (q t : Nat) : MatOp → Bool
  | .mma _ _ _ _ a b _ => a.isEntry q t || b.isEntry q t
  | _ => false

/-- The hold awaits a copy, for itself or for a matrix command that it feeds (18 R329). -/
def Group.awaitsCopy (g : Group) (c : CpyCmd) : Bool :=
  match g.phase with
  | .relayHold mask _ _ => g.losesCopy mask c || (match c.dst with
      | .ring q t => g.mq.any fun m => m.op.readsEntry q t && g.awaitsMatrix m.tag.seq
      | _ => false)
  | _ => false

/-- The hold awaits the preparation that matches it (18 R332). -/
def Group.awaitsPrep (g : Group) : Bool :=
  match g.phase with
  | .relayHold _ _ _ => true
  | _ => false

/-- An engine may begin work for a group: its context is not being cut, or the relay hold that the cut finishes awaits the
work (18 R335; 21 R379, R380). -/
def State.engineOn (s : State) (g : Group) (awaited : Bool) : Bool :=
  match s.ctx? g.ctx with
  | some x => decide (x.st = .live) || ((decide (x.st = .draining) || decide (x.st = .cutting)) && awaited)
  | none => false

end Sys2Proof.Machine
end

