-- ==== Sys2Proof/Machine/Engine.lean ====
section
/-!
DEFINITION. Machine/Engine.lean: the steps of a tile's engines: the matrix engine, the copy engine, the stream unit and
their fault reports (08 R164, R167 to R172, R180 to R182, R190; 21 R380).
-/
namespace Sys2Proof.Machine

/-! ## Commands -/

/-- The stores before a command have been performed (08 R182; 11 R220). Log 33 (DEDUCED). -/
def Group.storesDone (g : Group) (t : Tag) : Bool := decide (t.after ≤ g.performed)

/-- A credit or arrival of a command; an error of the barrier is reported to its group (08 R187). Log 39 (DEDUCED); 71 (DEDUCED). -/
def State.creditBar (s : State) (g : Group) (t : Tag) (a : ScrAt) (db : Int) (da : Nat) : State :=
  let x := s.barUpdate g a db da
  match x.2 with
  | some c => x.1.tell g.place t ⟨c, 0, 0, .none, true⟩
  | none => x.1

/-! ## The matrix engine (08 R169) -/

/-- A ring operand is present; another operand can always be read. -/
def Group.opndReady (g : Group) : MOpnd → Bool
  | .ring q t =>
    match g.q.getD q none with
    | some r => decide (r.presence t = .present)
    | none => true
  | _ => true

/-- The head command can proceed (08 R169). -/
def Group.headReady (g : Group) (c : MatCmd) : Bool :=
  g.storesDone c.tag && c.stop.isNone &&
    (match c.op with
      | .mma _ _ _ _ a b _ => g.opndReady a && g.opndReady b
      | _ => true)

/-- A pointer by its key. Log 8 (DESIGN CHOICE). -/
def ptrAt (l : List Pointer) (k : Nat) : Nat :=
  match l.find? fun p => p.key == k with
  | some p => p.at'
  | none => 0

/-- Sets a pointer. -/
def setPtr (l : List Pointer) (p : Pointer) : List Pointer := p :: l.filter fun q => q.key != p.key

/-- A tile's matrix engine has begun a command that has not retired or stopped. -/
def State.matrixBusy (s : State) (die tile : Nat) : Bool :=
  s.groups.any fun g => g.place.die == die && g.place.tile == tile && (match g.mq with
    | c :: _ => c.started && c.stop.isNone
    | [] => false)

/-- The head command of a group is not begun and can proceed (08 R169). Log 70 (DEDUCED). -/
def State.matrixReady (s : State) (g : Group) : Bool :=
  match g.mq with
  | c :: _ => !c.started && s.engineOn g (g.awaitsMatrix c.tag.seq) && g.headReady c
  | [] => false

/-- The slot that a tile's matrix engine serves next: in turn, the first at or after its pointer whose head command can proceed
(08 R169). -/
def State.matrixTurn (s : State) (die tile : Nat) : Option Nat :=
  ((List.range 4).map fun k => (ptrAt s.matPtrs (die * 64 + tile) + k) % 4).find? fun slot =>
    (s.group? ⟨die, tile, slot⟩).any s.matrixReady

/-- MATRIX_COMMAND_START (08 R169): the engine takes one command at a time, of the slots in turn. Log 70 (DEDUCED). -/
def execMatrixCommandStart (p : Place) (s : State) : Out1 :=
  if !s.matrixBusy p.die p.tile && s.matrixTurn p.die p.tile == some p.slot then
    .next ((({ s with matPtrs := setPtr s.matPtrs ⟨p.die * 64 + p.tile, (p.slot + 1) % 4⟩ } : State)).setGroup p fun g => { g with
      mq := match g.mq with
        | c :: rest => { c with started := true } :: rest
        | [] => [] })
  else .next s

/-- Why a command stops: the underlying cause and the address (08 R164). -/
structure EngineStop where
  under : Nat
  va : Nat
deriving DecidableEq, Repr

/-- Of `n` bytes from an address those to the end of its line (10 R201). -/
def lineCut (a n : Nat) : Nat := if n < 128 - a % 128 then n else 128 - a % 128

/-- Bytes of a global address for an engine. -/
def State.engineRead (s : State) (g : Group) (va n : Nat) : Except EngineStop (List XByte × State) :=
  if 2 ^ 56 ≤ va then .error ⟨0x080, va⟩
  else match s.xread (some g.place.die) g.ctx va n .engineRead with
    | .error e => .error ⟨e.2, e.1⟩
    | .ok x => .ok x

/-- Where a byte of an operand's row list lies in memory: in the row at the index that the list gives (08 R168). -/
def State.rowVa (s : State) (g : Group) (rb base win off pos : Nat) : Nat :=
  base + ofBytes (s.scrRead g ⟨g.rank, win, off + 4 * (pos / rb)⟩ 4) * rb + pos % rb

/-- Of an operand of `n` bytes those from a position to the end of its line, or of its row (10 R201). -/
def State.opndCut (s : State) (g : Group) (n rb pos : Nat) : MOpnd → Nat
  | .scr _ off => lineCut (off + pos) (n - pos)
  | .ring q t =>
    match g.q.getD q none with
    | some r => lineCut ((r.at' g.rank t).off + pos) (n - pos)
    | none => n - pos
  | .rows base win off => lineCut (s.rowVa g rb base win off pos) (rb - pos % rb)

/-- `m` bytes of an operand from a position in it (08 R167, R168). Log 70 (DEDUCED). -/
def State.readPart (s : State) (g : Group) (rb pos m : Nat) : MOpnd → Except EngineStop (List XByte × State)
  | .scr win off => .ok (s.xscr g ⟨g.rank, win, off + pos⟩ m, s)
  | .ring q t =>
    match g.q.getD q none with
    | some r =>
      let a := r.at' g.rank t
      .ok (s.xscr g { a with off := a.off + pos } m, s)
    | none => .ok (List.replicate m (0, false), s)
  | .rows base win off => s.engineRead g (s.rowVa g rb base win off pos) m

/-- The element k of row i of an operand with its scale (08 R167; 03 R79). -/
def mmaElem (t : FTy) (scaled : Bool) (k : Nat) (es : List Nat) (scales : List Byte) (i j : Nat) : Fv :=
  let x := fDecode t (es.getD (i * k + j) 0)
  if scaled then (exactMul x (e8m0 (scales.getD (i * (k / 32) + j / 32) 0).toNat)).1 else x

/-- The elements and scales of an operand's bytes. -/
def mmaSplit (t : FTy) (k : Nat) (bs : List XByte) : List Nat × List Byte :=
  let w := fWidth t
  let n := 128 * k * w / 8
  let raw := bs.map Prod.fst
  (elemsFrom w (128 * k) (ofBytes (raw.take n)), raw.drop n)

/-- One accumulator element after an MMA (03 R79). -/
def mmaCell (t : FTy) (scaled : Bool) (k : Nat) (a b : List Nat × List Byte) (acc i j : Nat) : Nat :=
  chunksAdd (chunkLen t) k acc ((List.range k).map fun x =>
    (exactMul (mmaElem t scaled k a.1 a.2 i x) (mmaElem t scaled k b.1 b.2 j x)).1)

/-- An accumulator after an MMA (08 R167); a poisoned operand byte poisons it (14 R272). -/
def Acc.mma (acc : Acc) (t : FTy) (scaled : Bool) (k : Nat) (a b : List XByte) : Acc :=
  let xa := mmaSplit t k a
  let xb := mmaSplit t k b
  let cells := (List.range 16384).flatMap fun f =>
    bytesOf (mmaCell t scaled k xa xb (ofBytes (acc.cells.read (4 * f) 4)) (f / 128) (f % 128)) 4
  { cells := Cells.write [] 0 cells
    poisoned := acc.poisoned || a.any Prod.snd || b.any Prod.snd }

/-- Changes the head matrix command of a group. -/
def State.setHead (s : State) (p : Place) (f : MatCmd → MatCmd) : State :=
  s.setGroup p fun g => { g with
    mq := match g.mq with
      | c :: rest => f c :: rest
      | [] => [] }

/-- The head matrix command of a group cannot go on: it stops, or waits for a page's change to end (14 R270). -/
def State.haltMatrix (s : State) (p : Place) (x : EngineStop) (acc : Access) : State :=
  if x.under = waitCause then s else s.setHead p fun c => { c with stop := some ⟨0x0C5, x.under, x.va, acc, false⟩ }

/-- The head matrix command of a group has retired. -/
def State.retireMatrix (s : State) (p : Place) : State := (s.setGroup p fun g => { g with mq := g.mq.tail }).afterWork p

/-- Consumes the ring entry of an operand (08 R175). -/
def Group.consumeOpnd (g : Group) : MOpnd → Group
  | .ring q t => g.setRing q fun r => r.consume t
  | _ => g

/-- The bytes of an MMA's operands that it reads next: bytes not read yet, in any order, of one line (08 R169; 10 R201).
Log 70 (DEDUCED). -/
def State.mmaRun (s : State) (g : Group) (ws : List Way) (n rb : Nat) (a b : MOpnd) : Option (Nat × Nat) :=
  runAt (Config.portion s.fresh) ws (fun _ w => w.isLeft) fun i =>
    if i < n then s.opndCut g n rb i a else s.opndCut g n rb (i - n) b

/-- MMA, MMA.G and MMAS go on (08 R167 to R169): bytes of the operands are read; with all of them the command retires.
Log 70 (DEDUCED). -/
def State.runMma (s : State) (g : Group) (cmd : MatCmd) (t : FTy) (scaled : Bool) (k acc : Nat) (a b : MOpnd)
    (bar : Option ScrAt) : State :=
  let n := opndBytes t scaled k
  let rb := k * fWidth t / 8
  let ws := waysOf (2 * n) cmd.ways
  match s.mmaRun g ws n rb a b with
  | some (i, m) =>
    match if i < n then s.readPart g rb i m a else s.readPart g rb (i - n) m b with
    | .error e => s.haltMatrix g.place e .engineRead
    | .ok (bs, s1) => s1.setHead g.place fun c => { c with ways := setWays ws i (bs.map fun x => .read x.1 x.2) }
  | none =>
    let got := ws.map Way.xbyte
    let s1 := s.setGroup g.place fun g =>
      ({ g with acc := updAt g.acc acc fun x => x.mma t scaled k (got.take n) (got.drop n) }.consumeOpnd a).consumeOpnd b
    let s2 := match bar with
      | some x => s1.creditBar g cmd.tag x 0 1
      | none => s1
    (s2.progress g.ctx).retireMatrix g.place

/-- The output type of an MST (08 R172). -/
def otTy : OTy → FTy
  | .f32 => .f32 | .bf16 => .bf16 | .f16 => .f16 | .e4m3 => .e4m3 | .e5m2 => .e5m2

/-- One element of an MST (08 R172). -/
def mstElem (o : MstOps) (seed n : Word) (idx f v : Nat) : Nat :=
  let x := fDecode .f32 v
  let x := if o.relu && !x.isNan && (x.isZero || x.isNeg) then Fv.ofInt 0 else x
  let draw := match o.rnd with
    | .sr => draw16 seed n (f * 32 + idx)
    | _ => 0
  (fRound (otTy o.ot) ⟨o.rnd, o.sat, draw⟩ x).bits

/-- The bytes of row i of an MST. -/
def mstRow (o : MstOps) (seed n : Word) (idx : Nat) (acc : Acc) (i : Nat) : List XByte :=
  ((List.range 128).flatMap fun j =>
    bytesOf (mstElem o seed n idx (128 * i + j) (ofBytes (acc.cells.read (4 * (128 * i + j)) 4))) (otBytes o.ot)).map fun b =>
      (b, acc.poisoned)

/-- Bytes of a row of an MST. -/
def mstRowBytes (o : MstOps) : Nat := 128 * otBytes o.ot

/-- Where a byte of an MST goes, from its destination (08 R172). -/
def mstPlace (o : MstOps) (i : Nat) : Nat := i / mstRowBytes o * mstPitch o + i % mstRowBytes o

/-- The bytes with which an MST goes on: bytes not written yet, in any order, of one line; where rows overlap, a row follows the
one before it. Log 70 (DEDUCED). -/
def State.mstRun (s : State) (o : MstOps) (dst : Nat) (ws : List Way) : Option (Nat × Nat) :=
  let rb := mstRowBytes o
  let row := (ws.findIdx? Way.isLeft).getD 0 / rb
  runAt (Config.portion s.fresh) ws (fun i w => w.isLeft && (decide (rb ≤ mstPitch o) || i / rb == row)) fun i =>
    lineCut (dst + mstPlace o i) (rb - i % rb)

/-- Credits bytes of an MST that its earlier run did not credit (08 R164); a byte that rows of a small pitch write more than
once is credited each time. Log 120 (DESIGN CHOICE). -/
def State.creditMst (s : State) (g : Group) (t : Tag) (bar : Option ScrAt) (k : Nat) : State :=
  match bar with
  | none => s
  | some a => if k = 0 then s else s.creditBar g t a (-(k : Int)) 0

/-- Bytes of an MST are written at an offset of its destination; `more` are those about them that it has written. -/
def State.putMst (s : State) (g : Group) (scr : Option ScrAt) (va : Nat) (o : Nat) (bs : List XByte) (more : List (Nat × Bool)) :
    Except EngineStop State :=
  match scr with
  | some a => .ok (s.xscrWrite g { a with off := a.off + o } bs more)
  | none =>
    match s.xwriteMore (some g.place.die) g.ctx (va + o) bs more .engineWrite with
    | .error e => .error ⟨e.2, e.1⟩
    | .ok s' => .ok s'

/-- The bytes of a list of marks that are not marked, from a position on. Log 120 (DESIGN CHOICE). -/
def unmarked (l : List Bool) (i m : Nat) : Nat := ((List.range m).filter fun k => !l.getD (i + k) false).length

/-- MST goes on (08 R172): bytes of it are written and credited; after the last it retires. Log 70 (DEDUCED). -/
def State.runMst (s : State) (g : Group) (c : MatCmd) (o : MstOps) (scr : Option ScrAt) (va : Nat) (credit : Option ScrAt)
    (seed n : Word) : State :=
  let rb := mstRowBytes o
  let ws := waysOf (128 * rb) c.ways
  let acc := g.acc.getD o.acc.toNat {}
  let dst := match scr with
    | some a => a.off
    | none => va
  match s.mstRun o dst ws with
  | none => s.retireMatrix g.place
  | some (i, m) =>
    let bs := ((mstRow o seed n c.tag.idx acc (i / rb)).drop (i % rb)).take m
    let more := putAbout ws (i / rb * rb) (i / rb * rb + rb) i m fun j => dst + mstPlace o j
    if scr.isNone && s.xblocked none (some g.place.die) g.ctx (va + mstPlace o i) m .engineWrite then s
    else match s.putMst g scr va (mstPlace o i) bs more with
      | .error e => s.haltMatrix g.place e .engineWrite
      | .ok s1 =>
        let marks := c.credited ++ List.replicate (128 * rb - c.credited.length) false
        ((s1.progress g.ctx).setHead g.place fun c => { c with
          ways := setWays ws i (bs.map fun b => .put b.2)
          credited := marks.take i ++ List.replicate m true ++ marks.drop (i + m) }).creditMst g c.tag credit (unmarked c.credited i m)

/-- MATRIX_COMMAND_RETIRE (08 R169). Log 70 (DEDUCED). -/
def execMatrixCommandRetire (p : Place) (s : State) : Out1 :=
  match s.group? p with
  | none => .next s
  | some g =>
    match g.mq with
    | [] => .next s
    | c :: _ =>
      if !c.started || c.stop.isSome then .next s
      else .next (match c.op with
        | .mma t scaled k acc a b bar => s.runMma g c t scaled k acc a b bar
        | .mzero accs =>
          (s.setGroup p fun g => { g with
            acc := ((List.range g.acc.length).zip g.acc).map fun x => if Nat.testBit accs x.1 then {} else x.2 }).retireMatrix p
        | .mst o scr va credit seed n => s.runMst g c o scr va credit seed n)

/-! ## The copy engine (08 R179 to R182; 21 R380) -/

/-- Pieces of a row of a copy. -/
def CpyCmd.perRow (c : CpyCmd) : Nat := (c.rb + 4095) / 4096
/-- Pieces of a copy. -/
def CpyCmd.pieces (c : CpyCmd) : Nat := c.rows * c.perRow
/-- Row, first byte in the row and bytes of a piece. Log 68 (DEDUCED). -/
def CpyCmd.piece (c : CpyCmd) (k : Nat) : Nat × Nat × Nat :=
  let o := k % c.perRow * 4096
  (k / c.perRow, o, if c.rb < o + 4096 then c.rb - o else 4096)
/-- The first piece not complete. -/
def CpyCmd.first (c : CpyCmd) : Nat := ((List.range c.pieces).find? fun k => !c.done.contains k).getD c.pieces
/-- A piece may be performed: not complete, and at most 64 pieces of the command in flight. Log 68 (DEDUCED). -/
def CpyCmd.mayDo (c : CpyCmd) (k : Nat) : Bool :=
  decide (k < c.pieces) && !c.done.contains k && decide (k < c.first + 64) && c.stop.isNone
/-- Pieces are issued in order, up to one (21 R380). -/
def CpyCmd.issue (c : CpyCmd) (k : Nat) : CpyCmd := { c with issued := if c.issued ≤ k then k + 1 else c.issued }
/-- How far the bytes of a piece are. -/
def CpyCmd.waysAt (c : CpyCmd) (k : Nat) : List Way := ((c.part.find? fun x => x.1 == k).map Prod.snd).getD []
/-- The destinations of each byte of a copy: the members of a CPY.MC. -/
def CpyCmd.fan (c : CpyCmd) : Nat :=
  match c.dst with
  | .mc ranks _ _ => ranks.length
  | _ => 1

/-- Moves a scratch place by bytes. -/
def ScrAt.plus (a : ScrAt) (n : Nat) : ScrAt := { a with off := a.off + n }

/-- Where a byte of a row of a copy comes from: a global address, or the byte of its window (08 R180, R181). -/
def State.pieceSrc (s : State) (g : Group) (c : CpyCmd) (row o : Nat) : Nat :=
  match c.src with
  | .glob va => va + row * c.sp + o
  | .scr a => a.off + row * c.sp + o
  | .gath base idx => base + ofBytes (s.scrRead g (idx.plus (4 * row)) 4) * c.rb + o

/-- Source bytes of a copy from a byte of a row. Log 68 (DEDUCED). -/
def State.pieceRead (s : State) (g : Group) (c : CpyCmd) (row o n : Nat) : Except EngineStop (List XByte × State) :=
  match c.src with
  | .scr a => .ok (s.xscr g { a with off := s.pieceSrc g c row o } n, s)
  | _ => s.engineRead g (s.pieceSrc g c row o) n

/-- Where a copy's byte of a row goes: a global address, or the byte of its window. -/
def Group.pieceDst (g : Group) (c : CpyCmd) (row o : Nat) : Nat :=
  match c.dst with
  | .glob va => va + row * c.dp + o
  | .scr a => a.off + row * c.dp + o
  | .ring q t =>
    match g.q.getD q none with
    | some r => (r.at' g.rank t).off + row * c.rb + o
    | none => o
  | .mc _ _ off => off + o

/-- Writes bytes of a copy at their destination, of a CPY.MC at one of its members; `more` are those about them that it has
written (08 R180, R181). Log 68 (DEDUCED). -/
def State.pieceWrite (s : State) (g : Group) (c : CpyCmd) (row o to' : Nat) (bs : List XByte) (more : List (Nat × Bool)) :
    Except EngineStop State :=
  let d := g.pieceDst c row o
  match c.dst with
  | .glob _ =>
    if 2 ^ 56 ≤ d then .error ⟨0x080, d⟩
    else match s.xwriteMore (some g.place.die) g.ctx d bs more .engineWrite with
      | .error e => .error ⟨e.2, e.1⟩
      | .ok s' => .ok s'
  | .scr a => .ok (s.xscrWrite g { a with off := d } bs more)
  | .ring q t =>
    match g.q.getD q none with
    | some r => .ok (s.xscrWrite g { (r.at' g.rank t) with off := d } bs more)
    | none => .ok s
  | .mc ranks win _ => .ok (s.xscrWrite g ⟨ranks.getD to' 0, win, d⟩ bs more)

/-- Bytes of a copy meet a lease at their destination (11 R226). -/
def State.pieceBlocked (s : State) (g : Group) (c : CpyCmd) (row o n : Nat) : Bool :=
  match c.dst with
  | .glob _ => s.xblocked none (some g.place.die) g.ctx (g.pieceDst c row o) n .engineWrite
  | _ => false

/-- Replaces a copy of a group. -/
def State.setCopy (s : State) (p : Place) (id : Nat) (f : CpyCmd → CpyCmd) : State :=
  s.setGroup p fun g => { g with cq := updFirst (fun c => c.id == id) f g.cq }

/-- A complete copy leaves its queue; its ring entry becomes present (08 R175). -/
def State.finishCopy (s : State) (p : Place) (c : CpyCmd) : State :=
  let s := s.setGroup p fun g =>
    let g := match c.dst with
      | .ring q t => g.setRing q fun r => r.mark t .present
      | _ => g
    { g with cq := g.cq.filter fun x => x.id != c.id }
  s.afterWork p

/-- A copy cannot go on: it stops, or waits for a page's change to end (14 R270). -/
def State.haltCopy (s : State) (p : Place) (id : Nat) (e : EngineStop) (acc : Access) : State :=
  if e.under = waitCause then s else s.setCopy p id fun c => { c with stop := some ⟨0x0C4, e.under, e.va, acc, false⟩ }

/-- How far each byte of a piece is at each of its destinations: a byte's position is that of its destination times the piece's
bytes, and its own. -/
def CpyCmd.waysOfPiece (c : CpyCmd) (k : Nat) : List Way := waysOf ((c.piece k).2.2 * c.fan) (c.waysAt k)

/-- The bytes with which a piece goes on: bytes not written yet, in any order, all to be read, of one line of the source, or all
to be written, of one line of the destination (08 R182; 10 R201). Log 68 (DEDUCED). -/
def State.pieceRun (s : State) (g : Group) (c : CpyCmd) (k : Nat) : Option (Nat × Nat) :=
  let pc := c.piece k
  let ws := c.waysOfPiece k
  runAt (Config.portion s.fresh) ws (fun _ w => !w.isPut) fun i =>
    let o := pc.2.1 + i % pc.2.2
    lineCut (if (ws.getD i .left).isLeft then s.pieceSrc g c pc.1 o else g.pieceDst c pc.1 o) (pc.2.2 - i % pc.2.2)

/-- Bytes that a piece has read stand ready at each of its destinations: they are read once (08 R180). -/
def fanWays (ws : List Way) (n i : Nat) (bs : List XByte) : Nat → List Way
  | 0 => ws
  | f + 1 => setWays (fanWays ws n i bs f) (f * n + i) (bs.map fun x => .read x.1 x.2)

/-- Replaces how far the bytes of a piece are. -/
def CpyCmd.setPart (c : CpyCmd) (k : Nat) (ws : List Way) : CpyCmd := { c with part := (k, ws) :: c.part.filter fun y => y.1 != k }

/-- A piece of which every byte is written is credited and complete (21 R380). -/
def State.endPiece (s : State) (g : Group) (c : CpyCmd) (k : Nat) : State :=
  let s1 := c.credit.foldl (fun s a => s.creditBar g c.tag a (-((c.piece k).2.2 : Int)) 0) s
  let c' : CpyCmd := { (c.issue k) with part := c.part.filter (fun y => y.1 != k), done := k :: c.done }
  if c'.first = c'.pieces then s1.finishCopy g.place c' else s1.setCopy g.place c.id fun _ => c'

/-- Bytes of a piece are read. Log 68 (DEDUCED). -/
def State.readPiece (s : State) (g : Group) (c : CpyCmd) (k i m : Nat) : State :=
  let pc := c.piece k
  match s.pieceRead g c pc.1 (pc.2.1 + i % pc.2.2) m with
  | .error e => s.haltCopy g.place c.id e .engineRead
  | .ok (bs, s1) =>
    (s1.progress g.ctx).setCopy g.place c.id fun c =>
      (c.issue k).setPart k (fanWays (c.waysOfPiece k) pc.2.2 (i % pc.2.2) bs c.fan)

/-- Bytes of a piece that have been read are written. Log 68 (DEDUCED). -/
def State.writePiece (s : State) (g : Group) (c : CpyCmd) (k i m : Nat) : State :=
  let pc := c.piece k
  let ws := c.waysOfPiece k
  let lo := i / pc.2.2 * pc.2.2
  let bs := ((ws.drop i).take m).map Way.xbyte
  match s.pieceWrite g c pc.1 (pc.2.1 + i % pc.2.2) (i / pc.2.2) bs
      (putAbout ws lo (lo + pc.2.2) i m fun j => g.pieceDst c pc.1 (pc.2.1 + j % pc.2.2)) with
  | .error e => s.haltCopy g.place c.id e .engineWrite
  | .ok s1 =>
    let ws' := setWays ws i (bs.map fun b => .put b.2)
    if ws'.all Way.isPut then (s1.progress g.ctx).endPiece g c k
    else (s1.progress g.ctx).setCopy g.place c.id fun c => (c.issue k).setPart k ws'

/-- COPY_PIECE (21 R380): a piece goes on; in a cut only one that has been issued. Log 68 (DEDUCED). -/
def execCopyPiece (p : Place) (cmd piece : Nat) (s : State) : Out1 :=
  match s.group? p with
  | none => .next s
  | some g =>
    match g.cq.find? fun c => c.id == cmd with
    | none => .next s
    | some c =>
      if !(g.storesDone c.tag && c.mayDo piece && (decide (piece < c.issued) || s.engineOn g (g.awaitsCopy c))) then .next s
      else match s.pieceRun g c piece with
        | none => .next s
        | some (i, m) =>
          let pc := c.piece piece
          if ((c.waysOfPiece piece).getD i .left).isLeft then .next (s.readPiece g c piece i m)
          else if s.pieceBlocked g c pc.1 (pc.2.1 + i % pc.2.2) m then .next s
          else .next (s.writePiece g c piece i m)

/-! ## Fault reports (08 R164) -/

/-- A stop that has not been reported. -/
def isUntold : Option Stop → Bool
  | some x => !x.told
  | none => false

/-- Marks a stop as reported. -/
def tellStop (x : Option Stop) : Option Stop := x.map fun y => { y with told := true }

/-- ENGINE_FAULT_REPORT (08 R164): the engine records the cause of a command it stopped; a group that stands where it can
park parks. -/
def execEngineFaultReport (p : Place) (s : State) : Out1 :=
  match s.group? p with
  | none => .next s
  | some g =>
    match g.mq.find? fun c => isUntold c.stop with
    | some c =>
      .next (match c.stop with
        | some x =>
          (s.setGroup p fun g => { g with mq := g.mq.map fun y => { y with stop := tellStop y.stop } }).tell p c.tag x
        | none => s)
    | none =>
      match g.cq.find? fun c => isUntold c.stop with
      | some c =>
        .next (match c.stop with
          | some x => (s.setCopy p c.id fun y => { y with stop := tellStop y.stop }).tell p c.tag x
          | none => s)
      | none =>
        match g.prep with
        | some q =>
          .next (match q.stop with
            | some x =>
              if x.told then s.parkReport p
              else (s.setGroup p fun g => { g with prep := some { q with stop := tellStop q.stop } }).tell p q.tag x
            | none => s.parkReport p)
        | none => .next (s.parkReport p)

/-! ## The stream unit (08 R190) -/

/-- Elements that a memory stream buffers. Log 66 (DESIGN CHOICE). -/
def streamRoom : Nat := 16

/-- A stream after the next bytes of its next element: bytes not fetched yet, in any order, of one line; a fault is kept for the
READ that would deliver the element (08 R190; 10 R201). Log 67 (DEDUCED). -/
def State.fetchElem (s : State) (g : Group) (st : Stream) (va n : Nat) : Stream × State :=
  let add (e : SElem) : Stream := { st with buf := st.buf ++ [e], fetched := st.fetched + 1, part := [] }
  let ws := waysOf n st.part
  match runAt (Config.portion s.fresh) ws (fun _ w => w.isLeft) fun i => lineCut (va + i) (n - i) with
  | none => (st, s)
  | some (i, m) =>
    if 2 ^ 56 ≤ va + i then (add (.fault 0x080 (va + i)), s)
    else match s.xread (some g.place.die) g.ctx (va + i) m .load with
      | .error e => if e.2 = waitCause then (st, s) else (add (.fault e.2 e.1), s)
      | .ok (bs, s') =>
        let l := setWays ws i (bs.map fun x => .read x.1 x.2)
        if l.any Way.isLeft then ({ st with part := l }, s')
        else
          let xs := l.map Way.xbyte
          (add (.data (xs.map Prod.fst) ((xs.findIdx? Prod.snd).map fun i => (va + i) / 64 * 64)), s')

/-- STREAM_PREFETCH (08 R190): the next bytes of a memory input stream, if there is room and no element before failed. -/
def execStreamPrefetch (p : Place) (reg : Nat) (s : State) : Out1 :=
  match s.group? p with
  | none => .next s
  | some g =>
    match g.s.getD reg none with
    | none => .next s
    | some st =>
      match st.src with
      | .mem base stride n =>
        if st.out || decide (n ≤ st.fetched) || decide (streamRoom ≤ st.buf.length) || st.buf.any SElem.isFault ||
            !s.engineOn g false then .next s
        else
          let r := s.fetchElem g st (base + st.fetched * stride) (elemBytes st.vec st.lanes)
          .next (r.2.setGroup p fun g => { g with s := g.s.set reg (some r.1) })
      | _ => .next s

end Sys2Proof.Machine
end

