-- ==== Sys2Proof/Machine/Control.lean ====
section
/-!
DEFINITION. Machine/Control.lean: the control instructions (04 R100 to R106): each holds its exit for the commit.
-/
namespace Sys2Proof.Machine

/-- The firing of an exit. -/
def Env.leave (e : Env) (x : Exit) : Fire := .ok { s := e.s, exit := some x }

/-- The continuation address of a block (04 R101). -/
def BlockRun.cont (r : BlockRun) : Word :=
  r.addr + wordN (16 + 8 * (r.n + r.l + (r.n + r.l) % 2))

/-- A target relative to the block's header (02 R38, 04 R100). -/
def BlockRun.rel (r : BlockRun) (off : BitVec 32) : Word := r.addr + off.signExtend 64 * 16#64

/-- BR (04 R100, R102). -/
def execBr (c : Ctl) (s : State) : Out1 := settle (.br c) s fun e => e.leave (.br (e.word .l))

/-- BRI (04 R100). -/
def execBri (c : Ctl) (off : BitVec 32) (s : State) : Out1 := settle (.bri c off) s fun e => e.leave (.br (e.r.rel off))

/-- CALL (04 R100, R101, R103). -/
def execCall (c : Ctl) (off : BitVec 32) (s : State) : Out1 :=
  settle (.call c off) s fun e => e.leave (.call (e.r.rel off) e.r.cont)

/-- RET (04 R100, R103). -/
def execRet (c : Ctl) (s : State) : Out1 := settle (.ret c) s fun e => e.leave .ret

/-- END (04 R105). -/
def execEndg (c : Ctl) (s : State) : Out1 := settle (.endg c) s fun e => e.leave .endg

/-- TRAP (04 R106). -/
def execTrap (c : Ctl) (n : BitVec 6) (s : State) : Out1 :=
  settle (.trap c n) s fun e => e.leave (.trap n.toNat e.r.cont)

end Sys2Proof.Machine
end

