-- ==== Sys2Proof/Machine/Tile.lean ====
section
/-!
DEFINITION. Machine/Tile.lean: the steps of the tile core: fetching and decoding a block (02 R31 to R33, R50 to R53;
10 R209), waiting, completion and discard (07 R147 to R159; 11 R227; 15 R286).
-/
namespace Sys2Proof.Machine

/-! ## The header (02 R32) -/

/-- A decoded header. -/
structure Header where
  kind : Nat
  n : Nat
  l : Nat
  mask : Nat
  w : Nat
  zero : Bool
  relay : Bool
  nospec : Bool
deriving DecidableEq, Repr

/-- The header of its two words. -/
def headerOf (lo hi : Word) : Header :=
  ⟨bitsN hi 60 4, bitsN hi 54 6, bitsN hi 50 4, bitsN hi 18 32, bitsN hi 13 5,
    decide (lo = 0) && decide (bitsN hi 8 5 = 0) && decide (bitsN hi 2 6 = 0), bitN hi 1, bitN hi 0⟩

/-! ## Fetch (02 R53, 10 R209) -/

/-- What a fetch comes to. -/
inductive Fetch (α : Type) where
  | ok (x : α)
  | fault (cause va : Nat)
  | touch (va : Nat)

/-- Fetches words one after another, bringing their lines into the die. -/
def State.fetchWords (s : State) (g : Group) : Nat → Nat → Fetch (List Word × State)
  | _, 0 => .ok ([], s)
  | va, n + 1 =>
    match s.translate g.ctx va .fetch with
    | .fault c => .fault c va
    | .touch => .touch va
    | .ok pa =>
      let s := s.fetchLines g.place.die pa 8
      if s.badDie g.place.die (pa / 64) then .fault 0x08C (va / 64 * 64)
      else
        match s.fetchWords g (va + 8) n with
        | .ok (l, s') => .ok (wordN (ofBytes (s.dieRead g.place.die pa 8)) :: l, s')
        | .fault c a => .fault c a
        | .touch a => .touch a

/-! ## Checks of a block (02 R51, R52) -/

/-- A READ word of a stream register: its register. -/
def readsStream (w : Word) : Option Nat := if bitsN w 54 10 = 1 ∧ bitsN w 29 3 = 4 then some (bitsN w 24 5) else none

/-- Decodes the words of a block one after another. -/
def decodeAll (cx : DecCx) : List Word → List (Except Cause Instr)
  | [] => []
  | w :: ws =>
    decodeIn cx w :: decodeAll (match readsStream w with
      | some r => { cx with readable := cx.readable.filter (· ≠ r) }
      | none => cx) ws

/-- The lowest cause found at words, with its lowest index. -/
def lowestAt : List (Option Nat) → Nat → Option (Nat × Nat)
  | [], _ => none
  | c :: cs, i =>
    match c, lowestAt cs (i + 1) with
    | some a, some (b, j) => if b < a then some (b, j) else some (a, i)
    | some a, none => some (a, i)
    | none, r => r

/-- The targets of a block: producer, slot, target index. -/
def edgesOf (is : List Instr) : List (Nat × Slot × Nat) :=
  ((List.range is.length).zip is).flatMap fun x => (targetsOf x.2).filterMap fun t => match t with
    | .off => none
    | .to sl j => some (x.1, sl, j.toNat)

/-- The slots an instruction of a block consumes. -/
def consumes (is : List Instr) (j : Nat) (sl : Slot) : Bool :=
  match is[j]? with
  | some i => (slotsOf i).any fun s => s.1 = sl
  | none => false

/-- The first index that satisfies a test, with a cause. -/
def causeAt (c n : Nat) (f : Nat → Bool) : Option (Nat × Nat) := ((List.range n).find? f).map fun i => (c, i)

/-- How many targets name a slot. -/
def feeds (es : List (Nat × Slot × Nat)) (j : Nat) (sl : Slot) : Nat := (es.filter fun e => decide (e.2.1 = sl) && e.2.2 == j).length

/-- One round of reachability: each node's set grows by the sets of the nodes in it. -/
def reachRound (m : List Nat) : List Nat :=
  m.map fun r => (List.range m.length).foldl (fun a j => if Nat.testBit r j then a ||| m.getD j 0 else a) r

/-- The nodes each node reaches, as bit sets. -/
def reachAll (es : List (Nat × Slot × Nat)) (n : Nat) : List Nat :=
  let one : List Nat := (List.range n).map fun i => (es.filter fun e => e.1 == i).foldl (fun a e => a ||| 2 ^ e.2.2) 0
  (List.range 6).foldl (fun m _ => reachRound m) one

/-- What a producer delivers: nothing, any shape, one shape. Log 142 (DEDUCED). -/
inductive PShape where
  | nothing
  | any
  | sh (x : Shape)
deriving DecidableEq, Repr

/-- The producer of a slot. -/
def producerOf (es : List (Nat × Slot × Nat)) (j : Nat) (sl : Slot) : Option Nat :=
  (es.find? fun e => decide (e.2.1 = sl) && e.2.2 == j).map fun e => e.1

/-- The shape of a producer from the shapes so far; `bound` gives a stream register's. Log 142 (DEDUCED). -/
def shapeOf (bound : Nat → Shape) (es : List (Nat × Slot × Nat)) (tab : List PShape) (j : Nat) (i : Instr) : PShape :=
  let from' (sl : Slot) : PShape := match producerOf es j sl with
    | some k => tab.getD k .any
    | none => .any
  match resultOf i with
  | .none => .nothing
  | .sh x => .sh x
  | .voids => .any
  | .stream n => .sh (bound n)
  | .ofL => if from' .l = .any then (match i with
      | .sel _ _ => from' .r
      | _ => .any) else from' .l

/-- The shapes of a block's producers, in dataflow order. -/
def shapesOf (bound : Nat → Shape) (es : List (Nat × Slot × Nat)) (is : List Instr) : List PShape :=
  is.foldl (fun tab _ => ((List.range is.length).zip is).map fun x => shapeOf bound es tab x.1 x.2) (is.map fun _ => .any)

/-- A producer's shape suits a slot. -/
def suits (p : PShape) (n : Need) : Bool :=
  match p, n with
  | .nothing, _ => false
  | .any, _ => true
  | .sh _, .any => true
  | .sh x, .sh y => x = y

/-- The token shape SEMIT takes: that of its register at the block's start (02 R50). -/
def needFor (emits : Nat → Option Shape) (i : Instr) (n : Need) : Need :=
  match i with
  | .semit _ _ _ r => match emits r.toNat with
    | some x => .sh x
    | none => n
  | _ => n

/-- An instruction of a block is fed a token of another shape than its slot takes. -/
def misfed (emits : Nat → Option Shape) (es : List (Nat × Slot × Nat)) (tab : List PShape) (is : List Instr) (j : Nat) : Bool :=
  match is[j]? with
  | none => false
  | some i =>
    let at' (sl : Slot) : PShape := match producerOf es j sl with
      | some k => tab.getD k .any
      | none => .any
    (slotsOf i).any (fun s => !suits (at' s.1) (if s.1 = .g then s.2 else needFor emits i s.2)) ||
      (match i with
        | .sel _ _ => decide (at' .l ≠ at' .r) && decide (at' .l ≠ .any) && decide (at' .r ≠ .any)
        | _ => false)

/-- The LSIDs of a block's instructions. -/
def lsids (is : List Instr) : List (Option Nat) := is.map lsidOf

/-- The side-effect mask that a block's instructions give. -/
def maskOf (is : List Instr) : Nat := is.foldl (fun m i => match maskLsid i with
  | some j => m ||| 2 ^ j
  | none => m) 0

/-- The first of a list of optional causes. -/
def firstOf : List (Option (Nat × Nat)) → Option (Nat × Nat)
  | [] => none
  | some x :: _ => some x
  | none :: l => firstOf l

/-- The checks of a decoded block in the order of their causes, 0x00E to 0x018 (02 R51, R52). -/
def blockCause (h : Header) (bound : Nat → Shape) (emits : Nat → Option Shape) (is : List Instr) : Option (Nat × Nat) :=
  let n := is.length
  let es := edgesOf is
  let ls := lsids is
  firstOf [
    causeAt 0x00E n fun i => es.any fun e => e.1 == i && decide (n ≤ e.2.2),
    causeAt 0x00F n fun i => es.any fun e => e.1 == i && !consumes is e.2.2 e.2.1,
    causeAt 0x010 n fun j => (slotsOf (is.getD j .nop)).any fun s => feeds es j s.1 = 0,
    causeAt 0x011 n fun j => (slotsOf (is.getD j .nop)).any fun s => decide (2 ≤ feeds es j s.1),
    causeAt 0x012 n fun i => Nat.testBit ((reachAll es n).getD i 0) i,
    causeAt 0x013 n fun j => misfed emits es (shapesOf bound es is) is j,
    causeAt 0x014 n fun j => match ls.getD j none with
      | some x => (ls.take j).contains (some x)
      | none => false,
    if maskOf is ≠ h.mask then some (0x015, 0x3F) else none,
    if (is.filter isWrite).length ≠ h.w then some (0x016, 0x3F) else none,
    if is.any isBranch then none else some (0x017, 0x3F),
    if h.relay = is.any isRelay then none else some (0x018, 0x3F)]

/-- The decode context of a group (02 R38, R39, R88). -/
def Group.decCx (g : Group) (l : Nat) : DecCx :=
  ⟨l, g.shape.rings, g.shape.streams, g.shape.acc, (List.range 8).filter fun i => (g.s.getD i none).isSome⟩

/-- The shape a stream register is bound at. -/
def Group.boundShape (g : Group) (n : Nat) : Option Shape :=
  (g.s.getD n none).map fun st => if st.vec then .v else .s

/-- Decodes the words of a block for a group: its instructions, or the cause with its index. -/
def Group.decodeBlock (g : Group) (h : Header) (ws : List Word) : Except (Nat × Nat) (List Instr) :=
  if !h.zero then .error (0x004, 0x3F)
  else
    let ds := decodeAll (g.decCx h.l) ws
    match lowestAt (ds.map fun d => match d with
      | .error c => some c
      | .ok _ => none) 0 with
    | some e => .error e
    | none =>
      let is := ds.filterMap fun d => match d with
        | .ok i => some i
        | .error _ => none
      match blockCause h (fun n => (g.boundShape n).getD .s) g.boundShape is with
      | some e => .error e
      | none => .ok is

/-- A node of a word and its instruction. -/
def freshNode (w : Word) (i : Instr) : Node :=
  ⟨w, i, none, none, none, none, .pending, {}, .none, none, none, none, false, false, none, none, none⟩

/-- The turn ends. -/
def State.endTurn (s : State) (p : Place) : State := if s.turn = .group p then { s with turn := .idle } else s

/-- A group meets a Touch page: its block is discarded until the page is committed (14 R267). -/
def State.touchAt (s : State) (p : Place) (va : Nat) (acc : Access) (idx : Nat) (lsid : Option Nat) : State :=
  ((s.discard p).setGroup p fun g => { g with phase := .touching va acc idx lsid }).endTurn p

/-- A defect or fault at the start of a block parks the group there. -/
def State.parkStart (s : State) (p : Place) (t : Trap) (a : Word) : State :=
  ((s.setGroup p fun g => { g with ahead := none }).takeTrap p { t with blk := a } (.rerun a)).endTurn p

/-- What fetching and decoding a block comes to: its nodes, a defect with its index, a fault, or a Touch page. -/
inductive Loaded where
  | ok (r : BlockRun) (s : State)
  | defect (cause idx : Nat) (s : State)
  | fault (cause va : Nat) (s : State)
  | touch (va : Nat) (s : State)

/-- Fetches and decodes the block at an address for a group (02 R31 to R33, R50 to R53). -/
def State.loadBlock (s : State) (g : Group) (a : Word) : Loaded :=
  let va := a.toNat
  if va % 16 ≠ 0 then .defect 0x001 0x3F s
  else match s.fetchWords g va 2 with
    | .fault c x => .fault c x s
    | .touch x => .touch x s
    | .ok (hw, s1) =>
      let h := headerOf (hw.getD 0 0) (hw.getD 1 0)
      if h.kind ≠ 0xB then .defect 0x002 0x3F s1
      else if h.n = 0 ∨ 32 < h.n then .defect 0x003 0x3F s1
      else match s1.fetchWords g (va + 16) (h.n + h.l) with
        | .fault c x => .fault c x s1
        | .touch x => .touch x s1
        | .ok (ws, s2) =>
          match g.decodeBlock h (ws.take h.n) with
          | .error (c, i) => .defect c i s2
          | .ok is =>
            .ok ⟨a, h.n, h.l, BitVec.ofNat 32 h.mask, h.relay, h.nospec, ws.drop h.n,
              ((ws.take h.n).zip is).map fun x => freshNode x.1 x.2, 0, spanPages va (16 + 8 * (h.n + h.l))⟩ s2

/-- BLOCK_FETCH_DECODE (02 R53): fetches and decodes the group's next block; a defect or fault parks it at the block's start. -/
def State.fetchBlock (s : State) (p : Place) (g : Group) : State :=
  match s.loadBlock g g.next with
  | .ok r t => t.setGroup p fun g => { g with ahead := none, run := some r }
  | .defect c i t => t.parkStart p { cause := c, idx := i } g.next
  | .fault c x t => t.parkStart p { cause := c, va := x, acc := .fetch } g.next
  | .touch x t => t.touchAt p x .fetch 0x3F .none

/-- A context dispatches and runs its groups. -/
def State.ctxLive (s : State) (c : Nat) : Bool :=
  match s.ctx? c with
  | some x => decide (x.st = .live)
  | none => false

/-- BLOCK_FETCH_DECODE (02 R53). -/
def execBlockFetchDecode (p : Place) (s : State) : Out1 :=
  match s.group? p with
  | none => .next s
  | some g => .next (if g.phase = .running ∧ g.run = none ∧ s.ctxLive g.ctx = true then s.fetchBlock p g else s)

/-- Where an exit of a block leads: BRI and CALL by their offsets, RET by the link stack, BR once its target is known
(07 R152). Log 116 (DEDUCED). -/
def Node.leads (g : Group) (r : BlockRun) (n : Node) : Option Word :=
  match n.ins with
  | .bri _ off | .call _ off => some (r.rel off)
  | .ret _ => g.link.head?
  | .br _ => match n.exit with
    | some (.br a) => some a
    | _ => none
  | _ => none

/-- The block may be run past to an address: its header's flags allow it, no END, TRAP or relay may still be its exit, and
some exit leads there, as every exit that has fired does (07 R152). A block that binds or unbinds streams is not run past,
since the next block's decoding depends on it. Log 116 (DEDUCED). -/
def BlockRun.runsPast (g : Group) (r : BlockRun) (a : Word) : Bool :=
  let live := r.nodes.filter fun n => decide (n.st ≠ .nulled)
  !r.relay && !r.nospec &&
    !(live.any fun n => match n.ins with
      | .endg _ | .trap _ _ | .sbind _ _ _ _ | .sunbind _ _ _ => true
      | i => isRelay i) &&
    (live.any fun n => n.leads g r == some a) && live.all fun n => n.exit.isNone || n.leads g r == some a

/-- RUN_AHEAD (07 R152): the tile fetches, decodes and starts the one block it predicts; nothing of it is architectural, and a
defect or fault of it is dropped (02 R53). Log 116 (DEDUCED). -/
def execRunAhead (p : Place) (addr : Word) (s : State) : Out1 :=
  match s.group? p with
  | none => .next s
  | some g =>
    match g.run with
    | some r =>
      if g.phase = .running ∧ g.ahead = none ∧ g.grace = false ∧ s.ctxLive g.ctx = true ∧ r.runsPast g addr = true then
        match s.loadBlock g addr with
        | .ok b t => .next (t.setGroup p fun g => { g with ahead := some b })
        | _ => .next s
      else .next s
    | none => .next s

/-- Clears the wait marks of a group's block and gives it the turn. -/
def State.rouse (s : State) (p : Place) : State :=
  { s.setRun p fun r => { r with nodes := r.nodes.map Node.wake } with turn := .group p }

/-- AWAITED_TOKEN_ARRIVES (07 R147, R157): a waiting group runs again. -/
def execAwaitedTokenArrives (p : Place) (s : State) : Out1 :=
  match (s.group? p).bind Group.run with
  | some r => .next (if r.isWaiting then s.rouse p else s)
  | none => .next s

/-- LEASE_WAIT_EXPIRY (11 R227): a block that runs again after a failed comparison gives up its leases. Log 12 (DESIGN CHOICE). -/
def execLeaseWaitExpiry (p : Place) (s : State) : Out1 :=
  match s.group? p with
  | none => .next s
  | some g =>
    .next (if g.fails ≠ 0 ∧ (g.run.map BlockRun.isWaiting).getD false = true then
        (s.setRun p fun r => { r with nodes := r.nodes.map Node.dropLease }).release
      else s)

/-- The causes of an image RLOAD refuses: their record names no index (19 R344). -/
def imageCauses : List Nat := [0x140, 0x141, 0x142, 0x143, 0x14A]

/-- The trap of a run-time fault (07 R158, 14 R407). Log 65 (DEDUCED). -/
def faultTrap (r : BlockRun) (i : Nat) (n : Node) (f : RFault) : Trap :=
  { cause := f.cause, idx := if f.cause ∈ imageCauses then 0x3F else i, lsid := lsidOf n.ins, blk := r.addr, va := f.va, acc := f.acc }

/-- Discards a block whose lowest-index faulted instruction met a fault or a Touch page (07 R158). -/
def State.faultDiscard (s : State) (p : Place) (r : BlockRun) : State :=
  match ((List.range r.nodes.length).zip r.nodes).find? fun x => match x.2.st with
    | .faulted _ | .touched _ _ => true
    | _ => false with
  | none => s
  | some (i, n) =>
    match n.st with
    | .faulted f => (((s.discard p).takeTrap p (faultTrap r i n f) (.rerun r.addr)).endTurn p)
    | .touched va acc => s.touchAt p va acc i (lsidOf n.ins)
    | _ => s

/-- RUNTIME_FAULT_DISCARD (07 R158): when nothing more can fire. -/
def execRuntimeFaultDiscard (p : Place) (s : State) : Out1 :=
  match (s.group? p).bind Group.run with
  | some r => .next (if r.nodes.any Node.fireable then s else s.faultDiscard p r)
  | none => .next s

/-- The 256 cycles of a context's cut are over. Log 12 (DESIGN CHOICE). -/
def State.graceOver (s : State) (c : Nat) : Bool :=
  match s.ctx? c with
  | some x => decide (256 ≤ s.cycle - x.cutAt)
  | none => true

/-- The starts that a block waits for: id and instance number (21 R382). -/
def BlockRun.waitingStarts (r : BlockRun) : List (Nat × Nat) :=
  r.nodes.filterMap fun n => match n.ins with
    | .rstart _ _ _ _ _ id =>
      if n.st = .waiting then some (id.toNat, bitsN ((n.slot .r).getD .void).word 0 16) else none
    | _ => none

/-- A cut discards a group's block; the starts that it waits for are remembered, as the cut aborts them (21 R382). -/
def State.cutBlock (s : State) (p : Place) (g : Group) : State :=
  let ws := match g.run with
    | some r => if r.isWaiting then r.waitingStarts.map fun x => (p.die, x) else []
    | none => []
  (s.setCtx g.ctx fun x => { x with waits := x.waits ++ ws }).discard p

/-- Every instruction of a group's block has resolved: it is complete, and commits though another party may make it wait (07 R149, R159). Log 12 (DESIGN CHOICE). -/
def Group.resolved (g : Group) : Bool := (g.run.map fun r => r.nodes.all Node.resolved).getD false

/-- CUT_GRACE_EXPIRY (07 R159): a block not complete within the grace of a cut, or that waits, is discarded. -/
def execCutGraceExpiry (p : Place) (s : State) : Out1 :=
  match s.group? p with
  | none => .next s
  | some g =>
    .next (if g.grace && !g.resolved && (s.graceOver g.ctx || (g.run.map BlockRun.isWaiting).getD false) then
        (s.cutBlock p g).endTurn p
      else s)

/-- BLOCK_COMPLETE (07 R149, R150): a block that has completed commits, in a cut's grace or after it (07 R159). -/
def execBlockComplete (p : Place) (s : State) : Out1 :=
  match s.group? p with
  | none => .next s
  | some _ => .next ((s.complete p).endTurn p)

/-- The instructions that send a probe (15 R286). -/
def isProbe : Instr → Bool
  | .tspawn _ _ _ _ | .tdec _ _ _ | .tinst _ _ _ | .tstat _ _ | .gresume _ _ _ | .gkill _ _ _ => true
  | _ => false

/-- The causes that the dispatcher of another package may give a probe; 0 is none (15 R284, R289, R297, R298). Log 113 (DESIGN CHOICE). -/
def farCauses : Instr → List Nat
  | .tdec _ _ _ => [0, 0x101, 0x102]
  | .gresume _ _ _ | .gkill _ _ _ => [0, 0x101, 0x10B]
  | .tspawn _ _ _ _ => [0, 0x101, 0x10C]
  | _ => [0, 0x101]

/-- The answer to a probe: only a dispatcher of another package gives a cause, which is free. Log 113 (DESIGN CHOICE). -/
def State.farAnswer (s : State) (i : Instr) : Nat := (farCauses i).getD (Config.farAnswer s.fresh % (farCauses i).length) 0

/-- What an instruction's probe asks of a record's dispatcher (15 R286, R289, R297): TDEC a hold of its units, GRESUME and GKILL
a claim of the group, the others the checks. Log 113 (DESIGN CHOICE). -/
def askOf : Instr → PodAsk
  | .tdec _ _ n => .hold (n.toNat + 1)
  | .gresume _ _ rank => .claim rank.toNat false
  | .gkill _ _ rank => .claim rank.toNat true
  | _ => .check

/-- What a probe asks for is held until the block's end. -/
def askHolds : PodAsk → Bool
  | .hold _ | .claim _ _ => true
  | _ => false

/-- The probes that leave for other packages, one for each of the handles, under a key each; 0 names no task. Log 113 (DESIGN CHOICE). -/
def State.askPod (s : State) (job : Nat) (hs : List Word) (ask : PodAsk) : State :=
  (hs.filter fun h => decide (h ≠ 0) && decide (hPkg h ≠ s.pkgNum)).foldl (fun s h =>
    { s.toPod (hPkg h) (.probe s.keys h job ask) with keys := s.keys + 1 }) s

/-- The answer that a node's probe has got, and, where another package granted what it asked for, the key that it is held
under there. -/
def Node.answer (n : Node) (far : Bool) (cause key : Nat) : Node :=
  { n.wake with answered := some cause, asked := if far && askHolds (askOf n.ins) && cause = 0 then some key else none }

/-- The instruction at an index of a group's block has its answer (15 R286). Log 47 (DEDUCED). -/
def State.ownProbe (s : State) (p : Place) (j : Nat) : State :=
  match s.group? p with
  | none => s
  | some g =>
    match g.run.bind fun r => r.nodes[j]?.map fun n => (⟨s, g, r, n, n.ins, []⟩ : Env) with
    | some e =>
      if isProbe e.i && e.n.ready && !e.n.resolved && e.mayProbe then
        (s.askPod (s.tagOf g.ctx) e.probeHandles (askOf e.i)).setRun p fun r => { r with
          nodes := updAt r.nodes j fun n =>
            n.answer (decide (e.word .l ≠ 0) && decide (hPkg (e.word .l) ≠ s.pkgNum)) (s.farAnswer n.ins) s.keys }
      else s
    | none => s

/-- Answers a probe of another package with a cause, 0 for none, and the status word of the record or instance (15 R286, R292).
Log 113 (DESIGN CHOICE). -/
def State.answerPod (s : State) (pkg key cause : Nat) (h : Word) : State :=
  s.toPod pkg (.probeAnswer pkg key cause (if isInstHandle h then s.instStatus s.target h
    else match s.target h with
      | some r => r.status
      | none => staleWord))

/-- Drops what an instruction of another package holds here. -/
def State.dropHold (s : State) (pkg key : Nat) : State :=
  { s with podHolds := s.podHolds.filter fun x => !(x.pkg == pkg && x.key == key) }

/-- The probe of an instruction of another package, and what its block's end sends after it (15 R286, R289, R297). Log 47 (DEDUCED); 53 (DEDUCED); 113 (DESIGN CHOICE). -/
def State.podProbe (s : State) (pkg key job : Nat) (h : Word) (ask : PodAsk) (again : Instr) : State :=
  let put (x : PodHold) (s : State) : State := { s with podHolds := s.podHolds ++ [x] }
  match ask with
  | .drop => s.dropHold pkg key
  | .perform =>
    match s.podHolds.find? fun x => x.pkg == pkg && x.key == key with
    | some x =>
      match x.claim with
      | some (rank, kill) =>
        match (s.dropHold pkg key).doClaim x.handle rank kill with
        | some t => t
        | none => { s with later := s.later ++ [again] }
      | none => s
    | none => s
  | .check => s.answerPod pkg key ((s.handleCause job (wholeHandle h)).getD 0) h
  | .hold n =>
    match s.handleCause job h, s.target h with
    | some c, _ => s.answerPod pkg key c h
    | none, none => s.answerPod pkg key 0 h
    | none, some r =>
      if r.counter < n + s.decHolds h then s.answerPod pkg key 0x102 h
      else (put ⟨pkg, key, h, n, none⟩ s).answerPod pkg key 0 h
  | .claim rank kill =>
    match s.handleCause job h, s.target h with
    | some c, _ => s.answerPod pkg key c h
    | none, none => s.answerPod pkg key 0x10B h
    | none, some r =>
      match s.claimOn r h rank with
      | none => { s with later := s.later ++ [again] }
      | some true => (put ⟨pkg, key, h, 0, some (rank, kill)⟩ s).answerPod pkg key 0 h
      | some false => s.answerPod pkg key 0x10B h

/-- TASK_PROBE (15 R286): the record's dispatcher answers; the instruction makes its checks and takes its hold or claim
as it resolves. A probe of another package takes its hold or claim at once; one from outside the pod is dropped (17 R319).
Log 47 (DEDUCED); 113 (DESIGN CHOICE). -/
def execTaskProbe (w : Prober) (j : Nat) (s : State) : Out1 :=
  match w with
  | .own p => .next (s.ownProbe p j)
  | .pod pkg job h ask =>
    let s := s.heard pkg
    .next (if s.pod.contains pkg then s.podProbe pkg j job h ask (.taskProbe w j) else s)

end Sys2Proof.Machine
end

