-- ==== Sys2Proof/Machine/Notify.lean ====
section
/-!
DEFINITION. Machine/Notify.lean: what the device sends the host: notifications and completions, and the order of a
queue's commands (22 R393, R395, R399).
-/
namespace Sys2Proof.Machine

/-! ## Queues (22 R395) -/

/-- A queue. -/
def State.queue? (s : State) (n : Nat) : Option Queue := s.queues.find? fun q => q.num == n
/-- Replaces a queue. -/
def State.setQueue (s : State) (n : Nat) (f : Queue → Queue) : State := { s with queues := updFirst (fun q => q.num == n) f s.queues }
/-- The link whose consumer is a queue. -/
def State.linkOf (s : State) (c : Nat) : Option Link := s.links.find? fun l => l.c == c

/-! ## Notifications (22 R393, R399) -/

/-- The lowest queue bound to a context, or queue 0 for none. -/
def State.noteQueue (s : State) (c : Option Nat) : Nat :=
  match c with
  | none => 0
  | some c => (lowestN ((s.queues.filter fun q => q.ctx == some c).map Queue.num)).getD 0

/-- The writes of a notification are a release of scope .sys: every die's dirty lines are written back. Log 73 (DEDUCED). -/
def State.releaseAll (s : State) : State := [0, 1, 2, 3].foldl (fun s d => s.writeBack d) s

/-- No write-back of a release of scope .sys would meet a party's lease (11 R226). Log 73 (DEDUCED). -/
def State.mayRelease (s : State) : Bool := [0, 1, 2, 3].all fun d => !s.backBlocked none d

/-- A queue's next notification leaves. -/
def State.sendNote (s : State) (q : Queue) (c : Option Nat) (ws : List Word) (e : Nat × Nat) : State :=
  let s := s.releaseAll
  { (s.setQueue q.num fun q => { q with notes := q.notes + 1 }) with
    outbox := s.outbox ++ [.notification q.num (q.notes + 1) (c.getD 0) (match c with
      | some x => s.genOf x
      | none => 0) ws e.1 e.2] }

/-- Sends a notification of a context, or of none, once its queue has an endpoint and the write-backs of its release can be
performed. Log 73 (DEDUCED). -/
def State.notify (s : State) (c : Option Nat) (ws : List Word) : State :=
  let n := s.noteQueue c
  match s.queue? n with
  | none => s
  | some q =>
    match q.endpoint with
    | none => s.setQueue n fun q => { q with noteWait := q.noteWait ++ [ws] }
    | some e =>
      if q.noteWait.isEmpty && s.mayRelease then s.sendNote q c ws e
      else s.setQueue n fun q => { q with noteWait := q.noteWait ++ [ws] }

/-- The notifications of a queue that waited for their release leave. Log 73 (DEDUCED). -/
def State.sendNotes (s : State) (n : Nat) : State :=
  match s.queue? n with
  | none => s
  | some q =>
    match q.endpoint with
    | none => s
    | some _ =>
      if q.noteWait.isEmpty || !s.mayRelease then s
      else q.noteWait.foldl (fun s ws => s.notify q.ctx ws) (s.setQueue n fun q => { q with noteWait := [] })

/-- The words of a notification of a class 6 cause (22 R399; 14 R408); tied to no instruction, its Index is 0x3F (14 R407).
Log 80 (DEDUCED). -/
def State.causeNote (s : State) (c : Option Nat) (cause detail va : Nat) : List Word :=
  [0, wordN va, 0, wordN (cause + 0x3F * 2 ^ 16 + detail * 2 ^ 32), wordN (c.getD 0 * 2 ^ 25), 0, 0,
    wordN (match c with
      | some x => s.genOf x
      | none => 0)]

/-- Notifies the host of a class 6 cause. Log 80 (DEDUCED). -/
def State.notifyCause (s : State) (c : Option Nat) (cause detail va : Nat) : State :=
  s.notify c (s.causeNote c cause detail va)

/-- Records the source of a command as its queue's endpoint, and sends what waited for one. -/
def State.setEndpoint (s : State) (n ip port : Nat) : State :=
  match s.queue? n with
  | none => s
  | some q =>
    let s := s.setQueue n fun q => { q with endpoint := some (ip, port), noteWait := [] }
    q.noteWait.foldl (fun s ws => s.notify q.ctx ws) s

/-! ## Completions (22 R395, R399) -/

/-- Opcode of a message. -/
def mOp (m : BridleMsg) : Nat := bitsN m.h0 16 8
/-- Flags of a message. -/
def mFlags (m : BridleMsg) : Nat := bitsN m.h0 24 8
/-- The gated flag. -/
def mGated (m : BridleMsg) : Bool := bitN m.h0 24
/-- The release flag. -/
def mRelease (m : BridleMsg) : Bool := bitN m.h0 25
/-- Queue of a message. -/
def mQueue (m : BridleMsg) : Nat := bitsN m.h0 32 16
/-- Length of a message. -/
def mLen (m : BridleMsg) : Nat := bitsN m.h0 48 16
/-- Sequence number of a message. -/
def mSeq (m : BridleMsg) : Nat := m.h1.toNat
/-- Context of a message. -/
def mCtx (m : BridleMsg) : Nat := bitsN m.h2 0 6
/-- Generation of a message. -/
def mGen (m : BridleMsg) : Nat := bitsN m.h2 16 16
/-- A payload word. -/
def mW (m : BridleMsg) (i : Nat) : Word := m.payload.getD i 0

/-- A command's completion as it is sent (22 R399). -/
def completionOf (m : BridleMsg) (status : Nat) (res : List Word) : List Word := wordN (status + mOp m * 256) :: res

/-- Sends a completion without storing it. -/
def State.sendDone (s : State) (m : BridleMsg) (status : Nat) (res : List Word) : State :=
  { s with outbox := s.outbox ++ [.completion (mQueue m) m.h1 m.h2 (completionOf m status res) m.ip m.port] }

/-- The command a queued step carries. -/
def msgOf : Instr → Option BridleMsg
  | .hello m | .createContext m _ | .tearDown m | .preEmpt m | .resume m | .podSwitch m | .registerTemplate m | .launch m
  | .signal m | .bridleWrite m | .bridleRead m | .status m | .linkQueues m | .map m | .powerTolerance m | .loadFirmware m
  | .attest m | .createTask m | .health m | .configurePackage m | .registerRegion m | .deregisterRegion m
  | .connectQueuePair m | .unknownOpcode m => some m
  | _ => none

/-- A release command adds a token to each link of its queue; one that would pass 65,535 on any of them adds nothing, and
the answer is true (22 R395). -/
def State.addTokens (s : State) (n : Nat) : State × Bool :=
  if s.links.any fun l => decide (l.p = n) && decide (65535 ≤ l.tokens) then (s, true)
  else ({ s with links := s.links.map fun l => if l.p = n then { l with tokens := l.tokens + 1 } else l }, false)

/-- A command completes: its completion is sent and stored, and its queue is free (22 R395). Log 89 (DEDUCED). -/
def State.close (s : State) (m : BridleMsg) (status : Nat) (res : List Word) : State :=
  let n := mQueue m
  let r := if mRelease m then s.addTokens n else (s, false)
  let st := if r.2 then 4 else status
  ((r.1.sendDone m st res).setQueue n fun q =>
    { q with
      stored := if q.past.contains (mSeq m) then q.stored else ((mSeq m, completionOf m st res) :: q.stored).take 64
      past := q.past.erase (mSeq m), doing := none })

/-- The assigned opcodes of the host (22 R393). -/
def isOpcode (op : Nat) : Bool := decide (1 ≤ op) && decide (op ≤ 0x17)

/-- The status that the session gives a command before anything else is looked at: 6 while there is none, 5 for an opcode that
is not assigned, 6 for another version or a command that the session's lacks (22 R393, R396). Log 90 (DEDUCED). -/
def State.sessionStatus (s : State) (m : BridleMsg) : Option Nat :=
  match s.session with
  | none => some 6
  | some ver =>
    if !isOpcode (mOp m) then some 5
    else if bitsN m.h0 0 16 ≠ ver ∨ (ver < 2 ∧ (mOp m = 0x06 ∨ mOp m = 0x0D)) then some 6
    else none

/-- The next accepted command of a free queue goes on, unless it waits for a token; a gated one that the session does not take,
or whose queue consumes no link, completes (22 R395, R396). Log 90 (DEDUCED). -/
def State.pumpN (n : Nat) : Nat → State → State
  | 0, s => s
  | k + 1, s =>
    match s.queue? n with
    | none => s
    | some q =>
      match q.waiting with
      | [] => s
      | i :: rest =>
        if q.doing.isSome || q.go.isSome then s
        else match msgOf i with
          | none => State.pumpN n k (s.setQueue n fun q => { q with waiting := rest })
          | some m =>
            if mGated m then
              match s.sessionStatus m, s.linkOf n with
              | none, some _ => s
              | st, _ => State.pumpN n k ((s.setQueue n fun q => { q with waiting := rest }).close m (st.getD 3) [])
            else
              { (s.setQueue n fun q => { q with waiting := rest, go := some (mSeq m) }) with agenda := s.agenda ++ [i] }

/-- Lets a queue go on. Log 89 (DEDUCED). -/
def State.pump (s : State) (n : Nat) : State :=
  match s.queue? n with
  | some q => State.pumpN n (q.waiting.length + 1) s
  | none => s

/-- A command completes and its queue goes on. -/
def State.finishCmd (s : State) (m : BridleMsg) (status : Nat) (res : List Word) : State :=
  (s.close m status res).pump (mQueue m)

/-- The command of a queue that has begun completes. -/
def State.finishDoing (s : State) (n status : Nat) (res : List Word) : State :=
  match (s.queue? n).bind Queue.doing with
  | some m => s.finishCmd m status res
  | none => s

end Sys2Proof.Machine
end

