-- ==== Sys2Proof/Machine/Traps.lean ====
section
/-!
DEFINITION. Machine/Traps.lean: the dispatcher's steps on traps: the trap queue and the handler task (14 R278, R279,
R408).
-/
namespace Sys2Proof.Machine

/-! ## The trap queue (14 R278) -/

/-- The context's trap queue is served: it is not saved or being resumed, and in a cut no record awaits room (21 R382). -/
def Ctx.serves (c : Ctx) : Bool :=
  decide (c.st = .live) || ((decide (c.st = .draining) || decide (c.st = .cutting)) && !c.spell)

/-- The head of a context's trap queue, read at its home: it, or address and cause. -/
def State.trapHead (s : State) (c : Ctx) : Except (Nat × Nat) (Nat × State) :=
  match s.ctxRead none c.slot (c.tqBase + 8) 8 .load true with
  | .error e => .error e
  | .ok (bs, s') => .ok (ofBytes bs, s')

/-- The entries of a trap queue. -/
def Ctx.tqSize (c : Ctx) : Nat := 2 ^ c.tqS

/-- The words of a held record with the record number in its sequence word (14 R277). Log 74 (DEDUCED). -/
def numbered (ws : List Word) (n : Nat) : List Word := ws.set 7 (putBits (ws.getD 7 0) 16 16 n)

/-- Writes a record and the header of its queue; a release of scope .sys comes before the tail. Log 73 (DEDUCED). -/
def State.putRecord (s : State) (c : Ctx) (ws : List Word) : Except (Nat × Nat) State :=
  match s.ctxWrite none c.slot (c.tqBase + 64 + 64 * (c.tail % c.tqSize)) (wordsBytes (numbered ws c.tail)) .store with
  | .error e => .error e
  | .ok s1 =>
    match s1.ctxWrite none c.slot (c.tqBase + 16) (wordsBytes [wordN c.tqS, wordN c.overflows]) .store with
    | .error e => .error e
    | .ok s2 => s2.releaseAll.ctxWrite none c.slot c.tqBase (wordsBytes [wordN (c.tail + 1)]) .store

/-- The group of a held record may be resumed or killed from now on (14 R280). -/
def State.recorded (s : State) (h : Held) : State :=
  match h.who with
  | none => s
  | some p => s.setGroup p fun g => { g with phase := match g.phase with
      | .parked rs _ => .parked rs true
      | ph => ph }

/-- The first held record has left the dispatcher; a spell ends with the last. -/
def State.dropHeld (s : State) (c : Nat) : State :=
  s.setCtx c fun x => { x with held := x.held.tail, spell := x.spell && decide (1 < x.held.length) }

/-- A record that could not be written goes to the host (14 R278). Log 74 (DEDUCED). -/
def State.queueFault (s : State) (c : Ctx) (h : Held) (e : Nat × Nat) : State :=
  (((s.notifyCause (some c.slot) 0x188 e.2 e.1).notify (some c.slot) (numbered h.words c.tail)).recorded h).dropHeld c.slot

/-- An overflow spell begins (14 R278). -/
def State.beginSpell (s : State) (c : Ctx) : State :=
  if c.spell then s
  else (s.setCtx c.slot fun x => { x with spell := true, overflows := x.overflows + 1 }).notifyCause (some c.slot) 0x185 0 0

/-- A record has been written; a context without a handler sends it to the host too (14 R279). -/
def State.recordDone (s : State) (c : Ctx) (h : Held) : State :=
  let s := s.setCtx c.slot fun x => { x with tail := x.tail + 1 }
  let s := if c.handlerDesc = 0 then s.notify (some c.slot) (numbered h.words c.tail) else s
  (s.recorded h).dropHeld c.slot

/-- A lease covers bytes that the next record's writes would reach (11 R226). -/
def State.recordBlocked (s : State) (c : Ctx) : Bool :=
  s.xblocked none none c.slot (c.tqBase + 64 + 64 * (c.tail % c.tqSize)) 64 .store || s.xblocked none none c.slot c.tqBase 32 .store

/-- A handler group's record goes to the host at once; its group may then be resumed, and the record is still to be written to
the queue (14 R279). Log 131 (DEDUCED). -/
def State.tellHandler (s : State) (c : Ctx) (h : Held) : State :=
  ((s.notify (some c.slot) (numbered h.words c.tail)).recorded h).setCtx c.slot fun x =>
    { x with held := { h with who := none, handler := false } :: x.held.tail }

/-- The dispatcher tries to write the first record it holds for a context. Log 131 (DEDUCED). -/
def State.writeRecord (s : State) (c : Ctx) : State :=
  match c.held with
  | [] => s
  | h :: _ =>
    if h.handler then s.tellHandler c h
    else if s.recordBlocked c then s
    else match s.trapHead c with
      | .error e => if e.2 = waitCause then s else s.queueFault c h e
      | .ok (head, s1) =>
        if c.tqSize ≤ (c.tail + 2 ^ 64 - head) % 2 ^ 64 then s1.beginSpell c
        else match s1.putRecord c h.words with
          | .error e => if e.2 = waitCause then s else s1.queueFault c h e
          | .ok s2 => s2.recordDone c h

/-- TRAP_RECORD_WRITE (14 R278). -/
def execTrapRecordWrite (ctx : Nat) (s : State) : Out1 :=
  match s.ctx? ctx with
  | none => .next s
  | some c => .next (if c.serves && s.mayRelease then s.writeRecord c else s)

/-- TRAP_QUEUE_HEAD_POLL (14 R278): while records are held, head is read again. Log 12 (DESIGN CHOICE). -/
def execTrapQueueHeadPoll (ctx : Nat) (s : State) : Out1 :=
  match s.ctx? ctx with
  | none => .next s
  | some c => .next (if c.serves && c.spell && s.mayRelease then s.writeRecord c else s)

/-! ## The handler task (14 R279) -/

/-- The records written since the last trial and not consumed are sent to the host. -/
def State.sendRecords (s : State) (c : Ctx) (head : Nat) : State :=
  let lo := if head < c.tried then c.tried else head
  (List.range (c.tail - lo)).foldl (fun (s : State) i =>
    match s.ctxRead none c.slot (c.tqBase + 64 + 64 * ((lo + i) % c.tqSize)) 64 .load true with
    | .ok (bs, s') => s'.notify (some c.slot) (bytesWords 8 bs)
    | .error _ => s) s

/-- No handler task could be spawned. -/
def State.spawnFails (s : State) (c : Ctx) (head detail : Nat) : State :=
  ((s.notifyCause (some c.slot) 0x189 detail c.handlerDesc).sendRecords c head).setCtx c.slot fun x => { x with tried := x.tail }

/-- The image of a handler's record (14 R279). -/
def handlerImage (desc : Nat) : List Word := [wordN desc, wordN (2 ^ 32)] ++ List.replicate 30 0

/-- Spawns the handler task of a context, or reports why not. -/
def State.spawnHandler (s : State) (c : Ctx) (idx head : Nat) : State :=
  match s.readDesc 0 c.slot c.handlerDesc with
  | .error e => if e.1 = waitCause then s else s.spawnFails c head e.1
  | .ok (kd, s1) =>
    if !s1.dieHolds 0 kd.shape then s1.spawnFails c head 0x107
    else
      (s1.createRec 0 idx (recWords (handlerImage c.handlerDesc) c.slot c.gen 0 false 0 0) 0).setCtx c.slot fun x =>
        { x with handlerLive := true, tried := 0 }

/-- HANDLER_SPAWN (14 R279): tail stands beyond head and no handler task of the context is live. -/
def execHandlerSpawn (ctx : Nat) (s : State) : Out1 :=
  match s.ctx? ctx with
  | none => .next s
  | some c =>
    match c.handlerRec with
    | none => .next s
    | some idx =>
      if c.st ≠ .live ∨ c.handlerLive = true ∨ c.tail = 0 ∨ c.tail = c.tried then .next s
      else match s.trapHead c with
        | .error _ => .next s
        | .ok (head, s1) => .next (if c.tail = head then s else s1.spawnHandler c idx head)

end Sys2Proof.Machine
end

