-- ==== Sys2Proof/Machine/Dispatcher.lean ====
section
/-!
DEFINITION. Machine/Dispatcher.lean: the dispatcher's steps on tasks: decrements, placement, prefetch, binding and
completion (17 R308 to R319).
-/
namespace Sys2Proof.Machine

/-! ## Decrements (17 R308, R319) -/

/-- DECREMENT_APPLY (17 R308): the oldest decrement on its way to its record. -/
def execDecrementApply (k : Nat) (s : State) : Out1 :=
  match s.decs.find? fun d => d.key == k with
  | none => .next s
  | some d =>
    if (s.decs.takeWhile fun x => x.key != k).any fun x => x.handle == d.handle then .next s
    else if s.decsWait d.handle then .next s
    else .next (({ s with decs := s.decs.filter fun x => x.key != k } : State).applyDec d)

/-- The context that counts a message from another package: the one whose record it names, or that of the sender's job
(21 R389). -/
def State.countsFor (s : State) (m : DecMsg) : Option Nat :=
  match (s.target m.handle).filter fun r => s.tagOf r.ctx == m.tag with
  | some r => some r.ctx
  | none => (s.ctxs.find? fun c => c.tag == m.tag).map Ctx.slot

/-- Counts a message from another package (21 R389). -/
def State.countApplied (s : State) (m : DecMsg) : State :=
  match s.countsFor m with
  | some c => s.setCtx c fun x => { x with applied := x.applied + 1 }
  | none => s

/-- A message of a package that has been applied before, as a package that recovery replaced may receive it (22 R402). -/
def State.repeated (s : State) (m : DecMsg) : Bool := s.applied.contains (m.pkg, m.seq)

/-- A message of the same package waits here. -/
def State.queued (s : State) (pkg : Nat) : Bool :=
  s.later.any fun i => match i with
    | .decrementMessage m => m.pkg == pkg
    | _ => false

/-- DECREMENT_MESSAGE (17 R319): one from a package outside the pod is dropped, one applied before is not applied again, and
one that a lease keeps from being applied waits with those that its sender sends after it. Log 113 (DESIGN CHOICE). -/
def execDecrementMessage (m : DecMsg) (s : State) : Out1 :=
  let s := s.heard m.pkg
  if !s.pod.contains m.pkg || s.repeated m then .next s
  else
    if s.queued m.pkg || s.decsWait m.handle then .next { s with later := s.later ++ [.decrementMessage m] }
    else
      let s := { s with applied := (m.pkg, m.seq) :: s.applied }
      let s := m.hold.elim s (s.dropHold m.pkg)
      .next ((s.countApplied m).applyDec ⟨0, m.handle, m.n, m.fail, m.tag, false⟩)

/-! ## Placement (17 R310, R311) -/

/-- Windows of a tile for staging (17 R316). -/
def stagingWindows (tile : Nat) : Nat := if isMTile tile then 20 else 40

/-- Staging windows that placed tasks and preparations hold on a tile. -/
def State.staged (s : State) (die tile : Nat) : Nat :=
  sumN ((s.recs.filter fun r => r.die == die && r.tiles.contains tile && decide (r.state = 2 ∨ r.state = 3)).map fun r =>
    (r.staging.headD []).length) +
  sumN ((s.onTile die tile).map fun g => match g.prep with
    | some q => q.binds.length
    | none => 0)

/-- A list of tiles in strictly rising order. -/
def rising : List Nat → Bool
  | a :: b :: l => decide (a < b) && rising (b :: l)
  | _ => true

/-- A tile can take a group's staging and hold its shape. Log 88 (DEDUCED). -/
def State.tileTakes (s : State) (die : Nat) (sh : KShape) (tile : Nat) : Bool :=
  decide (tile < 56) && !s.tileDead die tile && (isMTile tile || decide (sh.acc ≤ 4)) &&
    decide (s.staged die tile + sh.windows ≤ stagingWindows tile)

/-- The prefetch bindings of a record. -/
def TaskRec.prefetches (r : TaskRec) : List Nat := (List.range 8).filter fun b => bMode (r.binding b).2 = 1

/-- A record whose staging is dropped. -/
def TaskRec.unplaced (r : TaskRec) : TaskRec :=
  { (r.setState 1) with tiles := [], staging := [], landed := [], waitMc := [], kept := [] }

/-- Places a ready task on tiles (17 R311): the dispatch acquire, then its staging; with nothing to prefetch it is
runnable. Log 72 (DEDUCED). -/
def State.place (s : State) (r : TaskRec) (sh : KShape) (tiles : List Nat) : State :=
  (s.dropForeign r.die).setRec r.die r.idx fun r =>
    { (r.setState (if r.prefetches.isEmpty then 3 else 2)) with
      tiles := tiles, staging := tiles.map fun _ => List.replicate sh.windows {}, landed := [], waitMc := [], runAt := s.cycle }

/-- Placement of a record on tiles, where it is allowed. Log 56 (DEDUCED). -/
def State.tryPlace (s : State) (r : TaskRec) (tiles : List Nat) : State :=
  if s.backBlocked none r.die then s
  else match s.readDesc r.die r.ctx (r.w 0).toNat with
    | .error _ => s
    | .ok (kd, s1) =>
      let s0 := s1.setRec r.die r.idx TaskRec.unplaced
      if tiles.length = r.gang && rising tiles && tiles.all (s0.tileTakes r.die kd.shape) then s0.place r kd.shape tiles else s

/-- PLACEMENT (17 R311). -/
def execPlacement (die idx : Nat) (tiles : List Nat) (s : State) : Out1 :=
  match s.rec? die idx with
  | none => .next s
  | some r => .next (if r.state = 1 ∧ s.ctxLive r.ctx = true then s.tryPlace r tiles else s)

/-- RUNNABLE_TIMEOUT (17 R310): a task runnable for 4A and not overdue is placed anew. -/
def execRunnableTimeout (die idx : Nat) (tiles : List Nat) (s : State) : Out1 :=
  match s.rec? die idx with
  | none => .next s
  | some r =>
    .next (if r.state = 3 ∧ s.ctxLive r.ctx = true ∧ 4 * aging ≤ s.cycle - r.runAt ∧ s.overdue r = false then s.tryPlace r tiles else s)

/-! ## Prefetch (17 R310, R311, R314) -/

/-- Reads the rows of a prefetch: its bytes, dense, or address and cause. -/
def State.readRows (s : State) (die c : Nat) (b : Word × Word) : Nat → Except (Nat × Nat) (List XByte × State)
  | 0 => .ok ([], s)
  | n + 1 =>
    match s.readRows die c b n with
    | .error e => .error e
    | .ok (bs, s1) =>
      match s1.xread (some die) c (b.1.toNat + n * bPitch b.2) (bRow b.2) .engineRead with
      | .error e => .error e
      | .ok (row, s2) => .ok (bs ++ row, s2)

/-- How long a multicast prefetch may wait: 256 cycles of the 2.0 GHz clock (17 R314). Log 12 (DESIGN CHOICE). -/
def mcWait : Nat := 2 * 256

/-- The multicast flag of a prefetch. -/
def bMulticast (w : Word) : Bool := bitN w 45

/-- Two prefetches that merge (17 R314). -/
def mergeable (a b : Word × Word) : Bool :=
  bMulticast a.2 && bMulticast b.2 && a.1 == b.1 && bitsN a.2 0 40 == bitsN b.2 0 40

/-- The prefetches that one read serves: a binding with those of the context that merge with it, in records placed
within 256 cycles of it and not done waiting. Log 55 (DESIGN CHOICE). -/
def State.served (s : State) (r : TaskRec) (b : Nat) : List (TaskRec × Nat) :=
  (r, b) ::
    (if bMulticast (r.binding b).2 && !r.waitMc.contains b then
      s.recs.flatMap fun q =>
        if q.die = r.die ∧ q.ctx = r.ctx ∧ q.state = 2 ∧ q.runAt - r.runAt ≤ mcWait ∧ r.runAt - q.runAt ≤ mcWait then
          ((q.prefetches.filter fun c => mergeable (r.binding b) (q.binding c) && !q.landed.contains c && !q.waitMc.contains c &&
            !(decide (q.idx = r.idx) && c == b)).map fun c => (q, c))
        else []
    else [])

/-- A binding of a task lands in every group's staging window (17 R305). -/
def TaskRec.land (r : TaskRec) (b : Nat) (bs : List XByte) (now : Nat) : TaskRec :=
  let w := bWindow (r.binding b).2
  let r := { r with staging := r.staging.map (fun ws => updAt ws w fun x => x.put 0 bs), landed := b :: r.landed }
  if r.prefetches.all r.landed.contains then { (r.setState 3) with runAt := now } else r

/-- A task whose prefetch faulted fails (17 R310). -/
def State.failPrefetch (s : State) (r : TaskRec) (e : Nat × Nat) : State :=
  (s.looseRecord r.ctx { cause := 0x0C4, va := e.1, acc := .engineRead, under := e.2 } (r.handle s.pkgNum)).endTask r.die r.idx
    (some 0x0C4)

/-- A prefetch of a task is performed, with those it merges with. -/
def State.landTask (s : State) (r : TaskRec) (b : Nat) : State :=
  let qs := s.served r b
  match s.readRows r.die r.ctx (r.binding b) (bRows (r.binding b).2) with
  | .error e => if e.2 = waitCause then s else (qs.map fun q => q.1.idx).eraseDups.foldl (fun s i => match s.rec? r.die i with
      | some q => s.failPrefetch q e
      | none => s) s
  | .ok (bs, s') => (qs.foldl (fun s q => s.setRec q.1.die q.1.idx fun x => x.land q.2 bs s.cycle) s').progress r.ctx

/-- A preparation's binding lands, or its fault stops it until GRESUME (15 R296). Log 55 (DESIGN CHOICE). -/
def State.landPrep (s : State) (g : Group) (q : Prep) (b : Nat) : State :=
  let bd := q.binds.getD b (0, 0)
  let set (f : Prep → Prep) (s : State) : State := s.setGroup g.place fun g => { g with prep := g.prep.map f }
  match s.readRows g.place.die g.ctx bd (bRows bd.2) with
  | .error e => if e.2 = waitCause then s else set (fun q => { q with stop := some ⟨0x0C4, e.2, e.1, .engineRead, false⟩ }) s
  | .ok (bs, s') =>
    (set (fun q => { q with staged := updAt q.staged b fun w => w.put 0 bs, landed := q.landed.set b true }) s').progress g.ctx

/-- PREFETCH_LANDED (17 R311; 15 R296). -/
def execPrefetchLanded (w : Prefetch) (s : State) : Out1 :=
  match w with
  | .task die idx b =>
    match s.rec? die idx with
    | none => .next s
    | some r =>
      .next (if r.state = 2 ∧ r.prefetches.contains b = true ∧ r.landed.contains b = false ∧ s.ctxLive r.ctx = true ∧
          (s.served r b).all (fun q => !s.decsWait (q.1.handle s.pkgNum)) = true then s.landTask r b
        else s)
  | .prep p b =>
    match s.group? p with
    | none => .next s
    | some g =>
      match g.prep with
      | none => .next s
      | some q =>
        .next (if b < q.binds.length ∧ q.landed.getD b true = false ∧ q.stop = none ∧ s.engineOn g g.awaitsPrep = true then s.landPrep g q b else s)

/-- MULTICAST_WAIT_EXPIRY (17 R314): a multicast prefetch no longer waits for partners. -/
def execMulticastWaitExpiry (w : Prefetch) (s : State) : Out1 :=
  match w with
  | .task die idx b =>
    match s.rec? die idx with
    | none => .next s
    | some r =>
      .next (if r.state = 2 ∧ bMulticast (r.binding b).2 = true ∧ r.waitMc.contains b = false ∧ mcWait ≤ s.cycle - r.runAt then
          s.setRec die idx fun r => { r with waitMc := b :: r.waitMc }
        else s)
  | .prep _ _ => .next s

/-! ## Binding (17 R312, R313, R316) -/

/-- Slot-cycles bound to a context in the last 1,048,576 cycles. -/
def State.slotCycles (s : State) (c : Nat) : Nat :=
  let lo := s.cycle - slotWindow
  let span (a b : Nat) : Nat := b - (if a < lo then lo else a)
  sumN ((s.groups.filter fun g => g.ctx == c).map fun g => span g.boundAt s.cycle) +
    (match s.ctx? c with
      | some x => sumN (x.slotLog.map fun y => span y.1 y.2)
      | none => 0)

/-- Weight of a context. -/
def State.weight (s : State) (c : Nat) : Nat :=
  match s.ctx? c with
  | some x => x.weight
  | none => 1

/-- The effective priority of a task: its class less the aging steps it has waited. -/
def State.effective (s : State) (r : TaskRec) : Nat := r.prio - (s.cycle - r.readyAt) / aging

/-- The key of a task stands before another's (17 R313). -/
def State.keyBefore (s : State) (a b : TaskRec) : Bool :=
  match s.overdue a, s.overdue b with
  | true, true => decide (a.readyAt < b.readyAt)
  | true, false => true
  | false, true => false
  | false, false =>
    let ea := s.effective a
    let eb := s.effective b
    let da := s.slotCycles a.ctx * s.weight b.ctx
    let db := s.slotCycles b.ctx * s.weight a.ctx
    if ea ≠ eb then decide (ea < eb) else if da ≠ db then decide (da < db) else decide (a.readyAt < b.readyAt)

/-- Bytes of the edge part that bound groups' buffers take on a tile. -/
def State.edgeUse (s : State) (die tile : Nat) : Nat :=
  sumN ((s.onTile die tile).map fun g => sumN (g.edges.map EdgeBuf.bytes))

/-- Another overdue task, which stands before the given one, holds what is released on a tile (17 R313). Log 52 (DESIGN CHOICE). -/
def State.overdueHolds (s : State) (r : TaskRec) (tile : Nat) : Bool :=
  s.recs.any fun q => q.die == r.die && !(q.idx == r.idx) && q.tiles.contains tile && s.overdue q && s.ctxLive q.ctx &&
    s.keyBefore q r

/-- A group of a shape fits in a slot. Log 88 (DEDUCED). -/
def State.slotTakes (s : State) (r : TaskRec) (sh : KShape) (tile slot : Nat) : Bool :=
  decide (slot < 4) && !s.tileDead r.die tile && !(s.groups.any fun g => g.place == ⟨r.die, tile, slot⟩) && decide (sh.acc ≤ s.accFree r.die tile) &&
    !s.resumeHolds r.ctx r.die tile && !s.overdueHolds r tile &&
    decide (s.edgeUse r.die tile + edgeBytes sh.lanes (bindingsOf r.words) ≤ edgePart tile)

/-- The free frames that a task may bind with: not those that another overdue task holds, unless the task is placed where they
were released, is overdue too, and stands before that one (17 R313). Log 52 (DESIGN CHOICE). -/
def State.bindFrames (s : State) (r : TaskRec) : List Nat :=
  let others := s.recs.filter fun q => !(q.die == r.die && q.idx == r.idx) && q.ctx == r.ctx && s.overdue q
  (s.freeFrames r.ctx).filter fun f => others.all fun q =>
    !q.kept.contains f || (s.overdue r && r.kept.contains f && s.keyBefore r q)

/-- The frames of a binding's reserves are free. -/
def State.framesFor (s : State) (r : TaskRec) : Bool := decide (72 * r.gang ≤ (s.bindFrames r).length)

/-- A runnable task fits as a whole. -/
def State.fits (s : State) (r : TaskRec) : Bool :=
  match s.readDesc r.die r.ctx (r.w 0).toNat with
  | .ok (kd, _) => s.framesFor r && r.tiles.all fun t => [0, 1, 2, 3].any fun k => s.slotTakes r kd.shape t k
  | .error _ => false

/-- A task that shares a tile stands before another and fits (17 R313). -/
def State.outranked (s : State) (r : TaskRec) : Bool :=
  s.recs.any fun q => q.die == r.die && !(q.idx == r.idx) && decide (q.state = 3) && s.ctxLive q.ctx &&
    (q.tiles.any fun t => r.tiles.contains t) && s.keyBefore q r && s.fits q

/-- The stream input buffers of a group at binding (17 R315). -/
def TaskRec.edgeBufs (r : TaskRec) (lanes : Nat) : List EdgeBuf :=
  ((List.range 8).filter fun b => bMode (r.binding b).2 = 2 && !bOut (r.binding b).2).map fun b =>
    let w := (r.binding b).2
    ⟨b, bReg w, roundUp (2 ^ bBuf w * elemBytes (bVec w) lanes) 4096, 2 ^ bBuf w, bVec w, [], r.edgesEnded.contains b, 0⟩

/-- The stream registers bound at binding (17 R305). -/
def TaskRec.autoRegs (r : TaskRec) (lanes : Nat) : List (Option Stream) :=
  (List.range 8).map fun reg =>
    ((List.range 8).find? fun b =>
      let w := (r.binding b).2
      decide (bMode w = 2) && bAuto w && decide (bReg w = reg)).map fun b =>
        let w := (r.binding b).2
        ⟨.edge b, bVec w, bOut w, lanes, 0, 0, [], false, reg * 2 ^ 24 + 2 ^ 22 + (if bVec w then 2 ^ 21 else 0) + b * 2 ^ 16, 0, 0, []⟩

/-- A group as it is first bound (07 R142). -/
def freshGroup (p : Place) (c gen : Nat) (task : Word) (rank : Nat) (gang : List Place) (handler : Bool) (kd : KDesc)
    (win : List Window) (streams : List (Option Stream)) (edges : List EdgeBuf) (reserve : List Nat) (now : Nat) : Group where
  place := p
  ctx := c
  gen := gen
  task := task
  rank := rank
  gang := gang
  handler := handler
  shape := kd.shape
  x := List.replicate 32 0
  v := List.replicate 32 (laneAll 0)
  p := List.replicate 8 (laneAll false)
  k := List.replicate 8 (laneAll 0)
  acc := List.replicate kd.shape.acc {}
  win := win
  q := List.replicate 8 none
  s := streams
  edges := edges
  link := []
  cause := 0
  faultva := 0
  fpflags := 0
  fptrap := 0
  seed := 0
  count := 0
  next := kd.entry
  phase := .running
  run := none
  ahead := none
  sb := []
  entered := 0
  relFence := none
  mq := []
  cq := []
  cmdSeq := 0
  reports := []
  prep := none
  reserve := reserve
  fails := 0
  sigAt := none
  killed := none
  grace := false
  boundAt := now

/-- Binds one group of a task: its reserve is taken from the unreserved free frames. Log 52 (DESIGN CHOICE). -/
def State.bindOne (s : State) (r : TaskRec) (kd : KDesc) (gang : List Place) (rank : Nat) : State :=
  let free := s.bindFrames r
  let k := Config.choice s.fresh % free.length
  let got := (free.drop k ++ free.take k).take 72
  let g := freshGroup (gang.getD rank ⟨0, 0, 0⟩) r.ctx r.gen (r.handle s.pkgNum) rank gang (s.isHandlerRec r.die r.idx) kd
    (r.staging.getD rank []) (r.autoRegs kd.shape.lanes) (r.edgeBufs kd.shape.lanes) got s.cycle
  let s := s.setCtx r.ctx fun c => { c with frames := c.frames.filter fun f => !got.contains f }
  ({ s with groups := s.groups ++ [g] } : State).draw

/-- An autobind of an output whose consumer does not agree traps at the first block (17 R315). -/
def State.autoTrap (s : State) (r : TaskRec) (kd : KDesc) (p : Place) : State :=
  let bad := r.outputs.filter fun b => bAuto (r.binding b).2 && !s.edgeAgrees r b kd.shape.lanes
  if bad.isEmpty then s
  else
    (s.setGroup p fun g => { g with
      s := bad.foldl (fun (l : List (Option Stream)) b => l.set (bReg (r.binding b).2) none) g.s }).takeTrap p
      { cause := 0x0CB, blk := kd.entry } (.rerun kd.entry)

/-- Binds every group of a task in one step (17 R312): the device is idle no more (22 R403). -/
def State.bindTask (s : State) (r : TaskRec) (kd : KDesc) (slots : List Nat) : State :=
  let s := s.woken
  let gang := r.tiles.zipWith (fun t k => (⟨r.die, t, k⟩ : Place)) slots
  let s := (List.range gang.length).foldl (fun s i => s.bindOne r kd gang i) s
  let s := s.setRec r.die r.idx fun r =>
    { (r.setState 4) with groupsLeft := gang.length, staging := [], tiles := [], kept := [], signals := 0, anyKilled := none }
  gang.foldl (fun s p => s.autoTrap r kd p) s

/-- BINDING (17 R312, R313). Log 56 (DEDUCED). -/
def execBinding (die idx : Nat) (slots : List Nat) (s : State) : Out1 :=
  match s.rec? die idx with
  | none => .next s
  | some r =>
    if r.state ≠ 3 ∨ s.ctxLive r.ctx = false ∨ slots.length ≠ r.tiles.length then .next s
    else match s.readDesc die r.ctx (r.w 0).toNat with
      | .error _ => .next s
      | .ok (kd, _) =>
        .next (if s.framesFor r && ((r.tiles.zip slots).all fun x => s.slotTakes r kd.shape x.1 x.2) && !s.outranked r &&
            (r.staging.all fun ws => decide (ws.length = kd.shape.windows)) then s.bindTask r kd slots
          else s)

/-! ## Completion (17 R310) -/

/-- TASK_COMPLETION (17 R310): every group has retired and every command is complete; before that, a successor decrement that
had to wait is made (15 R295). -/
def execTaskCompletion (die idx : Nat) (s : State) : Out1 :=
  match s.rec? die idx with
  | none => .next s
  | some r =>
    let h := r.handle s.pkgNum
    .next (if r.endDue = true ∧ s.decsWait h = false then s.endTask die idx r.anyKilled
      else s.checkSignal h)

/-! ## The relay hold (18 R329 to R335) -/

/-- The waits of the relay hold but those for rein instances are met (18 R332). Log 86 (DEDUCED). -/
def State.holdIdle (s : State) (g : Group) (mask : Word) : Bool :=
  !(g.mq.any fun c => g.losesMatrix mask c.op) && !(g.cq.any (g.losesCopy mask)) && !s.losesPage g mask && g.reports.isEmpty &&
    (match g.prep with
      | some q => q.landed.all id
      | none => true)

/-- The waits of the relay hold are met (18 R332). Log 86 (DEDUCED). -/
def State.holdMet (s : State) (g : Group) (mask : Word) : Bool := s.holdIdle g mask && !s.losesRein g mask

/-- A lane-wise register after the scrub: kept in the successor's lanes or zero. -/
def scrubLanes {α : Type} (kept : Bool) (lanes : Nat) (zero : α) (x : Lanes α) : Lanes α :=
  laneFn fun l => if kept && decide (l < lanes) then laneGet x l else zero

/-- A list's elements with their indexes. -/
def numberedList {α : Type} (l : List α) : List (Nat × α) := (List.range l.length).zip l

/-- The window of an index after the scrub: inherited, staged by the preparation, or zero. -/
def Group.scrubWindow (g : Group) (mask : Word) (w : Nat) : Window :=
  if keeps mask 16 w then g.win.getD w {}
  else match g.prep with
    | some q => ((q.binds.zip q.staged).find? fun x => bWindow x.1.2 = w).elim {} Prod.snd
    | none => {}

/-- The scrubbed state of a group whose successor starts (18 R326, R327, R332). -/
def Group.scrub (g : Group) (mask : Word) (kd : KDesc) : Group :=
  let n := kd.shape.lanes
  { g with
    shape := kd.shape
    x := (numberedList g.x).map fun e => if keeps mask 0 (e.1 / 4) then e.2 else 0
    v := (numberedList g.v).map fun e => scrubLanes (keeps mask 8 (e.1 / 4)) n 0 e.2
    p := g.p.map fun e => scrubLanes (bitN mask 56) n false e
    k := g.k.map fun e => scrubLanes (bitN mask 56) n 0 e
    acc := (List.range kd.shape.acc).map fun i => if keeps mask 40 i then g.acc.getD i {} else {}
    win := (List.range kd.shape.windows).map (g.scrubWindow mask)
    q := (numberedList g.q).map fun e => if keeps mask 24 e.1 then e.2 else none
    prep := none
    next := kd.entry
    phase := .running }

/-- The register of an edge buffer is inherited: one that is bound to it, or, where none is, the one that its binding names
(17 R316). Log 52 (DESIGN CHOICE). -/
def Group.keepsEdge (g : Group) (mask : Word) (e : EdgeBuf) : Bool :=
  let on := (List.range 8).filter fun i => match g.s.getD i none with
    | some st => decide (st.src = .edge e.bind) && !st.out
    | none => false
  if on.isEmpty then keeps mask 32 e.reg else on.any (keeps mask 32)

/-- The buffers of task edges whose registers are not inherited go back to the tile's pool (17 R316). -/
def Group.dropEdges (g : Group) (mask : Word) : Group := { g with edges := g.edges.filter (g.keepsEdge mask) }

/-- RELAY_HOLD (18 R332): the scrub, then the successor's entry block. -/
def State.endHold (s : State) (p : Place) (mask : Word) (kd : KDesc) : State :=
  let s := s.setGroup p fun g => g.dropEdges mask
  let s := (List.range 8).foldl (fun s i => if keeps mask 32 i then s else s.unbind p i) s
  s.setGroup p fun g => g.scrub mask kd

/-- RELAY_HOLD (18 R332). -/
def execRelayHold (p : Place) (s : State) : Out1 :=
  match s.group? p with
  | none => .next s
  | some g =>
    match g.phase with
    | .relayHold mask kd _ => .next (if s.holdMet g mask then s.endHold p mask kd else s)
    | _ => .next s

end Sys2Proof.Machine
end

