-- ==== Sys2Proof/Machine/MemEvents.lean ====
section
/-!
DEFINITION. Machine/MemEvents.lean: the steps of memory and translation: stores, evictions, walks, touches, page
commands, invalidation and migration (10 R206; 11 R218; 12 R245 to R251; 14 R263 to R271).
-/
namespace Sys2Proof.Machine

/-! ## Stores, evictions, walks -/

/-- STORE_PERFORM (11 R218). -/
def execStorePerform (p : Place) (s : State) : Out1 :=
  match s.performStore p with
  | some s' => .next (s'.afterWork p)
  | none => .next s

/-- The dirty bytes of a foreign line meet a lease at the home. -/
def State.lineBlocked (s : State) (f : FLine) : Bool := (dirtyBytes f).any fun b => s.leaseHit none none b.1 1

/-- LINE_EVICTION (10 R206). Log 14 (DESIGN CHOICE). -/
def execLineEviction (die line : Nat) (s : State) : Out1 :=
  match s.fline? die line with
  | none => .next s
  | some f => .next (if s.lineBlocked f then s else s.evictLine die line)

/-- Entries of a tile's TLB (14 R263). -/
def tlbSize : Nat := 512

/-- A TLB with one more entry of a tile: it replaces the page's own, and where the tile has no room, another. Log 15 (DEDUCED). -/
def tlbAdd (l : List TlbEntry) (x : TlbEntry) : List TlbEntry :=
  let here (t : TlbEntry) : Bool := t.die == x.die && t.tile == x.tile
  let l := l.filter fun t => !(here t && t.ctx == x.ctx && t.va == x.va)
  if (l.filter here).length < tlbSize then x :: l
  else match l.find? here with
    | some y => x :: l.erase y
    | none => x :: l

/-- PAGE_WALK (14 R263, R265): a committed page that passes the checks enters the tile's TLB. Log 15 (DEDUCED). -/
def execPageWalk (die tile ctx : Nat) (va : Word) (acc : Access) (s : State) : Out1 :=
  match s.translate ctx va.toNat acc, s.walkOf ctx va.toNat with
  | .ok _, .leaf e => .next { s with tlb := tlbAdd s.tlb ⟨die, tile, ctx, s.genOf ctx, leafBase va.toNat e, e⟩ }
  | _, _ => .next s

/-! ## Touches (14 R267 to R269) -/

/-- A page of a context is under a change that has not completed. -/
def State.changing (s : State) (c va : Nat) : Bool :=
  match s.ctx? c with
  | some x => x.changing va
  | none => false

/-- A touched page is reserved with Touch = 1. -/
def State.touchable (s : State) (c va : Nat) : Bool :=
  match s.walkOf c va with
  | .leaf e => !leafCommitted e && leafTouch e
  | _ => false

/-- A group whose touch is settled runs its block again. -/
def State.untouch (s : State) (p : Place) : State := s.setGroup p fun g => { g with phase := .running }

/-- The touch of a group is settled: its page is committed, or no frame is found and it traps with 0x08B. Log 75 (DEDUCED). -/
def State.settleTouch (s : State) (p : Place) (g : Group) (va : Nat) (acc : Access) (idx : Nat)
    (lsid : Option Nat) : State :=
  if !s.touchable g.ctx va then s.untouch p
  else match s.touchFor g.ctx va p with
    | some s' => s'.untouch p
    | none => (s.untouch p).takeTrap p { cause := 0x08B, idx := idx, lsid := lsid, blk := g.next, va := va, acc := acc } (.rerun g.next)

/-- The engines, the dispatcher or a rein engine have work in a context. -/
def State.engineWork (s : State) (c : Nat) : Bool :=
  (s.groups.any fun g => g.ctx == c && (!g.mq.isEmpty || !g.cq.isEmpty || g.prep.isSome || g.s.any Option.isSome)) ||
    (s.insts.any fun i => i.ctx == c && i.isLive) || (s.recs.any fun r => r.ctx == c && r.retained.isNone)

/-- TOUCH_COMMIT (14 R267): for a group parked on its touch, or for an engine's access. -/
def execTouchCommit (ctx : Nat) (va : Word) (who : Option Place) (s : State) : Out1 :=
  if s.changing ctx va.toNat then .next s
  else match who with
    | some p =>
      match s.group? p with
      | none => .next s
      | some g =>
        match g.phase with
        | .touching a acc idx lsid =>
          .next (if g.ctx = ctx ∧ a = va.toNat then s.settleTouch p g a acc idx lsid else s)
        | _ => .next s
    | none =>
      if s.touchable ctx va.toNat && s.engineWork ctx then
        match s.touchPage ctx va.toNat with
        | some s' => .next s'
        | none => .next s
      else .next s

/-! ## Page commands (12 R245, R248, R250, R251) -/

/-- The page size and count of a page command. -/
def PageOp.range : PageOp → PgSize × Nat
  | .free => (.k64, 0)
  | .decommit sz n | .unpin sz n | .migrate sz n _ _ _ => (sz, n)

/-- The head command of a context's page service unit. -/
def State.pageHead (s : State) (c : Nat) : Option PageCmd := (s.ctx? c).bind fun x => x.pageCmds.head?

/-- Changes the head command of a context's page service unit. -/
def State.setPageHead (s : State) (c : Nat) (f : PageCmd → PageCmd) : State :=
  s.setCtx c fun x => { x with pageCmds := match x.pageCmds with
    | q :: rest => f q :: rest
    | [] => [] }

/-- The head command is done: a report of its cause, if any, then its group's wait for it ends. -/
def State.endPageCmd (s : State) (c : Nat) (q : PageCmd) (cause : Option Nat) : State :=
  let s := s.setCtx c fun x => { x with pageCmds := x.pageCmds.tail }
  let s := match cause with
    | some k => s.tell q.who q.tag ⟨k, 0, q.va, .pageCommand, true⟩
    | none => s
  s.afterWork q.who

/-- FREE is performed (12 R245). Log 122 (DEDUCED). -/
def State.doFree (s : State) (c : Nat) (q : PageCmd) : State :=
  match s.ctx? c with
  | none => s
  | some x =>
    if x.allocs.any fun a => a.1 == q.va then
      if s.backBlocked none q.who.die then s
      else ((s.writeBack q.who.die).setCtx c fun x => { x with allocs := x.allocs.filter fun a => a.1 != q.va }).endPageCmd c q none
    else s.endPageCmd c q (some 0x085)

/-- A page's frames are mapped by another package (14 R262). Log 112 (DESIGN CHOICE). -/
def State.exported (s : State) (e : Word) (sz : PgSize) : Bool := (framesOf (leafPa e / 65536) sz).any fun f => s.exports.any fun x => x.2 == f

/-- The pins on a page: a PIN counts from its commit on (12 R247), and a page that another package maps is as if pinned (14 R262). -/
def State.pinned (s : State) (c va : Nat) (sz : PgSize) : Nat :=
  match s.leafOf c va sz with
  | some e => leafPins e + (s.exported e sz).toNat
  | none => 0

/-- UNPIN is performed (12 R248) once no change of its pages is left to complete (14 R270); a page that is unmapped or of another
size has count 0. Log 123 (DEDUCED). -/
def State.doUnpin (s : State) (c : Nat) (q : PageCmd) (sz : PgSize) (n : Nat) : State :=
  let vas := pagesOf q.va n sz
  let pins (va : Nat) : Nat := match s.leafOf c va sz with
    | some e => leafPins e
    | none => 0
  if vas.any (s.changing c) then s
  else if vas.any fun va => pins va = 0 then s.endPageCmd c q (some 0x086)
  else
    (vas.foldl (fun (s : State) va => match s.leafOf c va sz with
      | some e => s.setCtx c fun x => x.setLeaf va sz (putBits e 56 8 (leafPins e - 1))
      | none => s) s).endPageCmd c q none

/-- A page of a range is still being moved or changed. -/
def State.rangeBusy (s : State) (c va : Nat) (sz : PgSize) (n : Nat) : Bool :=
  match s.ctx? c with
  | none => false
  | some x =>
    x.rangeBusy va (va + n * pgBytes sz)

/-- A VMIGRATE's arrival; it raises no cause (12 R250). Log 76 (DEDUCED); 125 (DEDUCED). -/
def State.migArrive (s : State) (q : PageCmd) : State :=
  match q.op, s.group? q.who with
  | .migrate _ _ _ _ (some a), some g => (s.barUpdate g a 0 1).1
  | _, _ => s

/-- PAGE_COMMAND_PERFORM (12 R251): FREE and UNPIN are performed at once; a command over pages begins, and ends once
every page is done. -/
def execPageCommandPerform (ctx : Nat) (s : State) : Out1 :=
  match s.pageHead ctx with
  | none => .next s
  | some q =>
    match q.op, q.left with
    | .free, _ => .next (s.doFree ctx q)
    | .unpin sz n, _ => .next (s.doUnpin ctx q sz n)
    | op, none => .next (s.setPageHead ctx fun q => { q with left := some (pagesOf q.va op.range.2 op.range.1) })
    | op, some [] =>
      .next (if s.rangeBusy ctx q.va op.range.1 op.range.2 then s else (s.migArrive q).endPageCmd ctx q none)
    | _, some _ => .next s

/-- The next page of a command, by the page service unit. -/
def State.nextPage (s : State) (c : Nat) : State :=
  s.setPageHead c fun q => { q with left := q.left.map List.tail }

/-- A committed page returns to reserved; its leaf keeps its last frame as its placement (12 R248, 14 R410), one of
another package too. Log 124 (DESIGN CHOICE). -/
def State.decommit (s : State) (c va : Nat) (sz : PgSize) (e : Word) : State :=
  s.beginInval c va sz e (putBits e 2 2 1) none

/-- INVALIDATION (14 R270): of the next page of a VDECOMMIT. Log 136 (DEDUCED). -/
def execInvalidation (ctx : Nat) (s : State) : Out1 :=
  match s.pageHead ctx with
  | none => .next s
  | some q =>
    match q.op, q.left with
    | .decommit sz _, some (va :: _) =>
      match s.leafOf ctx va sz with
      | none => .next (s.nextPage ctx)
      | some e =>
        if s.changing ctx va || decide (leafState e = 3) then .next s
        else if leafCommitted e && decide (s.pinned ctx va sz = 0) then .next ((s.decommit ctx va sz e).nextPage ctx)
        else .next (s.nextPage ctx)
    | _, _ => .next s

/-! ## Migration (14 R271) -/

/-- The foreign lines of a frame range. -/
def State.linesIn (s : State) (f n : Nat) : List FLine :=
  s.foreign.filter fun x => decide (f * 65536 ≤ x.line * 128) && decide (x.line * 128 < (f + n) * 65536)

/-- Writes back every dirty foreign copy of a frame range's lines. Log 128 (DEDUCED). -/
def State.backFrame (s : State) (f n : Nat) : State :=
  let ls := s.linesIn f n
  let s' := ls.foldl State.writeBackLine s
  { s' with foreign := s'.foreign.map fun x => if ls.contains x then { x with dirty := 0 } else x }

/-- Copies a frame range with its poison. -/
def State.copyFrame (s : State) (old new n : Nat) : State :=
  let a := old * 65536
  let b := new * 65536
  let len := n * 65536
  let s := s.zeroFrames new n
  let cells := s.mem.filter fun c => decide (a ≤ c.1) && decide (c.1 < a + len)
  let gs := s.poison.filter fun g => decide (a ≤ g * 64) && decide (g * 64 < a + len)
  { s with
    mem := cells.foldl (fun (m : Cells) c => m.put (c.1 - a + b) c.2) s.mem
    poison := poisonAdd s.poison (gs.map fun g => g - a / 64 + b / 64) }

/-- Takes a destination frame among those a test accepts. -/
def State.takeDest (s : State) (c n : Nat) (ok : Nat → Bool) : Option (Nat × State) :=
  match s.pick ((frameRuns (s.freeFrames c) n).filter ok) with
  | none => none
  | some f => some (f, (s.setCtx c fun cx => { cx with frames := cx.frames.filter fun x => !(decide (f ≤ x) && decide (x < f + n)) }).draw)

/-- Steps 1 to 4 of a page's move; none while a write-back would meet a lease, unchanged when no frame is found. -/
def State.beginMove (s : State) (c va : Nat) (sz : PgSize) (e : Word) (ok : Nat → Bool) : Option State :=
  let n := pgFrames sz
  let old := leafPa e / 65536
  match s.takeDest c n ok with
  | none => some s
  | some (f, s1) =>
    if (s.linesIn old n).any s.lineBlocked then none
    else
      let s2 := s1.setCtx c fun x => { (x.setLeaf va sz (putBits e 2 2 3)) with migs := ⟨va, sz, old, f⟩ :: x.migs }
      some ((s2.backFrame old n).copyFrame old f n)

/-- A buffered store under the old translation of a page that has moved goes to the new frame. Log 128 (DEDUCED). -/
def SbEntry.turn (old new n : Nat) (x : SbEntry) : SbEntry :=
  match x.dest with
  | .phys pa =>
    if old * 65536 ≤ pa ∧ pa < (old + n) * 65536 then { x with dest := .phys (pa - old * 65536 + new * 65536) } else x
  | .peer _ => x

/-- Drops the foreign copies of a frame range's lines. Log 128 (DEDUCED). -/
def State.dropFrame (s : State) (f n : Nat) : State :=
  let ls := s.linesIn f n
  { s with foreign := s.foreign.filter fun x => !(ls.any fun y => y.die == x.die && y.line == x.line) }

/-- Step 5 of a page's move: the invalidation with the new frame begins. What the dies hold of the old frame is written at both
frames first, and the stores still buffered are performed at the new one, which from now on every access finds: so each byte
keeps its coherence order (11 R223). None while a write-back would meet a lease. Log 128 (DEDUCED). -/
def State.turnMove (s : State) (c : Nat) (m : Migration) (e : Word) : Option State :=
  let n := pgFrames m.sz
  if (s.linesIn m.old n).any s.lineBlocked then none
  else
    let s := (s.backFrame m.old n).dropFrame m.old n
    let s : State := { s with groups := s.groups.map fun g => { g with sb := g.sb.map (SbEntry.turn m.old m.new n) } }
    some (s.beginInval c m.va m.sz e (leafWith e m.new) none)

/-- A destination that a VMIGRATE accepts. Log 76 (DEDUCED). -/
def migSpot (tier1 : Bool) (place : Nat) (f : Nat) : Bool := frameSpot f == (if tier1 then 1 else 0, place)

/-- The next page of the head VMIGRATE of a context. -/
def State.migNext (s : State) (c va : Nat) : Option (PgSize × (Nat → Bool)) :=
  match s.pageHead c with
  | some q =>
    match q.op, q.left with
    | .migrate sz _ tier1 place _, some (a :: _) => if a = va then some (sz, migSpot tier1 place) else none
    | _, _ => none
  | none => none

/-- A page whose frame lies in a retired row (14 R275). Log 79 (DEDUCED). -/
def State.onRetired (s : State) (c va : Nat) : Option PgSize :=
  match s.walkOf c va with
  | .leaf e =>
    let sz := pgOfCode (leafSize e)
    if leafCommitted e && (leafBase va e == va) && (framesOf (leafPa e / 65536) sz).any s.frameRetired then some sz else none
  | _ => none

/-- One page by the migration engine: skipped where it may not move. Log 136 (DEDUCED). -/
def State.movePage (s : State) (c va : Nat) (sz : PgSize) (ok : Nat → Bool) (next : State → State) : State :=
  match s.leafOf c va sz with
  | none => next s
  | some e =>
    if s.changing c va then s
    else if leafState e = 2 ∧ s.pinned c va sz = 0 ∧ paPkg (leafPa e) = s.pkgNum then
      match s.beginMove c va sz e ok with
      | none => s
      | some s' => next s'
    else next s

/-- MIGRATE_PAGE (14 R271): a page that is being moved is invalidated with its new frame; else the move of a page of a
VMIGRATE, or of one on a retired row, begins. -/
def execMigratePage (ctx : Nat) (va : Word) (s : State) : Out1 :=
  let a := va.toNat
  match (s.ctx? ctx).bind fun x => x.migs.find? fun m => m.va == a with
  | some m =>
    match s.leafOf ctx a m.sz with
    | some e => .next (if leafState e = 3 ∧ s.changing ctx a = false then (s.turnMove ctx m e).getD s else s)
    | none => .next s
  | none =>
    match s.migNext ctx a with
    | some (sz, ok) => .next (s.movePage ctx a sz ok fun s => s.nextPage ctx)
    | none =>
      match s.onRetired ctx a with
      | some sz => .next (s.movePage ctx a sz (fun f => !(framesOf f sz).any s.frameRetired) id)
      | none => .next s

/-! ## The end of an invalidation (14 R270) -/

/-- The frames of the old leaf that the page no longer maps return to the pool, after the write-back of their lines. -/
def State.dropOld (s : State) (c : Nat) (i : Inval) : State :=
  let f := leafPa i.old / 65536
  let n := i.size / 65536
  if leafCommitted i.old then
    let s := (s.backFrame f n).dropFrame f n
    let same : Bool := match s.walkOf c i.va with
      | .leaf e => leafCommitted e && decide (leafPa e = leafPa i.old)
      | _ => false
    if same then s else s.giveFrames c ((List.range n).map (f + ·))
  else s

/-- An invalidation completes. -/
def State.endInval (s : State) (c : Nat) (i : Inval) : State :=
  let s := ((s.dropOld c i).setCtx c fun x =>
    { x with invals := x.invals.erase i, migs := x.migs.filter fun m => m.va != i.va }).release
  match i.map with
  | some q =>
    if (match s.ctx? c with
        | some x => x.invals.any fun j => j.map == some q
        | none => false) then s
    else s.finishDoing q 0 []
  | none => s

/-- INVALIDATION_COMPLETE (14 R270): no request translated under the old leaf is left. -/
def execInvalidationComplete (ctx : Nat) (s : State) : Out1 :=
  match (s.ctx? ctx).bind fun x => x.invals.find? fun i => s.drained ctx i.va i.size with
  | none => .next s
  | some i =>
    .next (if (s.linesIn (leafPa i.old / 65536) (i.size / 65536)).any s.lineBlocked then s else s.endInval ctx i)

end Sys2Proof.Machine
end

