-- ==== Sys2Proof/Machine/StallMap.lean ====
section
/-!
DEFINITION. Machine/StallMap.lean: the stall map that a freeze writes (17 R324).
-/
namespace Sys2Proof.Machine

/-! ## What is listed -/

/-- The groups of a context in the order of global tile id and slot. -/
def State.ctxGroups (s : State) (c : Nat) : List Group :=
  let key (g : Group) : Nat := (g.place.die * 64 + g.place.tile) * 4 + g.place.slot
  sortBy (fun a b => decide (key a < key b)) (s.groups.filter fun g => g.ctx == c)

/-- A barrier by the place of its owner, its window and byte. -/
structure BarName where
  who : Place
  win : Nat
  off : Nat
deriving DecidableEq, Repr

/-- The name of a barrier that a group's scratch address reaches. -/
def Group.barName (g : Group) (a : ScrAt) : BarName := ⟨g.member a.rank, a.win, a.off⟩

/-- The address of the BWAIT of a waiting node. -/
def State.bwaitAt (s : State) (g : Group) (n : Node) : Option ScrAt :=
  match n.ins with
  | .bwait _ _ off =>
    if n.st = .waiting then
      match s.saddr g true ((n.slot .l).getD .void).word off 16 16 with
      | .ok a => some a
      | .error _ => none
    else none
  | _ => none

/-- The barriers that a group's waiting BWAITs name. -/
def State.waitedBars (s : State) (g : Group) : List BarName :=
  match g.run with
  | some r => (r.nodes.filterMap (s.bwaitAt g)).map g.barName
  | none => []

/-- The barriers that a matrix command owes a credit. -/
def MatOp.credits : MatOp → List ScrAt
  | .mma _ _ _ _ _ _ a => a.toList
  | .mzero _ => []
  | .mst _ _ _ c _ _ => c.toList

/-- The barriers that a group's outstanding commands owe a credit, one entry for each command that names one. -/
def State.owedBars (s : State) (g : Group) : List BarName :=
  let page : List ScrAt := match s.ctx? g.ctx with
    | some x => x.pageCmds.filterMap fun q => match q.op with
      | .migrate _ _ _ _ a => if q.who = g.place then a else none
      | _ => none
    | none => []
  let rein : List ScrAt := (s.insts.filter fun i => decide (i.st = .live) && i.who == g.place && i.ctx == g.ctx && (i.arrive || i.credit)).map Inst.bar
  ((g.mq.flatMap fun c => c.op.credits) ++ g.cq.flatMap CpyCmd.credit ++ page ++ rein).map g.barName

/-- The barriers listed, in the order of their groups. -/
def State.listedBars (s : State) (gs : List Group) : List BarName :=
  let all := gs.flatMap fun g => s.waitedBars g ++ s.owedBars g
  gs.flatMap fun g => (all.filter fun b => b.who == g.place).eraseDups

/-! ## Wait kinds -/

/-- The address of a memory operand: base and offset as the instruction adds them (08 R161, 12 R236). -/
def awaitedAt (i : Instr) (l : Word) : Word :=
  match i with
  | .ld _ _ _ o | .ldv _ _ _ o => wordN (gaddrSum l o.off)
  | .amoAdd _ _ _ o | .amoMin _ _ _ o | .amoMax _ _ _ o | .amoAnd _ _ _ o => wordN (gaddrSum l o.off)
  | .amoOr _ _ _ o | .amoXor _ _ _ o | .amoSwap _ _ _ o | .amoCas _ _ _ o => wordN (gaddrSum l o.off)
  | .gather _ _ _ _ off => wordN (gaddrSum l off)
  | .lds _ _ _ _ off | .bwait _ _ off | .btest _ _ off => wordN (truncI ((bitsN l 0 28 : Nat) + sextN off.toNat 24) 28)
  | _ => l

/-- The handle that a task probe awaits the answer of: the first that it asks another package for, or the first (15 R286, R287).
Log 83 (DEDUCED). -/
def Env.awaitedTask (e : Env) : Word :=
  let hs := e.probeHandles
  match hs.find? fun h => decide (hPkg h ≠ e.s.pkgNum) with
  | some h => h
  | none => hs.headD 0

/-- What an instruction that waits waits for: the kind and the awaited object. Log 83 (DEDUCED). -/
def State.waitKind (s : State) (g : Group) (r : BlockRun) (n : Node) : Nat × Word :=
  let l := ((n.slot .l).getD .void).word
  match n.ins with
  | .read _ _ (.s r) => (2, wordN r.toNat)
  | .bwait _ _ _ => (4, awaitedAt n.ins l)
  | .qpush _ _ q => (5, wordN q.toNat)
  | .qpop _ _ q => (6, wordN q.toNat)
  | .mld _ _ a => (7, wordN a.toNat)
  | .semit _ _ _ r => (8, wordN r.toNat)
  | .tspawn _ _ _ _ | .tdec _ _ _ | .tinst _ _ _ | .tstat _ _ | .gresume _ _ _ | .gkill _ _ _ => (10, (⟨s, g, r, n, n.ins, []⟩ : Env).awaitedTask)
  | .amoAdd _ _ _ _ | .amoMin _ _ _ _ | .amoMax _ _ _ _ | .amoAnd _ _ _ _ | .amoOr _ _ _ _ | .amoXor _ _ _ _
  | .amoSwap _ _ _ _ | .amoCas _ _ _ _ => (11, awaitedAt n.ins l)
  | i => if isLoad i then (3, awaitedAt i l) else (9, 0)

/-- The wait of a group: kind, index, LSID, awaited object. A group in a relay hold or on a touch has no kind of R324:
`free` stands for it. Log 82 (DESIGN CHOICE); 83 (DEDUCED). -/
def State.waitOf (s : State) (g : Group) (free : Nat) : Nat × Nat × Nat × Word :=
  match g.phase, g.run with
  | .parked _ _, _ => (1, 0, 0, 0)
  | .ended, _ => (12, 0, 0, 0)
  | .relayHold _ _ _, _ | .touching .., _ => (free % 13, 0, 0, 0)
  | _, some r =>
    match ((List.range r.nodes.length).zip r.nodes).find? fun x => decide (x.2.st = .waiting) with
    | some x => ((s.waitKind g r x.2).1, x.1, (lsidOf x.2.ins).getD 0, (s.waitKind g r x.2).2)
    | none => (0, 0, 0, 0)
  | _, none => (0, 0, 0, 0)

/-- The address of the block a group stands at. -/
def Group.blockAddr (g : Group) : Word :=
  match g.run, g.phase with
  | some r, _ => r.addr
  | none, .parked (.pend _ blk _) _ => blk
  | none, .parked (.hold _ _ blk) _ => blk
  | none, .parked (.rerun a) _ => a
  | none, .relayHold _ _ blk => blk
  | none, _ => g.next

/-! ## Entries -/

/-- The words of a group's entry. Log 82 (DESIGN CHOICE). -/
def State.groupEntry (s : State) (g : Group) : List Word :=
  let w := s.waitOf g (Config.choice s.fresh)
  [g.blockAddr, s.placeWord g, g.task, wordN (w.1 + w.2.1 * 16 + w.2.2.1 * 2 ^ 9), w.2.2.2, g.count, 0, 0]

/-- The fourth word of a stream's entry. -/
def State.streamFar (s : State) (g : Group) (st : Stream) : Word :=
  match st.src, st.out with
  | .mem base _ _, _ => wordN base
  | .edge b, true =>
    match s.recOf g with
    | some r => (r.peerOf b).1
    | none => 0
  | _, _ => 0

/-- The entries of a group's bound stream registers. -/
def State.streamEntries (s : State) (g : Group) : List (List Word) :=
  (List.range 8).filterMap fun r => (g.s.getD r none).map fun st =>
    [s.placeWord g, wordN r, g.sstWord r, s.streamFar g st, 0, 0, 0, 0]

/-- The entries of a group's initialised rings. -/
def State.ringEntries (s : State) (g : Group) : List (List Word) :=
  (List.range 8).filterMap fun q => (g.q.getD q none).map fun r =>
    [s.placeWord g, wordN q, r.status, wordN r.base, 0, 0, 0, 0]

/-- The entry of a barrier. -/
def State.barEntry (s : State) (gs : List Group) (b : BarName) : List Word :=
  match s.group? b.who with
  | none => [0, wordN (b.win * 65536 + b.off), 0, 0, 0, 0, 0, 0]
  | some g =>
    let waits := (gs.filter fun x => (s.waitedBars x).contains b).length
    let owes := ((gs.flatMap s.owedBars).filter fun x => x == b).length
    [s.placeWord g, wordN (b.win * 65536 + b.off), (s.bar g ⟨g.rank, b.win, b.off⟩).test,
      wordN (waits % 65536 + owes % 65536 * 65536), 0, 0, 0, 0]

/-- The entries of a map with the kind of each: 0 group, 1 stream, 2 ring, 3 barrier. -/
def State.mapEntries (s : State) (c : Nat) : List (Nat × List Word) :=
  let gs := s.ctxGroups c
  (gs.map fun g => (0, s.groupEntry g)) ++ ((gs.flatMap s.streamEntries).map fun e => (1, e)) ++
    ((gs.flatMap s.ringEntries).map fun e => (2, e)) ++ ((s.listedBars gs).map fun b => (3, s.barEntry gs b))

/-- A header word of two record counts. -/
def State.recCounts (s : State) (c a b : Nat) : Word :=
  let n (k : Nat) : Nat := (s.recs.filter fun r => r.ctx == c && decide (r.state = k) && r.retained.isNone).length
  wordN (n a + n b * 2 ^ 32)

/-- The header of a map of which the given entries were written. Log 83 (DEDUCED). -/
def State.mapHeader (s : State) (c : Ctx) (kinds : List Nat) (cut : Bool) : List Word :=
  let n (k : Nat) : Nat := (kinds.filter (· = k)).length % 65536
  [wordN s.cycle, wordN c.stall, wordN (n 0 + n 1 * 2 ^ 16 + n 2 * 2 ^ 32 + n 3 * 2 ^ 48), wordN cut.toNat,
    s.recCounts c.slot 0 1, s.recCounts c.slot 2 3, s.recCounts c.slot 4 5, 0]

/-! ## Writing -/

/-- Writes entries one after another: the kinds written, the cause that stopped it, the state. -/
def State.putEntries (s : State) (c : Nat) : Nat → List (Nat × List Word) → List Nat × Option Nat × State
  | _, [] => ([], none, s)
  | va, e :: es =>
    match s.ctxWrite none c va (wordsBytes e.2) .store with
    | .error x => ([], some x.2, s)
    | .ok s1 =>
      let r := State.putEntries s1 c (va + 64) es
      (e.1 :: r.1, r.2.1, r.2.2)

/-- Writes the stall map: the state, and the class 2 cause for the notification. Log 83 (DEDUCED). -/
def State.writeMap (s : State) (c : Ctx) : State × Nat :=
  let all := s.mapEntries c.slot
  let fit := all.take (c.mapSize / 64 - 1)
  let r := s.putEntries c.slot (c.mapBase + 64) fit
  match r.2.2.ctxWrite none c.slot c.mapBase (wordsBytes (s.mapHeader c r.1 (decide (r.1.length < all.length)))) .store with
  | .error x => (s, x.2)
  | .ok s' => (s'.draw, r.2.1.getD 0)

/-- Bytes of a stall map's whole extent as it stands. -/
def State.mapBytes (s : State) (c : Ctx) : Nat := 64 * ((s.mapEntries c.slot).take (c.mapSize / 64 - 1)).length + 64

/-- The bytes of a stall map meet a lease, or a page of them is under a change that must end first (14 R270). -/
def State.mapBlocked (s : State) (c : Ctx) : Bool :=
  s.xblocked none none c.slot c.mapBase (s.mapBytes c) .store ||
    (match s.reach .store c.slot (c.mapBase / 16 * 16) (units (c.mapBase % 16 + s.mapBytes c)) with
      | .error e => decide (e.2 = waitCause)
      | .ok _ => false)

end Sys2Proof.Machine
end

