-- ==== Sys2Proof/Machine/Cut.lean ====
section
/-!
DEFINITION. Machine/Cut.lean: the cut of a context, its save, resumption, teardown, the drain of a pod switch and the stall
watchdog (07 R159; 17 R320, R322, R323; 21 R376 to R390).
-/
namespace Sys2Proof.Machine

/-! ## The cut begins (07 R159; 21 R378) -/

/-- A cut discards a group's block: it waits (07 R159). -/
def Group.cutDrops (g : Group) : Bool :=
  match g.phase, g.run with
  | .touching .., _ => false
  | _, some r => r.isWaiting
  | _, none => false

/-- A group as the cut reaches it (07 R159): a block that waits is discarded, one that runs has its grace. -/
def Group.meetCut (g : Group) : Group :=
  let g := { g with ahead := none }
  match g.phase, g.run with
  | .touching .., _ => { g with phase := .running }
  | _, some _ => if g.cutDrops then { g with run := none } else { g with grace := true }
  | _, none => g

/-- The starts that the waiting blocks of a context wait for. -/
def State.waitedStarts (s : State) (c : Nat) : List (Nat × Nat × Nat) :=
  (s.groups.filter fun g => g.ctx == c).flatMap fun g => match g.run with
    | some r => if r.isWaiting then r.waitingStarts.map fun x => (g.place.die, x) else []
    | none => []

/-- Steps 1 and 2 of a cut: dispatch stops, tasks placed are ready again, and each group is reached. -/
def State.beginCut (s : State) (c : Nat) (st : CtxSt) (kind : CutKind) : State :=
  let ws := s.waitedStarts c
  let s : State := s.setCtx c fun x => { x with st := st, cut := kind, cutAt := s.cycle, waits := ws, aborts := [] }
  let s := (s.groups.filter fun g => g.ctx == c && g.cutDrops).foldl State.unask s
  let s : State := { s with
    recs := s.recs.map fun r =>
      if r.ctx = c ∧ r.retained = none ∧ (r.state = 2 ∨ r.state = 3) then { r.unplaced with readyAt := s.cycle } else r
    groups := s.groups.map fun g => if g.ctx = c then g.meetCut else g }
  s.release

/-! ## Steps 2 to 6 (21 R378 to R382) -/

/-- A group is still but for a relay hold: no block, no store, no engine work under way, no report to come. -/
def Group.still (g : Group) : Bool :=
  g.run.isNone && g.sb.isEmpty && (g.mq.all fun c => !c.started || c.stop.isSome) && !(g.mq.any fun c => isUntold c.stop) &&
    (g.cq.all fun c => c.stop.isSome || decide (c.issued ≤ c.first)) && !(g.cq.any fun c => isUntold c.stop) && !(g.prep.any fun q => isUntold q.stop) &&
    (match g.phase with
      | .exiting _ _ _ => false
      | .parked _ _ => true
      | _ => g.reports.isEmpty)

/-- The mask of the relay hold that a group is in. -/
def Group.holdMask (g : Group) : Option Word :=
  match g.phase with
  | .relayHold mask _ _ => some mask
  | _ => none

/-- A group is at rest; a relay hold that waits for nothing but rein instances is finished in the save, after they are aborted
(18 R335; 21 R382). Log 86 (DEDUCED). -/
def State.atRest (s : State) (g : Group) : Bool := g.still && g.holdMask.all (s.holdIdle g)

/-- A decrement on its way to a record of a context, or one that a task of the context is about to make: it may still send
(21 R390). Log 86 (DEDUCED). -/
def State.sendsDue (s : State) (c : Nat) : Bool :=
  (s.decs.any fun d => (s.target d.handle).any fun r => r.ctx == c) ||
    s.recs.any fun r => r.ctx == c && (r.endDue || s.signalDue r (r.handle s.pkgNum))

/-- Steps 2 to 5 of a context's cut are done, and no send can arise from it. Log 86 (DEDUCED). -/
def State.cutSettled (s : State) (c : Nat) : Bool :=
  match s.ctx? c with
  | none => false
  | some x => (s.groups.all fun g => g.ctx != c || s.atRest g) && x.pageCmds.isEmpty && (x.held.isEmpty || x.spell) && !s.sendsDue c

/-- Step 6: the instances of a context's groups are aborted, and those its discarded blocks waited to start (21 R382). Log 86 (DEDUCED). -/
def State.abortRein (s : State) (c : Nat) : State :=
  match s.ctx? c with
  | none => s
  | some x =>
    let l := ((s.insts.filter fun i => i.ctx == c && i.isLive && !i.doomed).map fun i => (i.die, i.id, i.n)) ++ x.waits
    (l.foldl (fun s a => s.abortAll a.1 c a.2.1 a.2.2) s).setCtx c fun x =>
      { x with waits := [], aborts := (x.aborts ++ l).eraseDups.take 128 }

/-- The relay holds of a context that nothing keeps end, before it is saved (18 R335). -/
def State.endHolds (s : State) (c : Nat) : State :=
  (s.groups.filter fun g => g.ctx == c).foldl (fun s g => match g.phase with
    | .relayHold mask kd _ => if s.holdMet g mask then s.endHold g.place mask kd else s
    | _ => s) s

/-! ## Leaving a slot Free (21 R376, R377, R388) -/

/-- The generation after one. -/
def nextGen (g : Nat) : Nat := if (g + 1) % 65536 = 0 then 1 else (g + 1) % 65536

/-- Frame ranges of a context's committed leaves: first frame and count. -/
def Ctx.mapped (c : Ctx) : List (Nat × Nat) :=
  c.pte.filterMap fun e =>
    if pteKind e.2 = 2 ∧ leafCommitted e.2 = true then
      some (leafPa e.2 / 65536, if e.1.level = 3 then 1 else pgFrames .g1)
    else none

/-- Takes the dies' copies of a frame range home. -/
def State.bringHome (s : State) (f n : Nat) : State :=
  (s.backFrame f n).dropFrame f n

/-- Groups of a context with a begun matrix command. -/
def State.begun (s : State) (c : Nat) : List Group :=
  s.groups.filter fun g => g.ctx == c && (match g.mq with
    | m :: _ => m.started && m.stop.isNone
    | [] => false)

/-- The copy pieces of a context that have been issued and are not done: their group, copy and number (21 R380, R388). -/
def State.underway (s : State) (c : Nat) : List (Place × Nat × Nat) :=
  (s.groups.filter fun g => g.ctx == c).flatMap fun g =>
    g.cq.flatMap fun q => ((List.range q.issued).filter q.mayDo).map fun k => (g.place, q.id, k)

/-- The next step of an engine for a context that is torn down, and its group. Log 85 (DEDUCED). -/
def State.endingWork (s : State) (c : Nat) : Option (Place × (State → Out1)) :=
  match s.begun c with
  | g :: _ => some (g.place, execMatrixCommandRetire g.place)
  | [] => (s.underway c).head?.map fun x => (x.1, execCopyPiece x.1 x.2.1 x.2.2)

/-- The matrix commands and copy pieces under way are run to their ends, in at most so many steps, or until one has to wait
(21 R388). Log 85 (DEDUCED). -/
def State.finishEngines (c : Nat) : Nat → State → State
  | 0, s => s
  | n + 1, s =>
    match s.endingWork c with
    | none => s
    | some (p, f) =>
      match f s with
      | .next t => if t.group? p = s.group? p then s else State.finishEngines c n t
      | _ => s

/-- More steps than the work under way of a context takes: an engine's step moves a byte at least. -/
def engineSteps : Nat := 2 ^ 30

/-- An access through a region that has been accepted is still to be performed. -/
def State.regionBusy (s : State) (key : Nat) : Bool :=
  (s.agenda ++ s.later).any fun i => match i with
    | .rdmaWrite _ k _ _ => k == key
    | _ => false

/-- A teardown stops a context: no dispatch, its blocks discarded (17 R320; 21 R388). Log 85 (DEDUCED); 151 (DESIGN CHOICE). -/
def State.stopCtx (s : State) (c : Nat) : State :=
  let ws := s.waitedStarts c
  let s := (s.groups.filter fun g => g.ctx == c).foldl State.unask s
  let s : State := { s with groups := s.groups.map fun g => if g.ctx = c then { g with run := none, ahead := none } else g }
  (s.setCtx c fun x => { x with st := .ending, waits := x.waits ++ ws }).release

/-- A stopped context's stores and what its engines have under way are performed; none while a lease
keeps them from it, or an access through a region of the context is still to be performed. Log 85 (DEDUCED). -/
def State.workDone (s : State) (c : Nat) (x : Ctx) : Option State :=
  let mine := (s.groups.filter fun g => g.ctx == c).map Group.place
  let s := State.finishEngines c engineSteps (mine.foldl State.drainSb s)
  let fs := x.mapped
  if (s.groups.any fun g => g.ctx == c && !g.sb.isEmpty) || (s.endingWork c).isSome ||
      (s.regions.any fun r => r.ctx == c && s.regionBusy r.key) ||
      fs.any (fun f => (s.linesIn f.1 f.2).any s.lineBlocked) then none
  else some (fs.foldl (fun s f => s.bringHome f.1 f.2) s)

/-- What is left of a context's queue: the command that has begun completes, those behind it find the queue unbound. Log 85 (DEDUCED). -/
def State.closeQueue (s : State) (q : Queue) : State :=
  let s := match q.doing with
    | some m => s.sendDone m 0 []
    | none => s
  q.waiting.foldl (fun s i => match msgOf i with
    | some m => s.sendDone m 3 []
    | none => s) s

/-- Removes a context from its slot (21 R376, R388). Log 85 (DEDUCED); 151 (DESIGN CHOICE). -/
def State.freeSlot (s : State) (c : Nat) : State :=
  let mine := s.queues.filter fun q => q.ctx == some c
  let gone (n : Nat) : Bool := mine.any fun q => q.num == n
  let keys := (s.insts.filter fun i => i.ctx == c).map Inst.key
  let s := mine.foldl State.closeQueue s
  { s with
    ctxs := s.ctxs.filter fun x => x.slot != c
    gens := s.gens.set c (nextGen (s.genOf c))
    groups := s.groups.filter fun g => g.ctx != c
    recs := s.recs.filter fun r => r.ctx != c
    progs := s.progs.filter fun p => p.ctx != c
    insts := s.insts.filter fun i => i.ctx != c
    landings := s.landings.filter fun l => !keys.contains l.inst
    signals := s.signals.filter fun x => x.ctx != c
    tlb := s.tlb.filter fun t => t.ctx != c
    regions := s.regions.filter fun r => r.ctx != c
    qps := s.qps.filter fun q => q.ctx != c
    queues := s.queues.filter fun q => !gone q.num
    links := s.links.filter fun l => !(gone l.p || gone l.c) }

/-- A context is torn down (21 R388): `cause` notifies the host of a fault in the save area, else parked groups are
notified; none while its work has to wait. Log 85 (DEDUCED). -/
def State.tearDown (s : State) (c : Nat) (cause : Option Nat) : Option State :=
  match s.ctx? c with
  | none => some s
  | some x =>
    match (s.stopCtx c).workDone c x with
    | none => none
    | some s1 =>
      let parked (g : Group) : Bool := match g.phase with
        | .parked _ _ => true
        | _ => false
      let s2 := match cause with
        | some k => s1.notifyCause (some c) k 0 0
        | none =>
          if (s1.groups.any fun g => g.ctx == c && parked g) || x.savedGroups.any parked then s1.notifyCause (some c) 0x182 0 0 else s1
      some ((s2.abortRein c).freeSlot c).release

/-- Completes the command of queue 0 that asked for what a context does. Log 84 (DESIGN CHOICE). -/
def State.answerAsked (s : State) (c : Nat) (status : Nat) : State :=
  match s.ctx? c with
  | some x => if x.asked then (s.setCtx c fun x => { x with asked := false }).finishDoing 0 status [] else s
  | none => s

/-- A fault in the save area (21 R377): the slot is Free and the host is notified; the spec states no status for the command
that asked. Log 84 (DESIGN CHOICE). -/
def State.saveFault (s : State) (c : Nat) : State :=
  match s.tearDown c (some 0x186) with
  | none => s
  | some s' =>
    match s.ctx? c with
    | some x => if x.asked then s'.draw.finishDoing 0 (Config.choice s'.fresh % 256) [] else s'
    | none => s'

/-! ## The save image (21 R384 to R386) -/

/-- Bytes at an offset of the image. -/
abbrev Piece := Nat × List Byte

/-- Words at an offset. -/
def atWords (o : Nat) (ws : List Word) : Piece := (o, wordsBytes ws)

/-- The bytes of stream elements. -/
def elemsBytes (l : List SElem) : List Byte := l.flatMap fun e => match e with
  | .data bs _ => bs
  | .fault _ _ => []

/-- The elements of a group's stream registers that a save holds, in order (21 R381). -/
def Group.savedElems (g : Group) : List Byte :=
  (List.range 8).flatMap fun r => match g.s.getD r none with
    | none => []
    | some st =>
      match st.src, st.out with
      | .rein _ _ _, false => elemsBytes st.buf
      | .edge b, false => (g.edges.filter fun e => e.bind == b).flatMap fun e => elemsBytes e.buf
      | _, _ => []

/-- Bytes of a group's entry (21 R385). -/
def Group.entrySize (g : Group) : Nat := 65536 * (1 + g.shape.windows + g.shape.acc) + roundUp g.savedElems.length 65536

/-- The resume of a group that is saved. -/
def Group.savedResume (g : Group) : Resume :=
  match g.phase with
  | .parked rs _ => rs
  | .ended => .ended
  | _ => .rerun g.next

/-- A kernel shape's bits as in kernel descriptor word 1 (17 R306). -/
def KShape.bits (k : KShape) : Nat :=
  k.lanes + k.windows * 2 ^ 4 + k.acc * 2 ^ 8 + k.rings * 2 ^ 16 + k.streams * 2 ^ 20

/-- The word of shape and status. -/
def Group.statusWord (g : Group) : Word :=
  let parked : Bool := match g.phase with
    | .parked _ _ => true
    | _ => false
  let hold : Bool := match g.phase with
    | .parked (.hold _ _ _) _ => true
    | _ => false
  let ended : Bool := match g.phase with
    | .ended | .parked .ended _ => true
    | _ => false
  wordN (g.shape.bits + g.savedResume.kind * 2 ^ 24 + parked.toNat * 2 ^ 28 + hold.toNat * 2 ^ 29 + ended.toNat * 2 ^ 30 +
    g.prep.isSome.toNat * 2 ^ 31 + g.entrySize / 65536 * 2 ^ 32)

/-- The ticket of a ring operand. -/
def MOpnd.ticket : MOpnd → Nat
  | .ring _ t => t
  | _ => 0

/-- A matrix command of the image (21 R386). -/
def MatCmd.image (c : MatCmd) : List Word :=
  let t : Nat × Nat := match c.op with
    | .mma _ _ _ _ a b _ => (a.ticket, b.ticket)
    | _ => (0, 0)
  [c.tag.word, c.tag.tl, c.tag.tr, c.tag.tt, wordN (t.1 + t.2 * 2 ^ 32), 0]

/-- The mask of the 64 pieces after the first that is not complete. -/
def CpyCmd.mask (c : CpyCmd) : Nat :=
  sumN ((List.range 64).map fun i => if c.done.contains (c.first + 1 + i) then 2 ^ i else 0)

/-- A copy of the image (21 R386). -/
def CpyCmd.image (c : CpyCmd) : List Word :=
  let d := bytesWords 4 (c.desc ++ List.replicate (32 - c.desc.length) 0)
  let t : Nat := match c.dst with
    | .ring _ t => t
    | _ => 0
  [c.tag.word, c.tag.tl, c.tag.tr, c.tag.tt] ++ d ++ [wordN (t + c.first * 2 ^ 32), wordN c.mask, 0, 0]

/-- A ring's descriptor in the image (21 R385). -/
def Ring.image (r : Ring) : List Word :=
  [wordN (r.tail + r.head * 2 ^ 16 + r.rel * 2 ^ 32), wordN (r.base + (r.entry / 64 - 1) * 2 ^ 32 + r.c * 2 ^ 42)]

/-- The code of a presence. -/
def Presence.code : Presence → Nat
  | .empty => 0 | .filling => 1 | .present => 2 | .consumed => 3

/-- A ring's presence in the image. -/
def Ring.presBytes (r : Ring) : List Byte := (chop 4 ((r.pres.length + 3) / 4) r.pres).map fun l =>
  BitVec.ofNat 8 (sumN (((List.range l.length).zip l).map fun x => x.2.code * 2 ^ (2 * x.1)))

/-- A stream register in the image. -/
def Group.streamImage (g : Group) (r : Nat) : List Word :=
  match g.s.getD r none with
  | none => [0, 0, 0, 0]
  | some st => [g.sstWord r, wordN st.fm, st.tl, st.tr]

/-- The preparation in the image. -/
def Prep.image (q : Prep) : List Word :=
  [q.desc, wordN (q.binds.length - 1)] ++ q.binds.flatMap fun b => [b.1, b.2]

/-- The header part of a group's entry. -/
def State.entryHead (s : State) (g : Group) : List Piece :=
  [atWords 0 [s.placeWord g, g.task, g.savedResume.addr, g.statusWord],
    atWords 0x20 [g.count, g.fpflags, g.fptrap, g.seed, g.cause, g.faultva],
    atWords 0x50 [wordN (g.link.length + g.mq.length * 2 ^ 8 + g.cq.length * 2 ^ 16)],
    atWords 0x100 g.link.reverse, atWords 0x180 g.x,
    (0x280, g.p.map fun l => BitVec.ofNat 8 (sumN ((List.range 8).map fun i => if laneGet l i then 2 ^ i else 0))),
    (0x300, g.k.flatMap fun l => (List.range 8).flatMap fun i => bytesOf (laneGet l i).toNat 16)]

/-- The part of rings, streams and commands of a group's entry. -/
def Group.entryQueues (g : Group) : List Piece :=
  ((List.range 8).flatMap fun q => match g.q.getD q none with
    | some r => [atWords (0x700 + 16 * q) r.image, (0x780 + 64 * q, r.presBytes)]
    | none => []) ++
  ((List.range 8).map fun r => atWords (0x980 + 32 * r) (g.streamImage r)) ++
  [atWords 0xA80 (g.mq.flatMap MatCmd.image), atWords 0x1080 (g.cq.flatMap CpyCmd.image),
    atWords 0x1C80 (match g.prep with
      | some q => q.image
      | none => [])]

/-- The large part of a group's entry: vectors, windows, accumulators, stream elements. -/
def Group.entryData (g : Group) : List Piece :=
  [(0x8000, g.v.flatMap fun l => (List.range 8).flatMap fun i => bytesOf (laneGet l i).toNat 128),
    (0x10000, g.win.flatMap fun w => w.cells.read 0 65536),
    (0x10000 * (1 + g.shape.windows), g.acc.flatMap fun a => a.cells.read 0 65536),
    (0x10000 * (1 + g.shape.windows + g.shape.acc), g.savedElems)]

/-- The entries of groups from an offset. Log 81 (DESIGN CHOICE). -/
def State.entries (s : State) : Nat → List Group → List Piece
  | _, [] => []
  | o, g :: gs =>
    ((s.entryHead g ++ g.entryQueues ++ g.entryData).map fun p => (o + p.1, p.2)) ++ s.entries (o + g.entrySize) gs

/-- Bytes of the area that a save uses. -/
def savedSize (gs : List Group) : Nat := 65536 + sumN (gs.map Group.entrySize)

/-- The kind code of a cut. -/
def CutKind.code : CutKind → Nat
  | .preempt => 1 | .freeze => 2 | .podSwitch => 3

/-- The save header (21 R384). Log 86 (DEDUCED). -/
def State.saveHead (s : State) (x : Ctx) (gs : List Group) : List Piece :=
  [atWords 0 [wordN (1 + x.gen * 2 ^ 16 + x.slot * 2 ^ 32 + x.cut.code * 2 ^ 38), wordN x.cutAt, wordN s.cycle,
      wordN (gs.length + x.aborts.length * 2 ^ 16), wordN x.sent, wordN x.applied, if x.cut = .podSwitch then x.epoch else 0, wordN (savedSize gs)],
    atWords 0x100 (x.aborts.flatMap fun a => [wordN a.2.1, wordN (a.2.2 + a.1 * 2 ^ 16)])]

/-- Writes an image into an area of device space. -/
def State.putImage (s : State) (base size : Nat) (ps : List Piece) : State :=
  { s with
    mem := ps.foldl (fun (m : Cells) p => m.write (base + p.1) p.2) (s.mem.clear base size)
    poison := s.poison.filter fun g => !(decide (base ≤ g * 64) && decide (g * 64 + 64 ≤ base + size)) }

/-! ## SAVE_COMPLETE (21 R377, R378, R383) -/

/-- A stream register as the save holds it (21 R381): a memory input starts again after the last element delivered. -/
def Stream.saved (st : Stream) : Stream :=
  match st.src, st.out with
  | .mem _ _ _, false => { st with buf := [], fetched := st.moved, part := [] }
  | _, _ => st

/-- A group as the save holds it (21 R381, R382; 14 R268). -/
def Group.saved (g : Group) : Group :=
  { g with
    reserve := []
    s := g.s.map fun st => st.map Stream.saved
    prep := g.prep.map fun q => { q with staged := q.staged.map fun _ => {}, landed := q.landed.map fun _ => false } }

/-- The groups of a context leave their slots for the save. -/
def State.takeGroups (s : State) (c : Nat) (gs : List Group) : State :=
  let s := gs.foldl (fun s g => s.giveFrames c g.reserve) s
  let s := s.setCtx c fun x => { x with
    savedGroups := gs.map Group.saved
    slotLog := (gs.map fun g => (g.boundAt, s.cycle)) ++ x.slotLog.filter fun y => decide (s.cycle < y.2 + slotWindow) }
  { s with groups := s.groups.filter fun g => g.ctx != c }

/-- A retired site's logical tile is mapped to a spare once it serves no group, or the host is told (14 R275). Log 88 (DEDUCED); 132 (DESIGN CHOICE). -/
def State.remapTile (s : State) (die tile : Nat) : State :=
  if s.spares.contains (die * 64 + tile, noSite) || !s.siteRetired die (s.siteNow die tile) || !(s.onTile die tile).isEmpty then s
  else
    let used := (List.range 56).map fun t => s.siteNow die t
    let fits (x : Nat) : Bool := (decide (x < 42) == isMTile tile) && !used.contains x && !s.siteRetired die x
    let put (v : Nat) : State := { s with spares := (die * 64 + tile, v) :: s.spares.filter fun x => x.1 != die * 64 + tile }
    match (spareSites die).find? fits with
    | some x => put x
    | none => (put noSite).notifyCause none 0x183 0 0

/-- Every tile whose site is retired. Log 88 (DEDUCED); 132 (DESIGN CHOICE). -/
def State.remap (s : State) : State :=
  if s.retired.isEmpty then s
  else [0, 1, 2, 3].foldl (fun s d => (List.range 56).foldl (fun s t => s.remapTile d t) s) s

/-- Steps 7 and 8 of a cut. Log 81 (DESIGN CHOICE). -/
def State.save (s : State) (c : Nat) (x : Ctx) : State :=
  let gs := s.ctxGroups c
  if x.saveSize < savedSize gs then s.saveFault c
  else
    let ps := s.saveHead x (gs.map Group.saved) ++ s.entries 65536 (gs.map Group.saved)
    let s := ((s.putImage x.saveBase (savedSize gs) ps).takeGroups c gs).setCtx c fun x => { x with st := .saved }
    let s := match x.cut with
      | .freeze => s.notifyCause (some c) 0x181 x.mapFault 0
      | _ => s.notifyCause (some c) 0x180 0 0
    (s.remap).answerAsked c 0

/-- SAVE_COMPLETE (21 R378); an abort that waits for a staging copy takes effect before the save (21 R373), and relay holds end in
it (18 R335). -/
def execSaveComplete (ctx : Nat) (s : State) : Out1 :=
  match s.ctx? ctx with
  | none => .next s
  | some x =>
    if x.st = .cutting ∧ s.cutSettled ctx = true then
      let s1 := (s.abortRein ctx).endHolds ctx
      match s1.ctx? ctx with
      | some y =>
        .next (if (s1.insts.any fun i => i.ctx == ctx && i.isLive) || s1.groups.any (fun g => g.ctx == ctx && g.holdMask.isSome) then s1
          else s1.save ctx y)
      | none => .next s1
    else .next s

/-! ## RESTORE_COMPLETE (21 R387) -/

/-- The header of a save area is that of its context, and no byte of the area used is poisoned. Log 81 (DESIGN CHOICE). -/
def State.imageOk (s : State) (x : Ctx) : Bool :=
  let w := ofBytes (s.mem.read x.saveBase 8)
  decide (w % 65536 = 1) && decide (w / 2 ^ 16 % 65536 = x.gen) && decide (w / 2 ^ 32 % 64 = x.slot) && decide (w / 2 ^ 38 % 4 ≠ 0) &&
    !(s.poison.any fun g => decide (x.saveBase ≤ g * 64) && decide (g * 64 < x.saveBase + savedSize x.savedGroups))

/-- Every slot and resource that saved groups need is free. -/
def State.restoreFits (s : State) (x : Ctx) : Bool :=
  let gs := x.savedGroups
  decide (72 * gs.length ≤ (s.freeFrames x.slot).length) &&
    gs.all fun g =>
      let mates := gs.filter fun h => h.place.die == g.place.die && h.place.tile == g.place.tile
      (s.group? g.place).isNone && !s.tileDead g.place.die g.place.tile &&
        decide (sumN (mates.map fun h => h.shape.acc + h.reservedAcc) ≤ s.accFree g.place.die g.place.tile) &&
        decide (s.edgeUse g.place.die g.place.tile +
          sumN (mates.map fun h => sumN (h.edges.map EdgeBuf.bytes)) ≤ edgePart g.place.tile)

/-- One saved group is bound again, with a reserve. Log 81 (DESIGN CHOICE). -/
def State.restoreOne (s : State) (g : Group) : State :=
  let free := s.freeFrames g.ctx
  let k := Config.choice s.fresh % free.length
  let got := (free.drop k ++ free.take k).take 72
  let s := s.setCtx g.ctx fun c => { c with frames := c.frames.filter fun f => !got.contains f }
  ({ s with groups := s.groups ++ [{ g with reserve := got, boundAt := s.cycle }] } : State).draw

/-- RESTORE_COMPLETE (21 R387): a context switch, at which retired tiles are remapped (00 R5). -/
def execRestoreComplete (ctx : Nat) (s : State) : Out1 :=
  match s.ctx? ctx with
  | none => .next s
  | some x =>
    if x.st ≠ .resuming then .next s
    else if !s.imageOk x then .next (s.saveFault ctx)
    else
      let s := s.remap
      if s.restoreFits x then
      let s := x.savedGroups.foldl State.restoreOne s.woken
      .next ((s.setCtx ctx fun x => { x with st := .live, savedGroups := [], aborts := [], watch := 0 }).answerAsked ctx 0)
    else .next s

/-! ## The drain of a pod switch (21 R389, R390) -/

/-- Messages sent less messages applied. -/
def Ctx.balance (x : Ctx) : Int := (x.sent : Int) - (x.applied : Int)

/-- A context's drain has a place of CD0's rein engines for its all-reduce, or takes one that is free; it keeps it until the
sum is 0 (21 R390). Log 87 (DEDUCED). -/
def State.drainPlace (s : State) (x : Ctx) : Option State :=
  if x.drain.isSome then some s
  else if s.inUse 0 < 32 then some (s.setCtx x.slot fun x => { x with drain := some (s.pickEngine 0) })
  else none

/-- DRAIN_REDUCTION_ROUND (21 R390): a round of the all-reduce, with what the other packages contribute. Log 87 (DEDUCED). -/
def execDrainReductionRound (ctx : Nat) (others : List Int) (s : State) : Out1 :=
  match s.ctx? ctx with
  | none => .next s
  | some x =>
    if x.st = .draining ∧ s.cutSettled ctx = true ∧ others.length + 1 = x.podPkgs.length then
      match (s.abortRein ctx).drainPlace x with
      | none => .next (s.abortRein ctx)
      | some t =>
        .next (if x.balance + others.foldl (· + ·) 0 = 0 then t.setCtx ctx fun x => { x with st := .cutting, drain := none } else t)
    else .next s

/-! ## The stall watchdog (17 R322, R323) -/

/-- The watchdog timer of a context runs: the context has a handler, or no group of it is parked. -/
def State.timerRuns (s : State) (x : Ctx) : Bool :=
  decide (x.handlerDesc ≠ 0) || !(s.groups.any fun g => g.ctx == x.slot && (match g.phase with
    | .parked _ _ => true
    | _ => false))

/-- Work remains in a context. -/
def State.workRemains (s : State) (c : Nat) : Bool :=
  (s.groups.any fun g => g.ctx == c) || s.recs.any fun r => r.ctx == c && r.retained.isNone && decide (r.state ≤ 5)

/-- Cycles of `sr.cycle` in a microsecond (12 R254). -/
def usCycles : Nat := 4000

/-- STALL_WATCHDOG_EXPIRY (17 R323). Log 12 (DESIGN CHOICE). -/
def execStallWatchdogExpiry (ctx : Nat) (s : State) : Out1 :=
  match s.ctx? ctx with
  | none => .next s
  | some x =>
    if x.st = .live ∧ x.stall ≠ 0 ∧ x.stall * usCycles ≤ x.watch ∧ s.workRemains ctx = true ∧ s.timerRuns x = true ∧
        s.mapBlocked x = false then
      let r := s.writeMap x
      .next ((r.1.setCtx ctx fun x => { x with
        mapFault := r.2, counters := { x.counters with freezes := x.counters.freezes + 1 } }).beginCut ctx .cutting .freeze)
    else .next s

end Sys2Proof.Machine
end

