-- ==== Sys2Proof/Machine/Errors.lean ====
section
/-!
DEFINITION. Machine/Errors.lean: physical errors: poison, errors in a group's state, error counts and retirement
(14 R272 to R275; 22 R409).
-/
namespace Sys2Proof.Machine

/-! ## Units (22 R409) -/

/-- Kind of a unit selector. -/
def uKind (u : Word) : Nat := bitsN u 0 4
/-- Die of a unit selector. -/
def uDie (u : Word) : Nat := bitsN u 8 2
/-- Index of a unit selector. -/
def uIndex (u : Word) : Nat := bitsN u 16 32

/-- A selector that names a unit. -/
def unitOk (u : Word) : Bool :=
  decide (bitsN u 4 4 = 0) && decide (bitsN u 10 6 = 0) && decide (bitsN u 48 16 = 0) &&
    (match uKind u with
      | 0 => decide (uIndex u % 64 ≤ 58) && decide (bitsN u 22 2 = 0) && decide (bitsN u 24 3 ≤ 4) && decide (bitsN u 27 21 = 0)
      | 1 | 2 => decide (uIndex u < 16)
      | 3 => decide (uDie u = 0)
      | 4 => decide (uDie u = 0) && decide (uIndex u < 10)
      | 5 => decide (uDie u = 0) && decide (uIndex u < 16)
      | _ => false)

/-! ## Counts (14 R274) -/

/-- The window of 600 seconds in cycles of `sr.cycle` (12 R254). Log 12 (DESIGN CHOICE). -/
def errWindow : Nat := 600 * 4000000000

/-- The hits of a list that lie in the window. -/
def hitsNow (cycle : Nat) (l : List (Nat × Nat)) : List (Nat × Nat) := l.filter fun h => decide (cycle < h.1 + errWindow)

/-- The hits of a unit. -/
def State.hitsOf (s : State) (u : Word) : List (Nat × Nat) :=
  match s.errs.find? fun e => e.unit == u with
  | some e => e.hits
  | none => []

/-- The count of a unit within the window. -/
def State.errCount (s : State) (u : Word) : Nat := sumN ((hitsNow s.cycle (s.hitsOf u)).map Prod.snd)

/-- Replaces the hits of a unit. -/
def State.setHits (s : State) (u : Word) (l : List (Nat × Nat)) : State :=
  { s with errs := (if l.isEmpty then [] else [⟨u, l⟩]) ++ s.errs.filter fun e => e.unit != u }

/-- A row's frames leave every pool (14 R275). Log 79 (DEDUCED). -/
def State.dropRow (s : State) (u : Word) : State :=
  let bad (f : Nat) : Bool := s.rowHolds u f
  { s with
    ctxs := s.ctxs.map fun c => { c with frames := c.frames.filter fun f => !bad f }
    groups := s.groups.map fun g => { g with reserve := g.reserve.filter fun f => !bad f } }

/-- A unit is retired (14 R275): a tile keeps its number until the next context switch (00 R5), a task-memory macro's free
records are no longer handed out, a row's frames leave the pools. -/
def State.retireUnit (s : State) (u : Word) : State :=
  if s.retired.contains u then s
  else
    let s := { s with retired := u :: s.retired }
    match uKind u with
    | 3 => s.dropRow u
    | _ => s

/-- Errors of a weight are counted at a unit, which is retired at 4 (14 R274). -/
def State.countError (s : State) (unit : Word) (k : Nat) : State :=
  if !unitOk unit then s
  else
    let s := s.setHits unit ((s.cycle, k) :: hitsNow s.cycle (s.hitsOf unit))
    if 4 ≤ s.errCount unit then s.retireUnit unit else s

/-- An uncorrectable error in a unit, or in none. -/
def State.lasting (s : State) (unit : Option Word) : State :=
  match unit with
  | some u => s.countError u 4
  | none => s

/-! ## Poison (14 R272) -/

/-- A place lies in a unit: in an HBM row where that is of its stack and holds its frame (10 R211). Log 107 (DESIGN CHOICE). -/
def State.liesIn (s : State) (u : Word) : PoisonAt → Bool
  | .phys g => decide (uKind u ≠ 3) || (s.rowHolds u (g / 1024) && decide (stackOf (g * 64) = bitsN u 16 3))
  | _ => decide (uKind u ≠ 3)

/-- POISON_ERROR (14 R272): an uncorrectable error, which counts as 4 at the unit it lies in, if that is one (14 R274). -/
def execPoisonError (loc : PoisonHit) (s : State) : Out1 :=
  if loc.unit.any fun u => !s.liesIn u loc.place then .next s
  else
    let s := s.lasting loc.unit
    match loc.place with
    | .phys g => .next (if g * 64 < 2 ^ 52 then s.taint [g] else s)
    | .copy die g => .next { s with foreign := s.foreign.map fun f =>
        if f.die = die ∧ f.line = g / 2 then { f with bad := poisonAdd f.bad [g] } else f }
    | .scratch p w g =>
      .next (if g < 1024 then s.setGroup p fun x => { x with win := updAt x.win w fun y => { y with poison := poisonAdd y.poison [g] } }
        else s)

/-! ## Group state (14 R273) -/

/-- The report of an error in a group's committed state (14 R273, R407). -/
def stateReport (blk : Word) : Report := ⟨0x184, 0, 0, .none, blk, 0x3F, 32⟩

/-- UNCORRECTABLE_GROUP_STATE (14 R273): the state of a block that has not committed runs again; committed state traps the
group with 0x184, at its boundary where it stands elsewhere. It counts as 4 at its unit (14 R274). -/
def execUncorrectableGroupState (p : Place) (hit : StateHit) (s : State) : Out1 :=
  let s := s.lasting hit.unit
  match s.group? p with
  | none => .next s
  | some g =>
    if !hit.committed then .next (if g.run.isSome then (s.discard p).endTurn p else s)
    else
      match g.phase with
      | .running | .touching .. =>
        .next (((s.discard p).takeTrap p { cause := 0x184, blk := g.blockAddr } (.rerun g.blockAddr)).endTurn p)
      | _ => .next ((s.setGroup p fun g => { g with reports := g.reports ++ [stateReport g.blockAddr] }).parkReport p)

/-- CORRECTED_ERROR (14 R274): a unit counts an error, and is retired at 4. -/
def execCorrectedError (unit : Word) (uncorrectable : Bool) (s : State) : Out1 :=
  .next (s.countError unit (if uncorrectable then 4 else 1))

/-- ERROR_WINDOW_EXPIRY (14 R274): errors older than the window no longer count. -/
def execErrorWindowExpiry (unit : Word) (s : State) : Out1 :=
  .next (s.setHits unit (hitsNow s.cycle (s.hitsOf unit)))

end Sys2Proof.Machine
end

