-- ==== Sys2Proof/Machine/Bridle.lean ====
section
/-!
DEFINITION. Machine/Bridle.lean: Bridle's frame: the queues, the checks of a header, and the commands of the control queue
(22 R392 to R396, R399, R400; 21 R377, R390).
-/
namespace Sys2Proof.Machine

/-! ## Headers (22 R392, R393) -/

/-- The commands of the control queue. -/
def isControl (op : Nat) : Bool := [0x01, 0x02, 0x03, 0x04, 0x05, 0x06, 0x0F, 0x10, 0x11, 0x13, 0x14].contains op

/-- Control commands that name a context. -/
def namesCtx (op : Nat) : Bool := [0x03, 0x04, 0x05, 0x06].contains op

/-- Words that a command's payload needs at least (22 R394, R397, R399, R400). Log 92 (DEDUCED). -/
def payloadWords (op : Nat) : Nat :=
  match op with
  | 0x01 => 2 | 0x02 => 16 | 0x06 => 17 | 0x07 => 2 | 0x08 => 3 | 0x09 => 2 | 0x0A => 2 | 0x0B => 2 | 0x0D => 1 | 0x0E => 4
  | 0x0F => 1 | 0x10 => 2 | 0x11 => 5 | 0x12 => 34 | 0x13 => 1 | 0x14 => 17 | 0x15 => 3 | 0x16 => 1 | 0x17 => 4
  | _ => 0

/-- A well-formed header and a payload of the command's length. Log 92 (DEDUCED). -/
def headerOk (m : BridleMsg) : Bool :=
  decide (bitsN m.h0 26 6 = 0) && decide (mQueue m < 256) && decide (mLen m ≤ 160) && decide (mLen m ≤ m.payload.length) &&
    decide (payloadWords (mOp m) ≤ mLen m) && decide (bitsN m.h2 6 10 = 0) && decide (bitsN m.h2 32 32 = 0) && decide (m.h3 = 0)

/-- The status that a command on a bound queue gets before it is looked at: 6 while there is no session, then 5, 6, 3, 1. Log 90 (DEDUCED); 151 (DESIGN CHOICE). -/
def State.screen (s : State) (m : BridleMsg) : Option Nat :=
  let op := mOp m
  let n := mQueue m
  match s.sessionStatus m with
  | some st => some st
  | none =>
    if !headerOk m then some 3
    else if isControl op ≠ decide (n = 0) then some 3
    else if !isControl op && (match s.queue? n with
        | some q => q.ctx != some (mCtx m)
        | none => true) then some 3
    else if (!isControl op || namesCtx op) && decide (mGen m ≠ s.genOf (mCtx m)) then some 1
    else none

/-- The status of a command on a queue that is not bound. Log 90 (DEDUCED). -/
def State.unboundStatus (s : State) (m : BridleMsg) : Nat := (s.sessionStatus m).getD 3

/-- What a stale command counts (17 R321): a Signal its units, a Launch one. -/
def State.countStale (s : State) (m : BridleMsg) : State :=
  match mOp m with
  | 0x08 => s.setCtx (mCtx m) fun c => { c with counters := { c.counters with dropLaunch := c.counters.dropLaunch + 1 } }
  | 0x09 => s.countDrop (s.tagOf (mCtx m)) (bitsN (mW m 1) 0 16 + 1)
  | _ => s

/-! ## Sequence (22 R395) -/

/-- A command begins: its queue records its endpoint. -/
def State.beginCmd (s : State) (m : BridleMsg) : State :=
  (s.setQueue (mQueue m) fun q => { q with go := none, doing := some m }).setEndpoint (mQueue m) m.ip m.port

/-- A command that has begun waits for a lease or a page's change to end, and begins again then. Log 85 (DEDUCED); 96 (DEDUCED). -/
def State.defer (s : State) (m : BridleMsg) (i : Instr) : State :=
  { (s.setQueue (mQueue m) fun q => { q with go := some (mSeq m), doing := none }) with later := s.later ++ [i] }

/-- A command that may begin: refused by its header, or performed. Log 90 (DEDUCED). -/
def State.startCmd (s : State) (m : BridleMsg) (k : State → State) : State :=
  let s := s.beginCmd m
  match s.screen m with
  | some 1 => (s.countStale m).finishCmd m 1 []
  | some st => s.finishCmd m st []
  | none => k s

/-- A message of a queue: a command let go on begins, as a step of the device's own; the next in sequence is accepted; a lower number gets its stored
completion; a higher one is dropped (22 R395). `op` says that the message carries the step's opcode. Log 89 (DEDUCED). -/
def State.bridle (s : State) (m : BridleMsg) (op : Bool) (i : Instr) (k : State → State) : Out1 :=
  if !op then .next s
  else
    let s := s.woken
    let n := mQueue m
    match s.queue? n with
    | none => .next (s.sendDone m (s.unboundStatus m) [])
    | some q =>
      if q.go = some (mSeq m) ∧ s.turn = .own then .next (s.startCmd m k)
      else if mSeq m < q.next then
        match q.stored.find? fun x => x.1 == mSeq m with
        | some x => .next { s with outbox := s.outbox ++ [.completion n m.h1 m.h2 x.2 m.ip m.port] }
        | none => .next s
      else if q.next < mSeq m then .next s
      else .next ((s.setQueue n fun q => { q with next := q.next + 1, waiting := q.waiting ++ [i] }).pump n)

/-- GATED_COMMAND_START (22 R395): the gated command at the head of a queue takes a token. -/
def execGatedCommandStart (queue : Nat) (s : State) : Out1 :=
  match s.queue? queue, s.linkOf queue with
  | some q, some l =>
    match q.waiting with
    | i :: rest =>
      match msgOf i with
      | some m =>
        if mGated m = true ∧ q.doing = none ∧ q.go = none ∧ l.tokens ≠ 0 then
          .next { (s.setQueue queue fun q => { q with waiting := rest, go := some (mSeq m) }) with
            links := s.links.map fun x => if x.c = queue then { x with tokens := x.tokens - 1 } else x
            agenda := s.agenda ++ [i] }
        else .next s
      | none => .next s
    | [] => .next s
  | _, _ => .next s

/-- UNKNOWN_OPCODE (22 R393). -/
def execUnknownOpcode (m : BridleMsg) (s : State) : Out1 :=
  s.bridle m (!isOpcode (mOp m)) (.unknownOpcode m) fun s => s.finishCmd m 5 []

/-! ## Hello (22 R396) -/

/-- The features of this device; version 1 has neither link queues nor pod switch. -/
def featuresOf (ver : Nat) : Word := if ver < 2 then 0xC else 0xF

/-- HELLO (22 R395, R396): never sequenced; queue 0 starts anew, without the completions of the session before. Log 91 (DEDUCED). -/
def State.hello (s : State) (m : BridleMsg) : State :=
  let w0 := mW m 0
  let w1 := mW m 1
  let top := if bitsN w0 16 16 < 2 then bitsN w0 16 16 else 2
  if !headerOk m || mGated m || decide (mQueue m ≠ 0) || decide (bitsN w0 32 32 ≠ 0) || decide (bitsN w1 4 60 ≠ 0) then
    s.sendDone m 3 []
  else if top < bitsN w0 0 16 ∨ top = 0 then { s.sendDone m 6 [] with session := none }
  else
    let both := w1 &&& featuresOf top
    let s := { s with session := some top, features := both }
    (s.setQueue 0 fun q => { q with
      next := 1, stored := []
      past := (q.waiting.filterMap fun i => (msgOf i).map mSeq) ++ q.go.toList ++ (q.doing.map mSeq).toList }).sendDone m 0
      [wordN top, both]

/-- HELLO (22 R396). -/
def execHello (m : BridleMsg) (s : State) : Out1 :=
  if mOp m ≠ 0x01 then .next s else .next ((s.woken.setEndpoint 0 m.ip m.port).hello m)

/-! ## Create context (22 R394; 12 R243; 14 R268, R279; 22 R402) -/

/-- A frame of a tier that no pool holds and no retirement has taken. -/
def State.frameFree (s : State) (tier f : Nat) : Bool :=
  decide (f / 2 ^ 26 = s.pkgNum) && !locDev (paLoc (f * 65536)) && locPopulated (paLoc (f * 65536)) &&
    decide ((frameSpot f).1 = tier) && !s.frameRetired f && !s.ctxs.any fun c => c.pool.contains f

/-- The frame a tier's free frames are looked for at after `k` others: its dies or ports in turn. Log 78 (DESIGN CHOICE). -/
def State.poolCand (s : State) (tier k : Nat) : Nat :=
  s.pkgNum * 2 ^ 26 + (if tier = 0 then k % 4 * 2 ^ 21 else 2 ^ 24 + k % 4 * 0xC00000) + k / 4

/-- The first `n` free frames of a tier among its candidates `k`, `k + 1` and so on. -/
def State.poolSearch (s : State) (tier : Nat) : Nat → Nat → Nat → List Nat
  | 0, _, _ => []
  | _, _, 0 => []
  | fuel + 1, k, n + 1 =>
    if s.frameFree tier (s.poolCand tier k) then s.poolCand tier k :: s.poolSearch tier fuel (k + 1) n
    else s.poolSearch tier fuel (k + 1) (n + 1)

/-- Frames of a tier for a pool: those of a list, if it names as many free ones, else the first that are free. Log 78 (DESIGN CHOICE). -/
def State.poolFrames (s : State) (tier n : Nat) (named : List Nat) : List Nat :=
  let good := (named.filter (s.frameFree tier)).eraseDups
  if n ≤ good.length then good.take n
  else s.poolSearch tier (if tier = 0 then 2 ^ 23 else 3 * 2 ^ 24) 0 n

/-- The limits of a Create payload (22 R394). -/
def createBad (w : Nat → Word) : Bool :=
  decide (bitsN (w 0) 6 2 ≠ 0) || decide (bitsN (w 0) 8 8 = 0) || decide (bitsN (w 0) 16 8 = 0) ||
    decide (bitsN (w 0) 24 8 < bitsN (w 0) 16 8) || decide ((w 1).toNat % 65536 ≠ 0) || decide ((w 2).toNat % 65536 ≠ 0) ||
    decide (2 ^ 40 < (w 2).toNat) || decide ((w 1).toNat < 65536 ∧ w 2 ≠ 0) || decide (2 ^ 56 < (w 1).toNat + (w 2).toNat) ||
    decide (bitsN (w 4) 0 6 ≠ 0) || decide (bitsN (w 4) 56 8 ≠ 0) || decide ((w 5).toNat < 6) || decide (16 < (w 5).toNat) ||
    decide (bitsN (w 6) 0 6 ≠ 0) || decide (bitsN (w 6) 56 8 ≠ 0) || decide (bitsN (w 7) 32 32 ≠ 0) ||
    decide (bitsN (w 8) 0 6 ≠ 0) || decide (bitsN (w 8) 56 8 ≠ 0) || decide ((w 9).toNat < 64) || decide ((w 9).toNat % 64 ≠ 0) ||
    decide ((w 11).toNat % 65536 ≠ 0) || decide (bitsN (w 12) 32 32 ≠ 0) || decide (bitsN (w 13) 11 53 ≠ 0) ||
    decide (bitsN (w 14) 0 4 ≠ 0) || decide (bitsN (w 14) 56 8 ≠ 0) || decide (256 < (w 15).toNat)

/-- A save area of device space of this package. -/
def State.saveOk (s : State) (base size : Nat) : Bool :=
  decide (base % 65536 = 0) && decide (base / 2 ^ 42 = s.pkgNum) && decide (0x8000000000 ≤ base % 2 ^ 42) &&
    decide (base % 2 ^ 42 + size ≤ 0x10000000000)

/-- A queue of a range is bound. -/
def State.queueTaken (s : State) (a b : Nat) : Bool := s.queues.any fun q => decide (a ≤ q.num) && decide (q.num ≤ b)

/-- The durable ranges of a list's words, or none where an entry breaks its limits or overlaps another; one of length 0 is an empty
range (22 R402). Log 93 (DEDUCED). -/
def durableOf : List Word → List (Nat × Nat) → Option (List (Nat × Nat))
  | b :: n :: ws, done =>
    let x := b.toNat
    let k := n.toNat
    if x % 65536 ≠ 0 ∨ k % 65536 ≠ 0 ∨ (done.any fun d => decide (max x d.1 < min (x + k) (d.1 + d.2))) = true then none
    else durableOf ws (done ++ [(x, k)])
  | _, done => some done

/-- The heap's leaves (12 R243): reserved, Touch, R and W, placed on die (page number mod 4). -/
def Ctx.heapLeaves (c : Ctx) (pkg : Nat) : Ctx :=
  (List.range (c.heapSize / 65536)).foldl (fun c i =>
    let page := c.heapBase / 65536 + i
    c.setLeaf (page * 65536) .k64
      (wordN (2 + 1 * 2 ^ 2 + 2 ^ 6 + 2 ^ 7 + 2 ^ 9 + (pkg * 2 ^ 26 + page % 4 * 2 ^ 21) * 2 ^ 16))) c

/-- A context of its Create payload. -/
def State.newCtx (s : State) (w : Nat → Word) (payload : List Word) (pool : List Nat) (handlerRec : Option Nat) : Ctx :=
  let slot := bitsN (w 0) 0 6
  Ctx.heapLeaves
    { slot := slot, gen := s.genOf slot, st := .live, tag := bitsN (w 0) 32 32, weight := bitsN (w 0) 8 8
      q0 := bitsN (w 0) 16 8, q1 := bitsN (w 0) 24 8, heapBase := (w 1).toNat, heapSize := (w 2).toNat
      tqBase := (w 4).toNat, tqS := (w 5).toNat, handlerDesc := (w 6).toNat, stall := (w 7).toNat, mapBase := (w 8).toNat
      mapSize := (w 9).toNat, saveBase := (w 10).toNat, saveSize := (w 11).toNat, cap := (w 12).toNat
      buddy := bitsN (w 13) 0 10, noBuddy := bitN (w 13) 10, durable := [], payload := payload
      pte := [], pool := pool, frames := pool, allocs := [], pageCmds := [], invals := [], migs := [], templates := [], ginsts := []
      counters := {}, tail := 0, overflows := 0, spell := false, held := [], handlerRec := handlerRec, handlerLive := false
      tried := 0, slotLog := [], watch := 0, sent := 0, applied := 0, cut := .preempt, drain := none, cutAt := 0, mapFault := 0, epoch := 0
      podPkgs := [], savedGroups := [], waits := [], aborts := [], asked := false } s.pkgNum

/-- Binds the queues of a context. -/
def State.bindQueues (s : State) (c a b : Nat) : State :=
  { s with queues := s.queues ++ (List.range (b + 1 - a)).map fun i =>
      ⟨a + i, some c, 1, [], none, 0, [], [], none, none, []⟩ }

/-- The durable ranges of a new context: read once from its memory. Log 93 (DEDUCED). -/
def State.readDurable (s : State) (c addr n : Nat) : Except Nat (List (Nat × Nat) × State) :=
  if addr = 0 ∨ n = 0 then .ok ([], s)
  else match s.ctxRead none c addr (16 * n) .load true with
    | .error _ => .error 7
    | .ok (bs, s') =>
      match durableOf (bytesWords (2 * n) bs) [] with
      | some l => .ok (l, s')
      | none => .error 3

/-- CREATE_CONTEXT's effect (22 R394). -/
def State.create (s : State) (m : BridleMsg) (named : List Nat) : State :=
  let w := mW m
  let slot := bitsN (w 0) 0 6
  let n0 := bitsN (w 3) 0 32
  let n1 := bitsN (w 3) 32 32
  if (s.ctx? slot).isSome then s.finishCmd m 2 []
  else if createBad w || !s.saveOk (w 10).toNat (w 11).toNat || s.queueTaken (bitsN (w 0) 16 8) (bitsN (w 0) 24 8) then
    s.finishCmd m 3 []
  else
    let pool := s.poolFrames 0 n0 named ++ s.poolFrames 1 n1 named
    let rec' : Option Nat := s.takeRec 0 slot []
    if pool.length < n0 + n1 ∨ (w 6 ≠ 0 ∧ rec' = none) then s.finishCmd m 4 []
    else
      let hr := if w 6 = 0 then none else rec'
      let x := s.newCtx w (m.payload.take 16) pool hr
      let s1 : State := { s with
        ctxs := s.ctxs ++ [x]
        recs := s.recs.filter fun r => !(r.die == 0 && hr == some r.idx)
        fresh := s.fresh + 1 }
      match s1.readDurable slot (w 14).toNat (w 15).toNat with
      | .error st => s.finishCmd m st []
      | .ok (l, s2) =>
        ((s2.setCtx slot fun x => { x with durable := l }).bindQueues slot x.q0 x.q1).finishCmd m 0 [wordN x.gen]

/-- CREATE_CONTEXT (22 R394). -/
def execCreateContext (m : BridleMsg) (frames : List Nat) (s : State) : Out1 :=
  s.bridle m (decide (mOp m = 0x02)) (.createContext m frames) fun s => s.create m frames

/-! ## Tear down, pre-empt, resume, pod switch (21 R377, R388, R390) -/

/-- TEAR_DOWN (21 R388): the context stops at once, and the command completes once its work is done. -/
def execTearDown (m : BridleMsg) (s : State) : Out1 :=
  s.bridle m (decide (mOp m = 0x03)) (.tearDown m) fun s =>
    match s.ctx? (mCtx m) with
    | none => s.finishCmd m 2 []
    | some _ =>
      match s.tearDown (mCtx m) none with
      | some s' => s'.finishCmd m 0 []
      | none => (s.stopCtx (mCtx m)).defer m (.tearDown m)

/-- PRE_EMPT (21 R377): completes once the context is saved. -/
def execPreEmpt (m : BridleMsg) (s : State) : Out1 :=
  s.bridle m (decide (mOp m = 0x04)) (.preEmpt m) fun s =>
    match s.ctx? (mCtx m) with
    | none => s.finishCmd m 2 []
    | some x =>
      match x.st with
      | .live => (s.setCtx x.slot fun x => { x with asked := true }).beginCut x.slot .cutting .preempt
      | .saved => s.finishCmd m 0 []
      | _ => s.finishCmd m 2 []

/-- RESUME (21 R377): completes once the context is live. -/
def execResume (m : BridleMsg) (s : State) : Out1 :=
  s.bridle m (decide (mOp m = 0x05)) (.resume m) fun s =>
    match s.ctx? (mCtx m) with
    | none => s.finishCmd m 2 []
    | some x =>
      match x.st with
      | .saved => s.setCtx x.slot fun x => { x with st := .resuming, asked := true }
      | _ => s.finishCmd m 2 []

/-- The packages of a bitmap of 16 words (22 R400). -/
def bitmapPkgs (w : Nat → Word) : List Nat := (List.range 1024).filter fun p => bitN (w (p / 64)) (p % 64)

/-- POD_SWITCH (21 R390): completes once this package has saved. Log 86 (DEDUCED). -/
def execPodSwitch (m : BridleMsg) (s : State) : Out1 :=
  s.bridle m (decide (mOp m = 0x06)) (.podSwitch m) fun s =>
    match s.ctx? (mCtx m) with
    | none => s.finishCmd m 2 []
    | some x =>
      match x.st with
      | .live =>
        (s.setCtx x.slot fun x => { x with
          asked := true, epoch := mW m 0, podPkgs := bitmapPkgs fun i => mW m (i + 1) }).beginCut x.slot .draining .podSwitch
      | .saved => s.finishCmd m 0 []
      | _ => s.finishCmd m 2 []

/-! ## Power tolerance, health, package (22 R393, R400, R403; 14 R274) -/

/-- POWER_TOLERANCE (22 R403). -/
def execPowerTolerance (m : BridleMsg) (s : State) : Out1 :=
  s.bridle m (decide (mOp m = 0x0F)) (.powerTolerance m) fun s =>
    ({ s with tolerance := bitsN (mW m 0) 0 32 } : State).finishCmd m 0 []

/-- HEALTH (22 R393, R409). -/
def execHealth (m : BridleMsg) (s : State) : Out1 :=
  s.bridle m (decide (mOp m = 0x13)) (.health m) fun s =>
    let u := mW m 0
    if unitOk u then s.finishCmd m 0 [wordN (s.errCount u), wordN (s.retired.contains u).toNat] else s.finishCmd m 3 []

/-- The package takes a number: its own memory's addresses carry it from now on. Log 94 (DESIGN CHOICE). -/
def State.renumber (s : State) (new : Nat) : State :=
  let old := s.pkgNum
  let s := s.releaseAll
  let mine := s.mem.filter fun c => decide (paPkg c.1 = old)
  let rest := s.mem.filter fun c => decide (paPkg c.1 ≠ old) && decide (paPkg c.1 ≠ new)
  let gran (g : Nat) : Bool := decide (paPkg (g * 64) = old)
  { s with
    pkgNum := new
    mem := mine.foldl (fun (m : Cells) c => m.put (new * 2 ^ 42 + paLoc c.1) c.2) rest
    poison := (s.poison.filter fun g => decide (paPkg (g * 64) ≠ new) || gran g).map fun g =>
      if gran g then (new * 2 ^ 42 + paLoc (g * 64)) / 64 else g
    exports := s.exports.map fun x =>
      if paPkg (x.2 * 65536) = old then (x.1, (new * 2 ^ 42 + paLoc (x.2 * 65536)) / 65536) else x
    foreign := [] }

/-- CONFIGURE_PACKAGE (22 R400). Log 94 (DESIGN CHOICE). -/
def execConfigurePackage (m : BridleMsg) (s : State) : Out1 :=
  s.bridle m (decide (mOp m = 0x14)) (.configurePackage m) fun s =>
    let n := bitsN (mW m 0) 0 10
    let pkgs := bitmapPkgs fun i => mW m (i + 1)
    if !s.ctxs.isEmpty then s.finishCmd m 2 []
    else if bitsN (mW m 0) 10 54 ≠ 0 ∨ pkgs.contains n = false then s.finishCmd m 3 []
    else ({ s.renumber n with pod := pkgs, failedPkgs := [] } : State).finishCmd m 0 []

/-! ## Firmware (22 R404) -/

/-- A field of bytes. -/
def slice (l : List Byte) (a n : Nat) : List Byte := (l.drop a).take n

/-- The image that the pieces make, where it passes the checks of R404. -/
def firmwareOf (bs : List Byte) : Option Firmware :=
  let w0 := ofBytes (slice bs 0 8)
  let n := w0 / 2 ^ 16 % 2 ^ 32
  let ver := ofBytes (slice bs 8 4)
  let key := slice bs 16 1312
  let body := bs.drop 3776
  if w0 % 65536 = 1 ∧ w0 / 2 ^ 48 = 0 ∧ n % 64 = 0 ∧ n ≤ 64 * 2 ^ 20 ∧ bs.length = 3776 + n ∧ ofBytes (slice bs 12 4) = 0 ∧
      (slice bs 3748 28).all (· = 0) ∧ Config.sha3 key = Config.fusedDigest ∧
      Config.mldsaVerify key (slice bs 1328 2420) (Config.sha3 (slice bs 0 16 ++ body)) = true ∧ Config.fusedVersion ≤ ver then
    some ⟨ver, body⟩
  else none

/-- A piece of a firmware image (22 R404). Log 95 (DEDUCED). -/
def State.firmwarePiece (s : State) (m : BridleMsg) : State :=
  let off := bitsN (mW m 0) 0 32
  let n := bitsN (mW m 1) 0 11
  let drop (s : State) : State := { s with fwPieces := [], fwNext := 0 }
  if !s.ctxs.isEmpty then s.finishCmd m 2 []
  else if n = 0 ∨ 1024 < n ∨ mLen m < 2 + (n + 7) / 8 ∨ off ≠ s.fwNext then (drop s).finishCmd m 3 []
  else
    let all := s.fwPieces ++ (wordsBytes (m.payload.drop 2)).take n
    if bitN (mW m 0) 32 then
      match firmwareOf all with
      | some f => ({ drop s with fwStored := f } : State).finishCmd m 0 []
      | none => (drop s).finishCmd m 3 []
    else ({ s with fwPieces := all, fwNext := off + n } : State).finishCmd m 0 []

/-- LOAD_FIRMWARE (22 R404). -/
def execLoadFirmware (m : BridleMsg) (s : State) : Out1 :=
  s.bridle m (decide (mOp m = 0x10)) (.loadFirmware m) fun s => s.firmwarePiece m

/-! ## Attestation (22 R405) -/

/-- The digest over the digests of byte strings. -/
def digestAll (l : List (List Byte)) : List Byte := Config.sha3 (l.flatMap Config.sha3)

/-- The contexts by slot. -/
def State.bySlot (s : State) : List Ctx := sortBy (fun a b => decide (a.slot < b.slot)) s.ctxs

/-- The template images by context and id. -/
def State.templateImages (s : State) : List (List Byte) :=
  s.bySlot.flatMap fun c => (sortBy (fun (a b : Template) => decide (a.id < b.id)) c.templates).map Template.image

/-- The Rein images with their tables by context, die and id. -/
def State.reinImages (s : State) : List (List Byte) :=
  let key (p : Prog) : Nat := (p.ctx * 4 + p.die) * 4096 + p.id
  (sortBy (fun a b => decide (key a < key b)) s.progs).map fun p => wordsBytes (p.words ++ p.tab)

/-- The bytes of a report that the signature covers. -/
def State.reportBody (s : State) (nonce : List Word) : List Byte :=
  wordsBytes nonce ++ wordsBytes [wordN s.pkgNum, wordN (s.fwRunning.version % 2 ^ 32)] ++ Config.sha3 s.fwRunning.body ++
    digestAll s.templateImages ++ digestAll s.reinImages ++ digestAll (s.bySlot.map fun c => wordsBytes c.payload) ++
    wordsBytes [wordN (s.templateImages.length % 65536 + s.progs.length % 65536 * 2 ^ 16 + s.ctxs.length * 2 ^ 32), 0]

/-- ATTEST (22 R405). -/
def execAttest (m : BridleMsg) (s : State) : Out1 :=
  s.bridle m (decide (mOp m = 0x11)) (.attest m) fun s =>
    if bitN (mW m 4) 0 then s.finishCmd m 0 (bytesWords 164 Config.identityKey)
    else
      let body := s.reportBody [mW m 0, mW m 1, mW m 2, mW m 3]
      s.finishCmd m 0 (bytesWords 327 (body ++ Config.mldsaSign body ++ [0, 0, 0, 0]))

end Sys2Proof.Machine
end

