-- ==== Sys2Proof/Machine/HostCmds.lean ====
section
/-!
DEFINITION. Machine/HostCmds.lean: the commands of the context queues, host accesses and RoCEv2 (22 R391, R393, R395, R397 to
R400).
-/
namespace Sys2Proof.Machine

/-! ## Host accesses (22 R398) -/

/-- A range cut at 64 KiB boundaries; `fuel` bounds the pieces. -/
def pageParts : Nat → Nat → Nat → List (Nat × Nat)
  | 0, _, _ => []
  | fuel + 1, va, n =>
    if n = 0 then []
    else
      let k := 65536 - va % 65536
      if n ≤ k then [(va, n)] else (va, k) :: pageParts fuel (va + k) (n - k)

/-- The parts of a range. -/
def partsOf (va n : Nat) : List (Nat × Nat) := pageParts (n / 65536 + 2) va n

/-- Writes the parts of a range in order until one fails: address and cause. -/
def State.hostPut (s : State) (c : Nat) : List (Nat × Nat) → List Byte → State × Option (Nat × Nat)
  | [], _ => (s, none)
  | p :: ps, bs =>
    if 2 ^ 56 ≤ p.1 then (s, some (p.1, 0x080))
    else match s.xwrite none c p.1 (plain (bs.take p.2)) .store with
      | .error e => (s, some (p.1, e.2))
      | .ok s1 => State.hostPut s1 c ps (bs.drop p.2)

/-- A host write: it is performed at the home, page by page. -/
def State.hostWrite (s : State) (c va : Nat) (bs : List Byte) : State × Option (Nat × Nat) :=
  s.hostPut c (partsOf va bs.length) bs

/-- A host write waits: another party's lease covers what it writes (11 R226), or it is to commit a page by a touch while a
change of the page is not complete (14 R270). -/
def State.hostWaits (s : State) (c va : Nat) (bs : List Byte) : Bool :=
  s.xblocked none none c va bs.length .store || decide ((s.hostWrite c va bs).2.map Prod.snd = some waitCause)

/-- What a host read gives: the bytes up to what fails, the address and cause that fail, and the state, in which its reads of
other packages have left. -/
structure HostRead where
  bytes : List Byte
  bad : Option (Nat × Nat)
  st : State
deriving DecidableEq, Repr

/-- Reads a part of a range that lies in one page at its home. -/
def State.hostPart (s : State) (c va n : Nat) : HostRead :=
  if 2 ^ 56 ≤ va then ⟨[], some (va, 0x080), s⟩
  else match s.translate c va .load with
    | .fault k => ⟨[], some (va, k), s⟩
    | .touch => ⟨List.replicate n 0, none, s⟩
    | .ok pa =>
      match (List.range n).find? fun i => s.badHome ((pa + i) / 64) with
      | some i => ⟨s.homeRead pa i, some ((va + i) / 64 * 64, 0x08C), s.askFar pa n⟩
      | none => ⟨s.homeRead pa n, none, s.askFar pa n⟩

/-- Reads parts in order until one fails. -/
def State.hostParts (c : Nat) : List (Nat × Nat) → State → HostRead
  | [], s => ⟨[], none, s⟩
  | p :: ps, s =>
    let a := s.hostPart c p.1 p.2
    match a.bad with
    | some _ => a
    | none =>
      let r := State.hostParts c ps a.st
      { r with bytes := a.bytes ++ r.bytes }

/-- A host read. Log 96 (DEDUCED). -/
def State.hostRead (s : State) (c va n : Nat) : HostRead := State.hostParts c (partsOf va n) s

/-- The result words of status 7: the cause word and the address. -/
def faultWords (e : Nat × Nat) (acc : Access) : List Word := [wordN (e.2 + accCode acc * 2 ^ 48), wordN e.1]

/-- Bytes as words, zero-padded. -/
def padWords (bs : List Byte) : List Word :=
  let k := (bs.length + 7) / 8
  bytesWords k (bs ++ List.replicate (8 * k - bs.length) 0)

/-- BRIDLE_WRITE (22 R398). -/
def execBridleWrite (m : BridleMsg) (s : State) : Out1 :=
  s.bridle m (decide (mOp m = 0x0A)) (.bridleWrite m) fun s =>
    let va := (mW m 0).toNat
    let n := bitsN (mW m 1) 0 11
    if n = 0 ∨ 1024 < n ∨ mLen m < 2 + (n + 7) / 8 then s.finishCmd m 3 []
    else
      let bs := (wordsBytes (m.payload.drop 2)).take n
      if s.hostWaits (mCtx m) va bs then s.defer m (.bridleWrite m)
      else match s.hostWrite (mCtx m) va bs with
        | (s', some e) => s'.finishCmd m 7 (faultWords e .store)
        | (s', none) => s'.finishCmd m 0 []

/-- BRIDLE_READ (22 R398). -/
def execBridleRead (m : BridleMsg) (s : State) : Out1 :=
  s.bridle m (decide (mOp m = 0x0B)) (.bridleRead m) fun s =>
    let n := bitsN (mW m 1) 0 11
    if n = 0 ∨ 1024 < n then s.finishCmd m 3 []
    else match s.hostRead (mCtx m) (mW m 0).toNat n with
      | ⟨_, some e, s'⟩ => s'.finishCmd m 7 (faultWords e .load)
      | ⟨bs, none, s'⟩ => s'.finishCmd m 0 (padWords bs)

/-! ## Templates and launches (17 R317; 15 R290) -/

/-- A buffer entry of a template within its limits. -/
def bufOk (b : Word × Word) : Bool :=
  decide (1 ≤ b.1.toNat) && decide (b.1.toNat ≤ 2 ^ 40) && decide (6 ≤ bitsN b.2 0 6) && decide (bitsN b.2 0 6 ≤ 30) &&
    decide (bitsN b.2 6 2 = 0) && decide (bitsN b.2 8 3 ≤ 2) && decide (bitsN b.2 11 53 = 0)

/-- A member image within its limits: its placement, and its fields with every reference resolved. Log 149 (DESIGN CHOICE). -/
def State.memberOk (s : State) (count : Nat) (bufs : List (Word × Word)) (ws : List Word) : Bool :=
  let w := ws.getD 13 0
  let hs := List.replicate count (handleOf s.pkgNum 0 0 1)
  let done := renameImage hs (bufs.map fun b => (0, b.1.toNat)) 0 ws
  decide (bitsN w 3 61 = 0) && (!bitN w 2 || decide (bitsN w 0 2 = 0)) && decide (ws.getD 14 0 = 0) &&
    (s.imageCauses (fun h => if s.handleWf h then none else some 0x100) done).isEmpty

/-- The template of an image's words, or none where it is malformed (17 R317). -/
def State.parseTemplate (s : State) (id : Nat) (ws : List Word) : Option Template :=
  let w0 := ws.getD 0 0
  let count := bitsN w0 0 13
  let nb := bitsN w0 16 7
  let body := ws.drop 8
  let members := chop 32 count body
  let bufs := (chop 2 nb (body.drop (32 * count))).map fun b => (b.getD 0 0, b.getD 1 0)
  if 1 ≤ count ∧ count ≤ 4096 ∧ nb ≤ 64 ∧ bitsN w0 13 3 = 0 ∧ bitsN w0 23 41 = 0 ∧ ((ws.take 8).drop 1).all (· = 0) = true ∧
      bufs.all bufOk = true ∧ members.all (s.memberOk count bufs) = true then
    some ⟨id, members, bufs, 0, wordsBytes ws⟩
  else none

/-- Registers a template; its instance numbers go on where the id was registered before. Log 97 (DEDUCED). -/
def Ctx.register (c : Ctx) (t : Template) : Ctx :=
  let next := match c.templates.find? fun x => x.id == t.id with
    | some x => x.next
    | none => 0
  { c with templates := { t with next := next } :: c.templates.filter fun x => x.id != t.id }

/-- Words that a template of a header takes. -/
def templateWords (w0 : Word) : Nat := 8 + 32 * bitsN w0 0 13 + 2 * bitsN w0 16 7

/-- REGISTER_TEMPLATE (17 R317; 22 R399). Log 97 (DEDUCED). -/
def State.registerTemplate (s : State) (m : BridleMsg) : State :=
  let va := (mW m 1).toNat
  if bitsN (mW m 0) 12 52 ≠ 0 ∨ va % 64 ≠ 0 then s.finishCmd m 3 []
  else match s.hostRead (mCtx m) va 8 with
    | ⟨_, some e, s⟩ => s.finishCmd m 7 (faultWords e .load)
    | ⟨h, none, s⟩ =>
      let w0 := wordN (ofBytes h)
      if 4096 < bitsN w0 0 13 ∨ 64 < bitsN w0 16 7 then s.finishCmd m 3 []
      else match s.hostRead (mCtx m) va (8 * templateWords w0) with
        | ⟨_, some e, s⟩ => s.finishCmd m 7 (faultWords e .load)
        | ⟨bs, none, s⟩ =>
          match s.parseTemplate (bitsN (mW m 0) 0 12) (bytesWords (templateWords w0) bs) with
          | none => s.finishCmd m 3 []
          | some t => (s.setCtx (mCtx m) fun c => c.register t).finishCmd m 0 []

/-- REGISTER_TEMPLATE (22 R399). -/
def execRegisterTemplate (m : BridleMsg) (s : State) : Out1 :=
  s.bridle m (decide (mOp m = 0x07)) (.registerTemplate m) fun s => s.registerTemplate m

/-- LAUNCH (22 R393): as TINST from the host's side, its members on the issuing group's die on CD0; while a page of its buffers is
being changed it waits (14 R270). Log 44 (DEDUCED); 97 (DEDUCED). -/
def execLaunch (m : BridleMsg) (s : State) : Out1 :=
  s.bridle m (decide (mOp m = 0x08)) (.launch m) fun s =>
    let c := mCtx m
    let tid := bitsN (mW m 0) 0 12
    match s.planInst c (s.genOf c) 0 tid (mW m 1) (mW m 2) (s.handleCause (s.tagOf c)) with
    | .error k => s.finishCmd m (if k = 0x103 ∨ k = 0x105 then 4 else 3) [wordN k]
    | .ok p =>
      if p.bufs.any fun b => s.placeWaits c b.1 b.2 then s.defer m (.launch m)
      else (s.draw.makeInst c (s.genOf c) 0 tid p.num p.recs p.bufs (mW m 2)).finishCmd m 0 [p.handle s.pkgNum (s.genOf c)]

/-! ## Signals and tasks (22 R393, R397) -/

/-- SIGNAL (22 R393). Log 92 (DEDUCED); 96 (DEDUCED). -/
def execSignal (m : BridleMsg) (s : State) : Out1 :=
  s.bridle m (decide (mOp m = 0x09)) (.signal m) fun s =>
    let h := mW m 0
    let n := bitsN (mW m 1) 0 16 + 1
    let tag := s.tagOf (mCtx m)
    if !s.handleWf h then s.finishCmd m 3 []
    else if hPkg h ≠ s.pkgNum then
      (if s.backBlocked none 0 then s.defer m (.signal m) else (s.sendDec 0 h n none (mCtx m) none).finishCmd m 0 [])
    else if s.decsWait h then s.defer m (.signal m)
    else (s.applyDec ⟨0, h, n, none, tag, false⟩).finishCmd m 0 []

/-- The cause of an image that the host sends, with the state after its descriptor is read (15 R287 steps 3 to 5). Log 42 (DEDUCED); 96 (DEDUCED). -/
def State.hostImage (s : State) (c die : Nat) (ws : List Word) : Except Nat State :=
  let chk := s.handleCause (s.tagOf c)
  let a := (ws.getD 2 0).toNat
  let n := bitsN (ws.getD 3 0) 0 13
  let past : List Nat × State :=
    if a = 0 ∨ n = 0 ∨ a % 64 ≠ 0 ∨ 2 ^ 56 ≤ a ∨ 4096 < n then ([], s)
    else match s.hostRead c a (8 * n) with
      | ⟨_, some _, s'⟩ => ([0x10C], s')
      | ⟨bs, none, s'⟩ => (if (bytesWords n bs).any fun h => (chk h).isSome then [0x10C] else [], s')
  match lowestN (s.imageCauses chk ws ++ past.1) with
  | some k => .error k
  | none =>
    match past.2.readDesc die c (ws.getD 0 0).toNat with
    | .error e => .error e.1
    | .ok (kd, s1) =>
      match lowestN (s1.shapeCauses kd.shape ws) with
      | some k => .error k
      | none => .ok s1

/-- The state without the record that a context at its cap retakes on a die: of its own retained ones that no block has taken, the
one whose task ended first (17 R307). Log 99 (DEDUCED). -/
def State.retakeOwn (s : State) (die c : Nat) : Option State :=
  ((s.retakable die).find? fun q => q.ctx == c && !s.recHolds.any fun h => h.2.die == die && h.2.idx == q.idx).map fun q =>
    { s with recs := s.recs.filter fun x => !(x.die == die && x.idx == q.idx) }

/-- A record of a given index for a context: the state without the record it retakes, or none (22 R397). Log 99 (DEDUCED). -/
def State.takeNamed (s : State) (die idx c : Nat) : Option State :=
  let cap := match s.ctx? c with
    | some x => x.cap
    | none => 0
  let full := decide (cap ≠ 0) && decide (cap ≤ s.recCount die c [])
  if (s.recHolds.any fun h => h.2.die == die && h.2.idx == idx) || s.isHandlerRec die idx || s.recDisabled die idx then none
  else match s.rec? die idx with
    | some r =>
      if r.retained.isNone || s.liveInst r then none
      else if r.ctx = c ∨ full = false then some s
      else s.retakeOwn die c
    | none => if full then s.retakeOwn die c else some s

/-- CREATE_TASK (22 R397). -/
def State.createTask (s : State) (m : BridleMsg) : State :=
  let h := mW m 0
  let c := mCtx m
  let die := hDie h
  let ws := (m.payload.drop 2).take 32
  if hPkg h ≠ s.pkgNum ∨ bitsN (mW m 1) 1 63 ≠ 0 then s.finishCmd m 3 []
  else match s.hostImage c die ws with
    | .error k => if k = waitCause then s.defer m (.createTask m) else s.finishCmd m 3 [wordN k]
    | .ok s1 =>
      let at' : Option (Nat × State) :=
        if bitN (mW m 1) 0 then (s1.takeRec die c []).map fun i => (i, s1.draw)
        else (s1.takeNamed die (hRec h) c).map fun x => (hRec h, x)
      match at' with
      | none => s.finishCmd m 4 []
      | some (i, s2) =>
        (s2.createRec die i (recWords ws c (s.genOf c) 0 false 0 0) 0).finishCmd m 0 [handleOf s.pkgNum die i (s.genOf c)]

/-- CREATE_TASK (22 R397). -/
def execCreateTask (m : BridleMsg) (s : State) : Out1 :=
  s.bridle m (decide (mOp m = 0x12)) (.createTask m) fun s => s.createTask m

/-! ## Status and links (17 R321; 22 R395) -/

/-- The status block of a context (17 R321). Log 152 (DEDUCED). -/
def State.statusBlock (s : State) (x : Ctx) : List Word :=
  let n (d : Nat) : Nat := (s.recs.filter fun r => r.ctx == x.slot && r.die == d).length
  [wordN x.counters.dropDec, wordN x.counters.dropLaunch, wordN x.counters.done, wordN x.counters.failed,
    wordN x.counters.freezes, wordN (n 0 + n 1 * 2 ^ 32), wordN (n 2 + n 3 * 2 ^ 32), 0]

/-- STATUS (22 R393). -/
def execStatus (m : BridleMsg) (s : State) : Out1 :=
  s.bridle m (decide (mOp m = 0x0C)) (.status m) fun s =>
    match s.ctx? (mCtx m) with
    | some x => s.finishCmd m 0 (s.statusBlock x)
    | none => s.finishCmd m 3 []

/-- LINK_QUEUES (22 R395). -/
def execLinkQueues (m : BridleMsg) (s : State) : Out1 :=
  s.bridle m (decide (mOp m = 0x0D)) (.linkQueues m) fun s =>
    let w := mW m 0
    let p := bitsN w 0 8
    let c := bitsN w 8 8
    let bound (n : Nat) : Bool := s.queues.any fun q => q.num == n && q.ctx == some (mCtx m)
    if bitsN w 33 31 ≠ 0 ∨ bound c = false then s.finishCmd m 3 []
    else if bitN w 32 then
      (({ s with links := s.links.filter fun l => l.c != c } : State).finishCmd m 0 []).pump c
    else if !bound p || (s.linkOf c).isSome then s.finishCmd m 3 []
    else (({ s with links := ⟨p, c, bitsN w 16 16⟩ :: s.links } : State).finishCmd m 0 []).pump c

/-! ## Map (22 R399; 14 R261, R270) -/

/-- The pages of a context that a range meets: base, size and leaf. -/
def Ctx.pagesIn (c : Ctx) (lo hi : Nat) : List (Nat × PgSize × Word) :=
  (c.pte.filterMap fun e =>
    if pteKind e.2 ≠ 2 then none
    else
      let sz := pgOfCode (leafSize e.2)
      let va := e.1.idx * (if e.1.level = 3 then 65536 else pgBytes .g1)
      let b := va / pgBytes sz * pgBytes sz
      if b < hi ∧ lo < b + pgBytes sz then some (b, sz, e.2) else none).eraseDups

/-- The leaf of a page that Map writes; a page mapped before keeps its pins. Log 98 (DEDUCED). -/
def mapLeaf (bits pa : Nat) (old : Option Word) : Word :=
  wordN (2 + bits % 4 * 4 + bits / 4 % 4 * 16 + bits / 16 % 16 * 64 + pa / 65536 * 65536 + (match old with
    | some e => leafPins e * 2 ^ 56
    | none => 0))



/-- What Map refuses with status 3 (22 R399; 14 R410). Log 98 (DEDUCED); 127 (DEDUCED). -/
def State.mapBad (s : State) (x : Ctx) (va pa n bits : Nat) (clear : Bool) : Bool :=
  let sz := pgOfCode (bits / 4 % 4)
  let b := pgBytes sz
  let other := (x.pagesIn va (va + n * b)).filter fun p => decide (p.2.1 ≠ sz)
  decide (n = 0) || decide (65536 < n) || decide (bits / 4 % 4 = 3) || decide (va = 0) || decide (va % b ≠ 0) ||
    decide (pa % b ≠ 0) || decide (2 ^ 56 < va + n * b) ||
    (if clear then other.any fun p => decide (p.1 < va) || decide (va + n * b < p.1 + pgBytes p.2.1)
     else decide (bits % 4 = 0) || !other.isEmpty || decide (2 ^ 52 < pa + n * b) ||
       (List.range n).any fun k =>
         !s.fitted (pa + k * b) || !s.fitted (pa + k * b + b - 1) || (decide (bits % 4 = 1) && decide (paPkg (pa + k * b) ≠ s.pkgNum)))

/-- One page of a Map: a new leaf, or a change of one that is invalidated. -/
def State.mapPage (s : State) (c q va : Nat) (sz : PgSize) (new : Option Word → Word) : State :=
  match s.leafOf c va sz with
  | none => s.setCtx c fun x => x.setLeaf va sz (new none)
  | some e => s.beginInval c va sz e (new (some e)) (some q)

/-- MAP (22 R399): completes when the invalidations complete. Log 98 (DEDUCED). -/
def State.mapCmd (s : State) (m : BridleMsg) : State :=
  let c := mCtx m
  let va := (mW m 0).toNat
  let pa := (mW m 1).toNat
  let n := bitsN (mW m 2) 0 32
  let bits := bitsN (mW m 3) 0 8
  let clear := bitN (mW m 3) 8
  match s.ctx? c with
  | none => s.finishCmd m 3 []
  | some x =>
    if bitsN (mW m 3) 9 55 ≠ 0 ∨ s.mapBad x va pa n bits clear = true then s.finishCmd m 3 []
    else
      let sz := pgOfCode (bits / 4 % 4)
      let hit := x.pagesIn va (va + n * pgBytes sz)
      if x.rangeBusy va (va + n * pgBytes sz) then s.defer m (.map m)
      else
        let q := mQueue m
        let s' := if clear then hit.foldl (fun s p => s.mapPage c q p.1 p.2.1 fun _ => 0) s
          else (List.range n).foldl (fun s k => s.mapPage c q (va + k * pgBytes sz) sz fun old => mapLeaf bits (pa + k * pgBytes sz) old) s
        if (match s'.ctx? c with
            | some y => y.invals.any fun i => i.map == some q
            | none => false) then s' else s'.finishCmd m 0 []

/-- MAP (22 R399). -/
def execMap (m : BridleMsg) (s : State) : Out1 :=
  s.bridle m (decide (mOp m = 0x0E)) (.map m) fun s => s.mapCmd m

/-! ## Regions and queue pairs (22 R400) -/

/-- The first number from a start, modulo a bound, that a list does not hold. Log 108 (DESIGN CHOICE). -/
def freeNumber (start bound : Nat) (l : List Nat) : Nat :=
  (((List.range (l.length + 1)).map fun i => (start + i) % bound).find? fun k => !l.contains k).getD 0

/-- REGISTER_REGION (22 R400). -/
def execRegisterRegion (m : BridleMsg) (s : State) : Out1 :=
  s.bridle m (decide (mOp m = 0x15)) (.registerRegion m) fun s =>
    let base := (mW m 0).toNat
    let len := (mW m 1).toNat
    if base % 65536 ≠ 0 ∨ len % 65536 ≠ 0 ∨ len = 0 ∨ 2 ^ 40 < len ∨ bitsN (mW m 2) 2 62 ≠ 0 then s.finishCmd m 3 []
    else if 4096 ≤ s.regions.length then s.finishCmd m 4 []
    else
      let key := freeNumber (Config.regionKey s.fresh) (2 ^ 32) (s.regions.map Region.key)
      ({ s.draw with regions := ⟨key, mCtx m, base, len, bitN (mW m 2) 0, bitN (mW m 2) 1⟩ :: s.regions } : State).finishCmd m 0 [wordN key]



/-- DEREGISTER_REGION (22 R400): it waits until every access accepted before has been performed. Log 100 (DEDUCED). -/
def execDeregisterRegion (m : BridleMsg) (s : State) : Out1 :=
  s.bridle m (decide (mOp m = 0x16)) (.deregisterRegion m) fun s =>
    let key := bitsN (mW m 0) 0 32
    if s.regions.any fun r => r.key == key && r.ctx == mCtx m then
      if s.regionBusy key then s.defer m (.deregisterRegion m)
      else ({ s with regions := s.regions.filter fun r => r.key != key } : State).finishCmd m 0 []
    else s.finishCmd m 3 []

/-- CONNECT_QUEUE_PAIR (22 R400). -/
def execConnectQueuePair (m : BridleMsg) (s : State) : Out1 :=
  s.bridle m (decide (mOp m = 0x17)) (.connectQueuePair m) fun s =>
    let w3 := mW m 3
    let mtu := bitsN w3 24 3
    if bitsN w3 30 34 ≠ 0 ∨ mtu = 0 ∨ 5 < mtu then s.finishCmd m 3 []
    else if 256 ≤ s.qps.length then s.finishCmd m 4 []
    else
      let num := freeNumber (Config.qpNumber s.fresh) (2 ^ 24) (s.qps.map Qp.num)
      let psn := Config.qpNumber (s.fresh + 1) % 2 ^ 24
      let q : Qp := ⟨num, mCtx m, bitsN (mW m 0) 0 24, mW m 1, mW m 2, bitsN w3 0 24, mtu, bitsN w3 27 3, psn⟩
      ({ s.draw.draw with qps := q :: s.qps } : State).finishCmd m 0 [wordN num, wordN psn]

/-! ## RoCEv2 (22 R391, R398) -/

/-- Refuses a request of a queue pair, which an access error puts into the error state: it is destroyed. Log 100 (DEDUCED). -/
def State.nakQp (s : State) (qp : Nat) (code : NakCode) : State :=
  let s := { s with outbox := s.outbox ++ [.nak qp code] }
  match code with
  | .remoteInvalidRequest => s
  | _ => { s with qps := s.qps.filter fun q => q.num != qp }

/-- The queue pair and region of a request that may be performed. -/
def State.rdmaOk (s : State) (q : Qp) (key va n : Nat) (wr : Bool) : Bool :=
  s.regions.any fun r => r.key == key && r.ctx == q.ctx && decide (r.base ≤ va) && decide (va + n ≤ r.base + r.len) &&
    (if wr then r.wr else r.rd)

/-- The NAK of a fault of an access (22 R398). Log 100 (DEDUCED). -/
def nakOf (cause : Nat) : NakCode := if cause = 0x08C then .remoteOperationalError else .remoteAccessError

/-- RDMA_WRITE (22 R398). Log 100 (DEDUCED). -/
def execRdmaWrite (qp key : Nat) (va : Word) (bytes : List Byte) (s : State) : Out1 :=
  let s := s.woken
  match s.qps.find? fun q => q.num == qp with
  | none => .next s
  | some q =>
    if !s.rdmaOk q key va.toNat bytes.length true then .next (s.nakQp qp .remoteAccessError)
    else if s.hostWaits q.ctx va.toNat bytes then
      .next { s with later := s.later ++ [.rdmaWrite qp key va bytes] }
    else match s.hostWrite q.ctx va.toNat bytes with
      | (s', some e) => .next (s'.nakQp qp (nakOf e.2))
      | (s', none) => .next { s' with outbox := s'.outbox ++ [.writeAck qp] }

/-- RDMA_READ (22 R398). Log 100 (DEDUCED). -/
def execRdmaRead (qp key : Nat) (va : Word) (n : Nat) (s : State) : Out1 :=
  let s := s.woken
  match s.qps.find? fun q => q.num == qp with
  | none => .next s
  | some q =>
    if !s.rdmaOk q key va.toNat n false then .next (s.nakQp qp .remoteAccessError)
    else match s.hostRead q.ctx va.toNat n with
      | ⟨bs, some e, s⟩ =>
        let s := if bs.isEmpty then s else { s with outbox := s.outbox ++ [.readReply qp bs] }
        .next (s.nakQp qp (nakOf e.2))
      | ⟨bs, none, s⟩ => .next { s with outbox := s.outbox ++ [.readReply qp bs] }

/-- REMOTE_INVALID_REQUEST (22 R391): a request the device does not take, on a queue pair that exists. Log 100 (DEDUCED). -/
def execRemoteInvalidRequest (qp : Nat) (s : State) : Out1 :=
  let s := s.woken
  .next (if s.qps.any fun q => q.num == qp then s.nakQp qp .remoteInvalidRequest else s)

end Sys2Proof.Machine
end

