-- ==== Sys2Proof/Machine/Device.lean ====
section
/-!
DEFINITION. Machine/Device.lean: accesses of other packages, recovery, power states, the management registers and the package
reset (22 R401 to R403, R406, R411).
-/
namespace Sys2Proof.Machine

/-! ## UALink accesses (22 R401; 10 R213) -/

/-- A range of this package that another package may access: populated, and not device space. Log 101 (DEDUCED). -/
def State.remoteOk (s : State) (pa n : Nat) : Bool :=
  decide (paPkg pa = s.pkgNum) && decide (paPkg (pa + n - 1) = s.pkgNum) && locPopulated (paLoc pa) &&
    locPopulated (paLoc (pa + n - 1)) && !locDev (paLoc pa) && !locDev (paLoc (pa + n - 1))

/-- The pattern that an AMO operation writes over the old one (12 R241). -/
def amoNew (op : Nat) (t : ITy) (v cmp : Word) (old : Nat) : Option Nat :=
  match op with
  | 0 => amoVal t (· + ·) v old
  | 1 => amoVal t (pickI false) v old
  | 2 => amoVal t (pickI true) v old
  | 3 => amoPat t (· &&& ·) v old
  | 4 => amoPat t (· ||| ·) v old
  | 5 => amoPat t (· ^^^ ·) v old
  | 6 => amoPat t (fun _ x => x) v old
  | _ => if old = patOf t cmp then some (patOf t v) else none

/-- Bytes that a request covers. -/
def remoteSize : RemoteOp → Nat
  | .read n => n
  | .write bs => bs.length
  | .amo _ t _ _ => iBytes t
  | .maps n _ => n * 65536

/-- A request within what UALink carries here. Log 101 (DEDUCED). -/
def remoteWf (o : RemoteOp) (pa : Nat) : Bool :=
  match o with
  | .read _ | .write _ => decide (16 ≤ remoteSize o) && decide (remoteSize o ≤ 256)
  | .amo op t _ _ => decide (op < 8) && decide (pa % iBytes t = 0)
  | .maps n _ => decide (0 < n) && decide (pa % 65536 = 0)

/-- The byte writes of a masked write. -/
def maskedBytes (pa : Nat) (bs : List (Option Byte)) : List (Nat × Byte) :=
  ((List.range bs.length).zip bs).filterMap fun e => e.2.map fun b => (pa + e.1, b)

/-- The addresses that a request writes. -/
def remoteWrites (pa : Nat) : RemoteOp → List Nat
  | .write bs => (maskedBytes pa bs).map Prod.fst
  | .amo _ t _ _ => (List.range (iBytes t)).map (pa + ·)
  | _ => []

/-- A party's lease at the home covers one of some bytes. -/
def State.homeLeased (s : State) (as : List Nat) : Bool := as.any fun a => s.leaseHit none none a 1

/-- Positions of the poisoned bytes of a transfer. -/
def badOf (bs : List XByte) : List Nat := (List.range bs.length).filter fun i => (bs.getD i (0, false)).2

/-- The frames of a range of bytes, beside the package that maps them. -/
def mapsOf (pkg pa n : Nat) : List (Nat × Nat) :=
  (List.range ((pa + n - 1) / 65536 - pa / 65536 + 1)).map fun i => (pkg, pa / 65536 + i)

/-- Frames of this package that another package reaches, and so maps (14 R262). Log 112 (DESIGN CHOICE). -/
def State.export (s : State) (pkg pa n : Nat) : State :=
  { s with exports := ((mapsOf pkg pa n).filter fun f => !s.exports.contains f) ++ s.exports }

/-- Frames of this package that another package maps no longer (14 R262). Log 112 (DESIGN CHOICE). -/
def State.unexport (s : State) (pkg pa n : Nat) : State :=
  { s with exports := s.exports.filter fun f => !(mapsOf pkg pa n).contains f }

/-- A request performed at the home: bytes of the reply and the poisoned ones among them. Log 101 (DEDUCED). -/
def State.remoteDo (s : State) (pa : Nat) : RemoteOp → State × List Byte × List Nat
  | .read n => let bs := s.getBytes none pa n; (s, bs.map Prod.fst, badOf bs)
  | .write bs =>
    let ws := maskedBytes pa bs
    ((s.putHome ws).cleanAt none (wholeOf (ws.map Prod.fst)), [], [])
  | .amo op t v cmp =>
    let bs := s.getBytes none pa (iBytes t)
    let old := bs.map Prod.fst
    if badOf bs ≠ [] then (s, old, badOf bs)
    else match amoNew op t v cmp (ofBytes old) with
      | some x => (s.homeWrite pa (bytesOf x (iBytes t)), old, [])
      | none => (s, old, [])
  | .maps _ _ => (s, [], [])

/-- UALINK_REMOTE_ACCESS (22 R401): performed at the home once no lease covers what it writes; or what another package maps here
(14 R262). Log 101 (DEDUCED); 112 (DESIGN CHOICE). -/
def execUalinkRemoteAccess (pkg addr : Nat) (op : RemoteOp) (s : State) : Out1 :=
  let s := s.heard pkg
  if !s.pod.contains pkg || !remoteWf op addr || !s.remoteOk addr (remoteSize op) then .next s
  else match op with
    | .maps n true => .next (s.export pkg addr (n * 65536))
    | .maps n false => .next (s.unexport pkg addr (n * 65536))
    | _ =>
      if s.homeLeased (remoteWrites addr op) then .next { s with later := s.later ++ [.ualinkRemoteAccess pkg addr op] }
      else
        let r := (s.export pkg addr (remoteSize op)).remoteDo addr op
        .next { r.1 with outbox := r.1.outbox ++ [.ualinkReply pkg r.2.1 r.2.2] }

/-! ## Recovery (22 R402) -/

/-- The selector of a UALink port (22 R409). -/
def portUnit (port : Nat) : Word := wordN (5 + port * 2 ^ 16)

/-- The ports that are not retired. -/
def State.ports (s : State) : List Nat := (List.range 16).filter fun p => !s.retired.contains (portUnit p)

/-- HEARTBEAT (22 R402): one on each link. Log 12 (DESIGN CHOICE); 102 (DEDUCED). -/
def execHeartbeat (s : State) : Out1 := .next { s with outbox := s.outbox ++ s.ports.map Out.heartbeat }

/-- What a buddy holds of a package, as messages to its spare. Log 102 (DEDUCED). -/
def Mirrored.of (k : Mirrored) (pkg : Nat) : List Mirror :=
  ((k.records.filter fun r => r.1 == pkg).map fun r => .record pkg r.2.1 r.2.2.1 r.2.2.2) ++
    ((k.applied.filter fun a => a.1 == pkg).map fun a => .applied pkg a.2.1 a.2.2) ++
    ((k.writes.filter fun w => w.1 == pkg).map fun w => .write pkg w.2.1 [w.2.2])

/-- PACKAGE_FAILED (22 R402): what this package holds of the failed one waits for its spare. Log 102 (DEDUCED). -/
def execPackageFailed (pkg : Nat) (s : State) : Out1 :=
  .next (if s.pod.contains pkg && !s.failedPkgs.contains pkg then
    (s.mirrored.of pkg).foldl (fun s m => s.toPod pkg (.mirrorHand pkg m)) { s with failedPkgs := pkg :: s.failedPkgs }
    else s)

/-- A mirrored write of consecutive bytes. -/
def mirrorCells (pkg addr : Nat) (bs : List Byte) : List (Nat × Host.Cell) := (bytesAt addr bs).map fun b => (pkg, b)

/-- The package that sends a mirror message. -/
def mirrorPkg : Mirror → Nat
  | .record pkg _ _ _ | .applied pkg _ _ | .write pkg _ _ | .handed pkg _ => pkg

/-- What is kept of a mirror message: later ones replace earlier ones on the same thing. Log 102 (DEDUCED). -/
def Mirrored.keep (k : Mirrored) : Mirror → Mirrored
  | .record pkg die idx ws =>
    let rest := k.records.filter fun r => !(r.1 == pkg && r.2.1 == die && r.2.2.1 == idx)
    { k with records := if ws.isEmpty then rest else (pkg, die, idx, ws) :: rest }
  | .applied pkg sender seq =>
    { k with applied := (pkg, sender, seq) :: k.applied.filter fun a => a != (pkg, sender, seq) }
  | .write pkg addr bs =>
    { k with writes := mirrorCells pkg addr bs ++ k.writes.filter fun w =>
        !(w.1 == pkg && decide (addr ≤ w.2.1) && decide (w.2.1 < addr + bs.length)) }
  | .handed _ m => k.keep m

/-- RECOVERY_MIRROR (22 R402): what a buddy keeps, or a spare of what it is handed. Log 102 (DEDUCED); 150 (DEDUCED). -/
def execRecoveryMirror (m : Mirror) (s : State) : Out1 :=
  let s := s.heard (mirrorPkg m)
  .next { s with mirrored := s.mirrored.keep m }

/-- A record rebuilt from its mirrored words: one that ended stays ended, another starts again from its counter. Log 102 (DEDUCED). -/
def rebuiltRec (order die idx : Nat) (words : List Word) (now : Nat) : TaskRec :=
  let r : TaskRec := ⟨die, idx, words, none, [], [], [], [], now, 0, 0, 0, none, [], [], 0⟩
  if 6 ≤ r.state then { r with retained := some order } else r.setState (if r.counter = 0 then 1 else 0)

/-- A mirrored record takes its place. -/
def State.rebuildOne (s : State) (r : Nat × Nat × Nat × List Word) : State :=
  { s with
    recs := rebuiltRec s.ended r.2.1 r.2.2.1 r.2.2.2 s.cycle :: s.recs.filter fun x => !(x.die == r.2.1 && x.idx == r.2.2.1)
    ended := s.ended + 1 }

/-- RECOVERY_REBUILD (22 R402): a spare takes the number of a failed package and what its buddy mirrored. Log 102 (DEDUCED); 103 (DESIGN CHOICE). -/
def execRecoveryRebuild (pkg : Nat) (s : State) : Out1 :=
  if !s.pod.contains pkg then .next s
  else
    let k := s.mirrored
    let s := s.renumber pkg
    let s := s.putHome ((k.writes.filter fun w => w.1 == pkg).map Prod.snd)
    let s := ((k.records.filter fun r => r.1 == pkg).reverse).foldl State.rebuildOne s
    let s : State := { s with
      applied := (k.applied.filter fun a => a.1 == pkg).map Prod.snd
      failedPkgs := s.failedPkgs.filter fun p => p != pkg }
    .next (s.notifyCause none 0x187 0 0)

/-! ## Mirroring to the buddy (22 R402) -/

/-- A context that mirrors, by its slot. -/
def State.buddyOf (s : State) (c : Nat) : Option Nat :=
  match s.ctx? c with
  | some x => if x.noBuddy then none else some x.buddy
  | none => none

/-- The state, counter, fail fields and Signalled bit of a record. -/
def TaskRec.mirrorPart (r : TaskRec) : Word × Word := (wordN r.counter, wordN (bitsN (r.w 13) 0 14))

/-- The messages that records a step freed are mirrored no longer. Log 102 (DEDUCED). -/
def mirrorFreed (s t : State) : List Out :=
  s.recs.filterMap fun r => match s.buddyOf r.ctx with
    | none => none
    | some b =>
      if ((t.rec? r.die r.idx).bind fun q => t.buddyOf q.ctx) = some b then none else some (.mirrorRecord b r.die r.idx [])

/-- The mirror messages of the records that a step changed. Log 102 (DEDUCED). -/
def mirrorRecords (s t : State) : List Out :=
  mirrorFreed s t ++ t.recs.filterMap fun r => match t.buddyOf r.ctx with
    | none => none
    | some b =>
      if ((s.rec? r.die r.idx).map fun q => (q.gen, q.ctx, q.mirrorPart)) = some (r.gen, r.ctx, r.mirrorPart) then none
      else some (.mirrorRecord b r.die r.idx r.words)

/-- The packages that hold mirrors of this one. -/
def State.buddies (s : State) : List Nat := (s.ctxs.filterMap fun c => if c.noBuddy then none else some c.buddy).eraseDups

/-- The mirror messages of the decrements that a step applied. -/
def mirrorApplied (s t : State) : List Out :=
  if s.applied = t.applied then []
  else (t.applied.filter fun a => !s.applied.contains a).flatMap fun a => t.buddies.map fun b => .mirrorApplied b a.1 a.2

/-- The frames that hold a context's durable ranges. -/
def State.durableFrames (s : State) (x : Ctx) : List Nat :=
  x.durable.flatMap fun d => (List.range (d.2 / 65536)).filterMap fun i =>
    match s.translate x.slot (d.1 + 65536 * i) .none with
    | .ok pa => some (pa / 65536)
    | _ => none

/-- The addresses at which two memories differ. -/
def changedBytes (a b : Cells) : List Nat :=
  ((b.filter fun c => decide (a.get c.1 ≠ c.2)) ++ a.filter fun c => decide (b.get c.1 = 0)).map Prod.fst

/-- The mirror messages of the durable bytes that a step wrote or changed. Log 102 (DEDUCED). -/
def mirrorWrites (s t : State) : List Out :=
  let as := t.wrote.eraseDups ++ (changedBytes s.mem t.mem).filter fun a => !t.wrote.contains a
  t.ctxs.flatMap fun x =>
    if x.noBuddy || x.durable.isEmpty || as.isEmpty then []
    else
      let fs := t.durableFrames x
      (as.filter fun a => fs.contains (a / 65536)).map fun a => .mirrorWrite x.buddy a [t.mem.get a]

/-- The frames of other packages that the tables map, or whose unmapping is not complete (14 R262, R270): the first, and how many. -/
def State.farMapped (s : State) : List (Nat × Nat) :=
  ((s.ctxs.flatMap fun x => x.pte.map Prod.snd ++ x.invals.map Inval.old).filterMap fun e =>
    if pteKind e = 2 ∧ leafCommitted e = true ∧ s.far (leafPa e) = true then some (leafPa e, pgFrames (pgOfCode (leafSize e)))
    else none).eraseDups

/-- What is left of a run of frames without another: its part below it and its part above. -/
def runWithout (b a : Nat × Nat) : List (Nat × Nat) :=
  let be := b.1 + 65536 * b.2
  let ae := a.1 + 65536 * a.2
  if be ≤ a.1 ∨ ae ≤ b.1 then [a]
  else (if a.1 < b.1 then [(a.1, (b.1 - a.1) / 65536)] else []) ++ if be < ae then [(be, (ae - be) / 65536)] else []

/-- The frames of some runs that lie in none of some others. -/
def runsBeyond (a b : List (Nat × Nat)) : List (Nat × Nat) := b.foldl (fun l x => l.flatMap (runWithout x)) a

/-- The messages of the frames of other packages that a step maps, or that no leaf maps any longer (14 R262). Log 112 (DESIGN CHOICE). -/
def mapsChanged (s t : State) : List Out :=
  let a := s.farMapped
  let b := t.farMapped
  ((runsBeyond (b.filter fun x => !a.contains x) a).map fun x => .ualinkMaps (paPkg x.1) x.1 x.2 true) ++
    (runsBeyond (a.filter fun x => !b.contains x) b).map fun x => .ualinkMaps (paPkg x.1) x.1 x.2 false

/-- A step's mirror messages, and those of what it maps on other packages, leave before whatever else the step sends.
Log 102 (DEDUCED); 112 (DESIGN CHOICE). -/
def State.mirror (s t : State) : State :=
  let ms := mirrorRecords s t ++ mirrorApplied s t ++ mirrorWrites s t ++ mapsChanged s t
  if ms.isEmpty then t
  else { t with outbox := t.outbox.take s.outbox.length ++ ms ++ t.outbox.drop s.outbox.length }

/-! ## Power (22 R403) -/

/-- The device is idle. -/
def State.isIdle (s : State) : Bool :=
  s.groups.isEmpty && !(s.insts.any Inst.isLive) && s.queues.all fun q => q.waiting.isEmpty && q.go.isNone && q.doing.isNone

/-- The deepest state whose exit latency a tolerance in microseconds allows. -/
def deepest (tol : Nat) : PState := if 2000 ≤ tol then .p3 else if 50 ≤ tol then .p2 else if 1 ≤ tol then .p1 else .p0

/-- IDLE_ENTRY (22 R403). -/
def execIdleEntry (s : State) : Out1 := .next (if s.isIdle then { s with pstate := deepest s.tolerance } else s)

/-- WAKE (22 R403). -/
def execWake (s : State) : Out1 := .next s.woken

/-! ## Management registers (22 R406, R409) -/

/-- ERROR_SELECT (22 R406). -/
def execErrorSelect (v : Word) (s : State) : Out1 := .next { s with errSelect := v }

/-- POWER_LIMIT (22 R406): a value outside 300 to 2,700 is clamped. -/
def execPowerLimit (v : Word) (s : State) : Out1 :=
  .next { s with powerLimit := if v.toNat < 300 then 300 else if 2700 < v.toNat then 2700 else v.toNat }

/-- READ_ONLY_REGISTER_WRITE (22 R406): ignored. Log 104 (DESIGN CHOICE). -/
def execReadOnlyRegisterWrite (_off : Nat) (_v : Word) (s : State) : Out1 := .next s

/-- The code of a power state. -/
def PState.code : PState → Nat
  | .p0 => 0 | .p1 => 1 | .p2 => 2 | .p3 => 3

/-- A die has retired tiles. -/
def State.dieRetired (s : State) (die : Nat) : Bool := s.retired.any fun u => decide (uKind u = 0) && decide (uDie u = die)

/-- What a management register reads as (22 R406); power and temperature read 0 until time has passed after a reset. Log 104 (DESIGN CHOICE). -/
def State.mgmtReg (s : State) (off : Nat) : Option Nat :=
  match off with
  | 0x00 => some (0xA51C + Config.stepping.toNat * 2 ^ 16)
  | 0x08 => some s.pkgNum
  | 0x10 => some (s.pstate.code + (if s.cycle = 0 then 0 else (Config.watts s.fresh).toNat * 2 ^ 16))
  | 0x18 => some (if s.cycle = 0 then 0 else (Config.temperature s.fresh).toNat)
  | 0x28 => some (if unitOk s.errSelect then s.errCount s.errSelect else 0)
  | 0x30 => some (sumN ((List.range 4).map fun d => (s.dieRetired d).toNat * 2 ^ d) +
      sumN ((List.range 16).map fun p => (s.retired.contains (portUnit p)).toNat * 2 ^ (4 + p)))
  | _ => none

/-! ## Package reset (22 R411) -/

/-- RESET (22 R411): what a package reset leaves is as after reset, but for the retired units and the firmware. Log 6 (DESIGN CHOICE); 105 (DESIGN CHOICE). -/
def execReset (s : State) : Out1 :=
  .next { State.reset with
    fresh := s.fresh, outbox := s.outbox, retired := s.retired, spares := s.spares, fwStored := s.fwStored, fwRunning := s.fwStored }

end Sys2Proof.Machine
end

