-- ==== Sys2Proof/Machine/Vpu.lean ====
section
/-!
DEFINITION. Machine/Vpu.lean: what the vector and mask instructions compute from their tokens (05 R109 to
R133), lane by lane over the common element rule (05 R114).
-/
namespace Sys2Proof.Machine

/-- What a vector instruction reads: active lanes, executing lanes, seed, committed-block count and its own
index (for draws). -/
structure VCx where
  active : Nat
  ls : List Nat
  seed : Word
  n : Word
  idx : Nat
deriving DecidableEq, Repr

/-- A result token with the flags raised. -/
structure VOut where
  tok : Token
  fl : FpFlags := {}
deriving DecidableEq, Repr

/-- The draw of element `e` (03 R63). -/
def VCx.draw (cx : VCx) (e : Nat) : Nat := draw16 cx.seed cx.n (e * 32 + cx.idx)

/-- The flags of a list of results. -/
def flagsOf (l : List FpOut) : FpFlags := l.foldl (fun a o => a.or o.fl) {}

/-- The second data operand of a vector cell (05 R112): a V token, an S token or a literal. -/
inductive VArg where
  | v (t : Token)
  | s (w : Word)
deriving DecidableEq, Repr

/-- The tokens whose lanes must not be void. -/
def VArg.data : VArg → List Token
  | .v t => [t]
  | .s _ => []

/-- The elements of the second operand in a lane. -/
def VArg.elems (w : Nat) (l : Nat) : VArg → List Nat
  | .v t => Machine.elems w (t.vLane l)
  | .s x => List.replicate (eCount w) (x.toNat % 2 ^ w)

/-- The mask of an instruction: its use and its token (05 R113). -/
structure VMask where
  use : MaskUse
  tok : Token
deriving DecidableEq, Repr

/-- The mask tokens whose lanes must not be void. -/
def VMask.data (m : VMask) : List Token :=
  match m.use with
  | .none => []
  | _ => [m.tok]

/-- The mask bits of a lane; all ones without a mask. -/
def VMask.bits (m : VMask) (w l : Nat) : List Bool :=
  match m.use with
  | .none => List.replicate (eCount w) true
  | _ => maskBits w (m.tok.kLane l)

/-- One element under the mask (05 R114). -/
def maskElem (use : MaskUse) (bit : Bool) (x : Nat) (r : FpOut) : FpOut :=
  if bit then r
  else match use with
    | .keep => ⟨x, {}⟩
    | _ => ⟨0, {}⟩

/-- The elements of a lane by the common element rule: `op e x y z` with e the draw index of R63. -/
def ruleElems (w l : Nat) (use : MaskUse) (op : Nat → Nat → Nat → Nat → FpOut) :
    Nat → List Bool → List Nat → List Nat → List Nat → List FpOut
  | i, b :: bs, x :: xs, y :: ys, z :: zs =>
    maskElem use b x (if b then op (l * eCount w + i) x y z else ⟨0, {}⟩) :: ruleElems w l use op (i + 1) bs xs ys zs
  | _, _, _, _, _ => []

/-- A V result built lane by lane from lists of elements. -/
def vByLane (w : Nat) (live : List Nat) (f : Nat → List FpOut) : VOut :=
  let outs := live.map fun l => (l, f l)
  { tok := .v (laneFn fun l => (outs.find? fun o => o.1 == l).map fun o => pack w (o.2.map FpOut.bits))
    fl := flagsOf (outs.flatMap fun o => o.2) }

/-- The common element rule (05 R114) for one to three data operands. -/
def vRule (cx : VCx) (w : Nat) (m : VMask) (a : Token) (b : VArg) (c : VArg)
    (op : Nat → Nat → Nat → Nat → FpOut) : VOut :=
  vByLane w (liveLanes cx.ls ([a] ++ b.data ++ c.data ++ m.data)) fun l =>
    ruleElems w l m.use op 0 (m.bits w l) (elems w (a.vLane l)) (b.elems w l) (c.elems w l)

/-- The element rule of one data operand. -/
def vRule1 (cx : VCx) (w : Nat) (m : VMask) (a : Token) (op : Nat → Nat → FpOut) : VOut :=
  vRule cx w m a (.s 0) (.s 0) fun e x _ _ => op e x

/-- The element rule of two data operands. -/
def vRule2 (cx : VCx) (w : Nat) (m : VMask) (a : Token) (b : VArg) (op : Nat → Nat → Nat → FpOut) : VOut :=
  vRule cx w m a b (.s 0) fun e x y _ => op e x y

/-- An integer operation on element values (05 R116). -/
def iElem (t : ITy) (sat : Bool) (f : Int → Int → Int) (x y : Nat) : FpOut := ⟨iFit t sat (f (iVal t x) (iVal t y)), {}⟩

/-- The rounding mode of an element. -/
def VCx.mode (cx : VCx) (m : VMods) (e : Nat) : RMode :=
  ⟨m.rnd, m.sat, match m.rnd with
    | .sr => cx.draw e
    | _ => 0⟩

/-- VADD, VSUB and VMUL of either family (05 R116, R117). -/
def vArith (cx : VCx) (t : ETy) (m : VMods) (mk : VMask) (a : Token) (b : VArg) (fi : Int → Int → Int)
    (ff : FTy → RMode → Nat → Nat → FpOut) : VOut :=
  match t with
  | .i t => vRule2 cx (iWidth t) mk a b fun _ x y => iElem t m.sat fi x y
  | .f t => vRule2 cx (fWidth t) mk a b fun e x y => ff t (cx.mode m e) x y

/-- VMIN and VMAX (05 R116, R118). -/
def vExtreme (cx : VCx) (t : ETy) (isMax : Bool) (mk : VMask) (a : Token) (b : VArg) : VOut :=
  match t with
  | .i t => vRule2 cx (iWidth t) mk a b fun _ x y => iElem t false (pickI isMax) x y
  | .f t => vRule2 cx (fWidth t) mk a b fun _ x y => fExtreme t isMax [x, y]

/-- The pattern operations (05 R116). -/
def vPattern (cx : VCx) (t : ITy) (mk : VMask) (a : Token) (b : VArg) (f : Nat → Nat → Nat) : VOut :=
  vRule2 cx (iWidth t) mk a b fun _ x y => ⟨f x y, {}⟩

/-- VFMA (05 R117). -/
def vFma (cx : VCx) (t : FTy) (m : VMods) (a b c : Token) : VOut :=
  vRule cx (fWidth t) ⟨.none, .void⟩ a (.v b) (.v c) fun e x y z => fFma t (cx.mode m e) x y z

/-- VABS and VNEG (05 R116, R119). -/
def vSignOp (cx : VCx) (t : ETy) (absolute sat : Bool) (mk : VMask) (a : Token) : VOut :=
  match t with
  | .i t => vRule1 cx (iWidth t) mk a fun _ x =>
      ⟨iFit t sat (if absolute then ((iVal t x).natAbs : Int) else -(iVal t x)), {}⟩
  | .f t => vRule1 cx (fWidth t) mk a fun _ x => fSignOp t absolute x

/-- The functions of 03 R75 to R78. -/
def vFunc (cx : VCx) (t : FTy) (m : VMods) (mk : VMask) (a : Token) (f : RMode → Nat → FpOut) : VOut :=
  vRule1 cx (fWidth t) mk a fun e x => f (cx.mode m e) x

/-- VCMP (05 R120). -/
def vCompare (cx : VCx) (c : Cond) (t : ETy) (mk : VMask) (a : Token) (b : VArg) : VOut :=
  let w := eWidth t
  let cmp : Nat → Nat → Bool × FpFlags := fun x y =>
    match t with
    | .i t => (condHolds c (iVal t x - iVal t y), {})
    | .f t => fCompare t c x y
  let outs := (liveLanes cx.ls ([a] ++ b.data ++ mk.data)).map fun l =>
    (l, ((mk.bits w l).zip ((elems w (a.vLane l)).zip (b.elems w l))).map fun e =>
      if e.1 then cmp e.2.1 e.2.2 else (false, {}))
  { tok := .k (laneFn fun l => (outs.find? fun o => o.1 == l).map fun o => maskPack w (o.2.map Prod.fst))
    fl := (outs.flatMap fun o => o.2.map Prod.snd).foldl FpFlags.or {} }

/-- VSEL, byte by byte (05 R121). -/
def vSelect (cx : VCx) (a b k : Token) : VOut :=
  { tok := vLanes cx.ls [a, b, k] fun l =>
      pack 8 (((maskBits 8 (k.kLane l)).zip ((elems 8 (a.vLane l)).zip (elems 8 (b.vLane l)))).map fun e =>
        if e.1 then e.2.1 else e.2.2) }

/-- VCVT (05 R122): the elements of a lane. -/
def cvtElems (cx : VCx) (dst src : ETy) (m : VMods) (l : Nat) (bits : List Bool) (xs : List Nat) : List FpOut :=
  let ed := eCount (eWidth dst)
  let n := min ed (eCount (eWidth src))
  (List.range ed).map fun i =>
    if i < n ∧ bits.getD i true then convert src dst (cx.mode m (l * ed + i)) (xs.getD i 0) else ⟨0, {}⟩

/-- VCVT (05 R122). -/
def vConvert (cx : VCx) (dst src : ETy) (m : VMods) (mk : VMask) (a : Token) : VOut :=
  let bits : Nat → List Bool := fun l =>
    match mk.use with
    | .none => []
    | _ => maskBits (eWidth dst) (mk.tok.kLane l)
  vByLane (eWidth dst) (liveLanes cx.ls ([a] ++ mk.data)) fun l =>
    cvtElems cx dst src m l (bits l) (elems (eWidth src) (a.vLane l))

/-- The reduction of a set of elements (05 R124). -/
def reduceSet (t : ETy) (kind : Red) (m : RMode) (set : List Nat) : FpOut :=
  match t with
  | .i t =>
    let vs := set.map (iVal t)
    match kind with
    | .sum => ⟨iFit t m.sat (vs.foldl (· + ·) 0), {}⟩
    | .min => ⟨truncI (vs.foldl min (iMax t)) (iWidth t), {}⟩
    | .max => ⟨truncI (vs.foldl max (iMin t)) (iWidth t), {}⟩
  | .f t =>
    match kind with
    | .sum => fFinish t m (exactSum m.rnd (set.map (fDecode t)))
    | .min => if set.isEmpty then ⟨(fInf t).getD 0, {}⟩ else fExtreme t false set
    | .max => if set.isEmpty then ⟨fSign t true + (fInf t).getD 0, {}⟩ else fExtreme t true set

/-- The included elements of a lane. -/
def included (bs : List Bool) (xs : List Nat) : List Nat := ((bs.zip xs).filter fun e => e.1).map Prod.snd

/-- VREDUCE (05 R124). -/
def vReduce (cx : VCx) (t : ETy) (kind : Red) (m : VMods) (mk : VMask) (a : Token) : VOut :=
  let w := eWidth t
  vByLane w (liveLanes cx.ls ([a] ++ mk.data)) fun l =>
    reduceSet t kind (cx.mode m (l * eCount w)) (included (mk.bits w l) (elems w (a.vLane l))) ::
      List.replicate (eCount w - 1) ⟨0, {}⟩

/-- VSCAN (05 R125): `seen` holds the included elements so far, latest first. -/
def scanElems (cx : VCx) (t : ETy) (kind : Red) (m : VMods) (use : MaskUse) (e0 : Nat) :
    Nat → List Nat → List (Bool × Nat) → List FpOut
  | _, _, [] => []
  | i, seen, (b, x) :: rest =>
    let seen' := if b then x :: seen else seen
    maskElem use b x (if b then reduceSet t kind (cx.mode m (e0 + i)) seen'.reverse else ⟨0, {}⟩) ::
      scanElems cx t kind m use e0 (i + 1) seen' rest

/-- VSCAN (05 R125). -/
def vScan (cx : VCx) (t : ETy) (kind : Red) (m : VMods) (mk : VMask) (a : Token) : VOut :=
  let w := eWidth t
  vByLane w (liveLanes cx.ls ([a] ++ mk.data)) fun l =>
    scanElems cx t kind m mk.use (l * eCount w) 0 [] ((mk.bits w l).zip (elems w (a.vLane l)))

/-- VPERM (05 R126). -/
def vPerm (cx : VCx) (t : ITy) (mk : VMask) (a b : Token) : VOut :=
  let w := iWidth t
  vByLane w (liveLanes cx.ls ([a, b] ++ mk.data)) fun l =>
    let xs := elems w (a.vLane l)
    ruleElems w l mk.use (fun _ _ y _ => ⟨xs.getD (y % eCount w) 0, {}⟩) 0 (mk.bits w l) xs (elems w (b.vLane l))
      (List.replicate (eCount w) 0)

/-- VXLANE (05 R127): the source lane of lane `l`. -/
def xlaneSrc (ctl : Word) (l : Nat) : Nat := bitsN ctl (3 * l) 3

/-- VXLANE (05 R127). -/
def vXlane (cx : VCx) (a : Token) (ctl : Word) : VOut :=
  { tok := .v (laneFn fun l =>
      let j := xlaneSrc ctl l
      if cx.ls.contains l && decide (j < cx.active) && !a.voidAt j then some (a.vLane j) else none) }

/-- VBCAST (05 R128). -/
def vBcast (cx : VCx) (t : ITy) (mk : VMask) (x : Word) : VOut :=
  vRule1 cx (iWidth t) mk (.v (laneAll (some 0))) fun _ _ => ⟨x.toNat % 2 ^ iWidth t, {}⟩

/-- VIOTA (05 R128): the draw index l · E + i is the amount added to the base. -/
def vIota (cx : VCx) (t : ITy) (mk : VMask) (base : Word) : VOut :=
  vRule1 cx (iWidth t) mk (.v (laneAll (some 0))) fun e _ => ⟨truncI (iVal t base.toNat + e) (iWidth t), {}⟩

/-- Lane and element of an index (05 R129). -/
def idxPlace (w : Nat) (idx : Word) : Nat × Nat := ((idx.toNat / eCount w) % 8, idx.toNat % eCount w)

/-- VEXTR (05 R129). -/
def vExtr (cx : VCx) (t : ITy) (a : Token) (idx : Word) : Token :=
  if a.voidAny cx.active then .void
  else
    let (l, i) := idxPlace (iWidth t) idx
    if l < cx.active then .s (extT t ((elems (iWidth t) (a.vLane l)).getD i 0)) else .s 0

/-- VINS (05 R129). -/
def vIns (cx : VCx) (t : ITy) (a : Token) (x idx : Word) : VOut :=
  let w := iWidth t
  let (l', i) := idxPlace w idx
  { tok := vLanes cx.ls [a] fun l =>
      if l = l' then pack w ((elems w (a.vLane l)).set i (x.toNat % 2 ^ w)) else a.vLane l }

/-- Key x ranks before key y (05 R130); `asc` is bit 0 of the control. -/
def ranksBefore (t : ETy) (asc : Bool) (x y : Nat) : Bool :=
  match t with
  | .i t => if asc then decide (iVal t x < iVal t y) else decide (iVal t y < iVal t x)
  | .f t =>
    let a := fDecode t x
    let b := fDecode t y
    if a.isNan then false
    else if b.isNan then true
    else if asc then fLess a b else fLess b a

/-- A compared signalling NaN sets NV (05 R130). -/
def keyFlags (t : ETy) (x : Nat) : FpFlags :=
  match t with
  | .i _ => {}
  | .f t => { nv := (fDecode t x).isSig }

/-- VSORTK's indices of a lane (05 R131). -/
def sortIdx (t : ETy) (asc : Bool) (bs : List Bool) (xs : List Nat) : List Nat :=
  let es := (List.range xs.length).zip (bs.zip xs)
  let inc := es.filter fun e => e.2.1
  let out := es.filter fun e => !e.2.1
  (sortBy (fun a b => ranksBefore t asc a.2.2 b.2.2) inc).map Prod.fst ++ out.map Prod.fst

/-- VSORTK (05 R131). -/
def vSortk (cx : VCx) (t : ETy) (mk : VMask) (a : Token) (ctl : Word) : VOut :=
  let w := eWidth t
  vByLane w (liveLanes cx.ls ([a] ++ mk.data)) fun l =>
    let bs := mk.bits w l
    let xs := elems w (a.vLane l)
    let inc := included bs xs
    let fl : FpFlags := if inc.length < 2 then {} else inc.foldl (fun f x => f.or (keyFlags t x)) {}
    (sortIdx t (ctl.getLsbD 0) bs xs).map fun i => ⟨i, fl⟩

/-- VMERGE's indices of a lane, `n` of them (05 R132). -/
def mergeIdx (t : ETy) (asc : Bool) (e : Nat) (a b : List Nat) : Nat → Nat → Nat → List FpOut
  | 0, _, _ => []
  | n + 1, ia, ib =>
    let x := a.getD ia 0
    let y := b.getD ib 0
    let fl := (keyFlags t x).or (keyFlags t y)
    if ranksBefore t asc y x then ⟨e + ib, fl⟩ :: mergeIdx t asc e a b n ia (ib + 1)
    else ⟨ia, fl⟩ :: mergeIdx t asc e a b n (ia + 1) ib

/-- VMERGE (05 R132). -/
def vMerge (cx : VCx) (t : ETy) (a b : Token) (ctl : Word) : VOut :=
  let w := eWidth t
  vByLane w (liveLanes cx.ls [a, b]) fun l =>
    mergeIdx t (ctl.getLsbD 0) (eCount w) (elems w (a.vLane l)) (elems w (b.vLane l)) (eCount w) 0 0

/-- KANY and KALL (05 R133). -/
def vKtest (cx : VCx) (t : ITy) (all : Bool) (k : Token) : VOut :=
  { tok := pLanes cx.ls [k] fun l =>
      let bs := maskBits (iWidth t) (k.kLane l)
      if all then bs.all id else bs.any id }

/-- KPOP (05 R133). -/
def vKpop (cx : VCx) (t : ITy) (k : Token) : VOut :=
  let w := iWidth t
  { tok := vLanes cx.ls [k] fun l =>
      pack w (List.replicate (eCount w) ((maskBits w (k.kLane l)).filter id).length) }

end Sys2Proof.Machine
end

