-- ==== Sys2Proof/Machine/Rein.lean ====
section
/-!
DEFINITION. Machine/Rein.lean: the Rein instructions (19 R345 to R354).
-/
namespace Sys2Proof.Machine

/-! ## Running an instance (19 R345) -/

/-- What an instruction of an instance does: goes on at an index, waits with a code of R361, or stops the instance with
a cause and its Detail (19 R356). -/
inductive ReinMove where
  | go (s : State) (idx : Int)
  | wait (code : Nat)
  | stop (cause under : Nat) (va : Nat) (acc : Access)
  | finish (s : State)

/-- What an access that failed does: the instance waits for a page's change to end (14 R270), or stops with the cause in
Detail (19 R356). -/
def reinFail (e : Nat × Nat) (acc : Access) : ReinMove := if e.2 = waitCause then .wait 0 else .stop 0x148 e.2 e.1 acc

/-- The live instance whose turn it is, with its program. -/
def State.turnInst (s : State) : Option (Inst × Prog) :=
  match s.turn with
  | .inst die k =>
    match s.inst? die k with
    | some i =>
      match s.progOf i with
      | some p => if i.st = .live then some (i, p) else none
      | none => none
    | none => none
  | _ => none

/-- Instructions of a program. -/
def Prog.count (p : Prog) : Nat := p.words.length - 4

/-- An instance goes on at an index; at the program's end it stops with 0x14B (19 R345). -/
def State.reinGo (s : State) (i : Inst) (p : Prog) (idx : Int) : State :=
  if idx.toNat < p.count then s.setInst i.key fun i => { i with idx := idx.toNat, wait := 0 }
  else (s.setInst i.key fun i => { i with idx := idx.toNat }).stopInst i 0x14B 0 0 .none

/-- Performs one instruction of the instance in turn, whose turn then ends. -/
def reinRun (s : State) (f : Inst → Prog → ReinMove) : Out1 :=
  match s.turnInst with
  | none => .fault .noInstance
  | some (i, p) =>
    let idle (s : State) : Out1 := .next { s with turn := .idle }
    match f i p with
    | .go s' idx => idle (s'.reinGo i p idx)
    | .wait code => idle (s.setInst i.key fun i => { i with wait := code })
    | .stop c under va acc => idle (s.stopInst i c under va acc)
    | .finish s' => idle s'

/-- The next index. -/
def Inst.nextIdx (i : Inst) : Int := i.idx + 1
/-- A register. -/
def Inst.reg (i : Inst) (r : BitVec 4) : Word := i.g.getD r.toNat 0
/-- A descriptor. -/
def Inst.desc (i : Inst) (r : BitVec 3) : ChunkDesc := i.c.getD r.toNat ⟨0, 0, 0⟩
/-- Replaces a register. -/
def Inst.setReg (i : Inst) (r : BitVec 4) (v : Word) : Inst := { i with g := i.g.set r.toNat v }
/-- Replaces a descriptor. -/
def Inst.setDesc (i : Inst) (r : BitVec 3) (d : ChunkDesc) : Inst := { i with c := i.c.set r.toNat d }

/-- Changes the instance in turn and goes on at the next index. -/
def reinSet (s : State) (f : Inst → Inst) : Out1 :=
  reinRun s fun i _ => .go (s.setInst i.key f) i.nextIdx

/-- Writes a register from the registers (19 R346). -/
def reinReg (s : State) (a : BitVec 4) (f : Inst → Word) : Out1 := reinSet s fun i => i.setReg a (f i)

/-! ## Registers and branches (19 R346, R347) -/

/-- NOP. -/
def execNop (s : State) : Out1 := reinSet s id
/-- MOVG. -/
def execMovg (a b : BitVec 4) (s : State) : Out1 := reinReg s a fun i => i.reg b
/-- MOVI. -/
def execReinMovi (a : BitVec 4) (imm : BitVec 32) (s : State) : Out1 := reinReg s a fun _ => imm.signExtend 64
/-- ADDG. -/
def execAddg (a b c : BitVec 4) (s : State) : Out1 := reinReg s a fun i => i.reg b + i.reg c
/-- ADDI. -/
def execAddi (a b : BitVec 4) (imm : BitVec 32) (s : State) : Out1 := reinReg s a fun i => i.reg b + imm.signExtend 64
/-- SUBG. -/
def execSubg (a b c : BitVec 4) (s : State) : Out1 := reinReg s a fun i => i.reg b - i.reg c
/-- MULG. -/
def execMulg (a b c : BitVec 4) (s : State) : Out1 := reinReg s a fun i => i.reg b * i.reg c
/-- MODG: unsigned; gB when gC = 0. -/
def execModg (a b c : BitVec 4) (s : State) : Out1 :=
  reinReg s a fun i => if i.reg c = 0 then i.reg b else wordN ((i.reg b).toNat % (i.reg c).toNat)
/-- ANDG. -/
def execAndg (a b c : BitVec 4) (s : State) : Out1 := reinReg s a fun i => i.reg b &&& i.reg c
/-- SHRG. -/
def execShrg (a b c : BitVec 4) (s : State) : Out1 := reinReg s a fun i => i.reg b >>> bitsN (i.reg c) 0 6

/-- Branches by an offset when a condition holds. -/
def reinBr (s : State) (imm : BitVec 32) (f : Inst → Inst) (b : Inst → Bool) : Out1 :=
  reinRun s fun i _ => .go (s.setInst i.key f) (if b i then i.idx + imm.toInt else i.nextIdx)

/-- JMP. -/
def execJmp (imm : BitVec 32) (s : State) : Out1 := reinBr s imm id fun _ => true
/-- LOOP. -/
def execLoop (a : BitVec 4) (imm : BitVec 32) (s : State) : Out1 :=
  reinBr s imm (fun i => i.setReg a (i.reg a - 1)) fun i => i.reg a - 1 != 0
/-- BNZ. -/
def execBnz (a : BitVec 4) (imm : BitVec 32) (s : State) : Out1 := reinBr s imm id fun i => i.reg a != 0
/-- BZ. -/
def execBz (a : BitVec 4) (imm : BitVec 32) (s : State) : Out1 := reinBr s imm id fun i => i.reg a == 0

/-! ## Descriptors and peers (19 R348) -/

/-- SETCHUNK. -/
def execSetchunk (a : BitVec 3) (b c : BitVec 4) (sp : BitVec 2) (s : State) : Out1 :=
  reinSet s fun i => i.setDesc a ⟨sp.toNat, i.reg b, bitsN (i.reg c) 0 17⟩
/-- ADDC. -/
def execAddc (a : BitVec 3) (b : BitVec 4) (s : State) : Out1 :=
  reinSet s fun i => i.setDesc a { i.desc a with addr := (i.desc a).addr + i.reg b }

/-- The rank that PEER names, or all ones. -/
def peerRank (kind : PeerKind) (r size : Nat) (b : Word) (c : Nat) : Word :=
  let rank (ok : Bool) (v : Nat) : Word := if ok then wordN v else wordI (-1)
  match kind with
  | .ring => rank (decide (size ≠ 0)) (((r : Int) + b.toInt).emod size).toNat
  | .xor => rank (decide (r ^^^ b.toNat < size)) (r ^^^ b.toNat)
  | .parent => rank (decide (0 < r) && decide (1 ≤ b.toNat)) ((r - 1) / b.toNat)
  | .child _ =>
    let v := r * b.toNat + 1 + c
    rank (decide (1 ≤ b.toNat) && decide (c < b.toNat) && decide (v < size)) v

/-- PEER. -/
def execPeer (a b : BitVec 4) (kind : PeerKind) (s : State) : Out1 :=
  reinReg s a fun i => peerRank kind i.rank i.size (i.reg b) (match kind with
    | .child c => (i.reg c).toNat
    | _ => 0)

/-! ## Chunks (19 R349, R350, R351) -/

/-- A descriptor that an operand outside the landing streams accepts (19 R338). -/
def Prog.operandOk (p : Prog) (d : ChunkDesc) : Bool := decide (d.space ≠ 3) && p.descOk d

/-- SEND (19 R349). -/
def execSend (a : BitVec 3) (b : BitVec 4) (c : BitVec 3) (s : State) : Out1 :=
  reinRun s fun i p =>
    let peer := (i.reg b).toNat
    let src := i.desc a
    let dst := { i.desc c with space := 1 }
    if i.size ≤ peer then .stop 0x147 0 0 .none
    else if !p.operandOk src || !p.descOk dst || decide (src.bytes ≠ dst.bytes) then .stop 0x148 0x081 0 .none
    else if 16 ≤ i.out.length then .wait 4
    else
      let o : Outstanding := ⟨peer, countOf i.sendSeq peer, src, dst.addr.toNat, 0, false⟩
      match s.sendChunk p i o with
      | .error e => reinFail e .engineRead
      | .ok s' => .go (s'.setInst i.key fun i =>
          { i with out := i.out ++ [o], sendSeq := setCount i.sendSeq peer ((o.seq + 1) % 2 ^ 32) }) i.nextIdx

/-- RECV (19 R350): what landed stands at its home and in the die's copies since it landed. Log 62 (DEDUCED). -/
def execRecv (a : BitVec 3) (b : BitVec 4) (s : State) : Out1 :=
  reinRun s fun i _ =>
    let peer := (i.reg b).toNat
    if i.size ≤ peer then .stop 0x147 0 0 .none
    else
      let k := countOf i.recvSeq peer
      match i.verified.find? fun v => v.1 == peer && v.2.1 == k with
      | none => .wait 1
      | some v =>
        .go (s.setInst i.key fun i =>
          { (i.setDesc a ⟨1, wordN v.2.2.1, v.2.2.2⟩) with recvSeq := setCount i.recvSeq peer ((k + 1) % 2 ^ 32) }) i.nextIdx

/-- WAIT (19 R351). -/
def execWait (b : BitVec 4) (s : State) : Out1 :=
  reinRun s fun i _ =>
    let peer := (i.reg b).toNat
    if i.size ≤ peer then .stop 0x147 0 0 .none
    else if countOf i.sigs peer = 0 then .wait 2
    else .go (s.setInst i.key fun i => { i with sigs := setCount i.sigs peer (countOf i.sigs peer - 1) }) i.nextIdx

/-- SIGNAL (19 R351): sent, and sent again while it is refused (21 R371). Log 60 (DEDUCED). -/
def execReinSignal (b : BitVec 4) (s : State) : Out1 :=
  reinRun s fun i p =>
    let peer := (i.reg b).toNat
    if i.size ≤ peer then .stop 0x147 0 0 .none
    else
      let dst := p.rankAt peer
      let x : SigOut := ⟨⟨dst.2, s.tagOf i.ctx, i.id, i.n, i.rank, s.keys, s.pkgNum, i.die, peer⟩, i.ctx, dst.1, false⟩
      .go (({ s with signals := s.signals ++ [x], keys := s.keys + 1 } : State).sendSignal x) i.nextIdx

/-! ## Data (19 R352, R353) -/

/-- Writes a descriptor's bytes (19 R355); none while another party's lease covers one. -/
def State.writeChunk (s : State) (p : Prog) (i : Inst) (d : ChunkDesc) (bs : List XByte) : Option (Except (Nat × Nat) State) :=
  match p.place i d with
  | (none, va) => if s.areaBlocked i.die i.ctx va d.bytes then none else some (s.areaWrite i.die i.ctx va bs)
  | (pt, va) =>
    if s.xblocked none pt i.ctx va d.bytes .engineWrite then none else some (s.xwrite pt i.ctx va bs .engineWrite)

/-- Writes a descriptor's bytes and goes on; bytes written restart the stall watchdog (17 R322). -/
def State.reinPut (s : State) (p : Prog) (i : Inst) (d : ChunkDesc) (bs : List XByte) : ReinMove :=
  match s.writeChunk p i d bs with
  | none => .wait 0
  | some (.error e) => reinFail e .engineWrite
  | some (.ok s') => .go (s'.progress i.ctx) i.nextIdx

/-- The rounding of a REDUCE. -/
def reinMode : ETy → RMode
  | .f .e4m3 => { rnd := .rne, sat := true }
  | _ => RMode.near

/-- The elements of bytes at a width below a byte too. -/
def bytesElems (w : Nat) (bs : List Byte) : List Nat := elemsFrom w (8 * bs.length / w) (ofBytes bs)

/-- REDUCE on bytes: element by element (19 R352). -/
def reinReduce (op : Red) (t : ETy) (xs ys : List Byte) : List Byte :=
  let w := eWidth t
  bytesOf (packN w ((bytesElems w xs).zipWith (fun x y => (reduceSet t op (reinMode t) [x, y]).bits) (bytesElems w ys))) xs.length

/-- The poison of the bytes of two operands together: an element of a poisoned byte is poisoned. -/
def reinTaint (w : Nat) (xs ys : List XByte) : List Bool :=
  let k := if w ≤ 8 then 1 else w / 8
  (List.range xs.length).map fun j =>
    (List.range k).any fun q =>
      (xs.getD (j / k * k + q) (0, false)).2 || (ys.getD (j / k * k + q) (0, false)).2

/-- REDUCE (19 R352). -/
def execReduce (a b c : BitVec 3) (op : Red) (t : ETy) (s : State) : Out1 :=
  reinRun s fun i p =>
    let dst := i.desc a
    let x := i.desc b
    let y := i.desc c
    if !p.operandOk dst || !p.operandOk x || !p.operandOk y || decide (x.bytes ≠ dst.bytes) || decide (y.bytes ≠ dst.bytes) then
      .stop 0x148 0x081 0 .none
    else match s.readChunk p i x with
      | .error e => reinFail e .engineRead
      | .ok (xs, s1) =>
        match s1.readChunk p i y with
        | .error e => reinFail e .engineRead
        | .ok (ys, s2) =>
          s2.reinPut p i dst ((reinReduce op t (xs.map Prod.fst) (ys.map Prod.fst)).zip (reinTaint (eWidth t) xs ys))

/-- The landing stream of an index of a collective on the starter's tile (08 R189): its group, register and binding. -/
def State.landingStream (s : State) (i : Inst) (idx : Nat) : Option (Place × Nat × Stream) :=
  s.groups.findSome? fun g =>
    if g.ctx = i.ctx ∧ g.place.die = i.who.die ∧ g.place.tile = i.who.tile then
      ((List.range 8).findSome? fun r =>
        match g.s.getD r none with
        | some st =>
          match st.src with
          | .rein _ id j => if id = i.id ∧ j = idx then some (g.place, r, st) else none
          | _ => none
        | none => none)
    else none

/-- Bytes that a landing stream buffers (17 R316). Log 66 (DESIGN CHOICE). -/
def landingCap : Nat := 16384

/-- An element of bytes with their poison; the granule that a READ names is the source's. -/
def xelem (va : Nat) (bs : List XByte) : SElem :=
  .data (bs.map Prod.fst) (if bs.any Prod.snd then some (va / 64 * 64) else none)

/-- COPY into a landing stream (19 R353). Log 135 (DESIGN CHOICE). -/
def State.copyStream (s : State) (p : Prog) (i : Inst) (dst src : ChunkDesc) : ReinMove :=
  match s.landingStream i (bitsN dst.addr 0 4) with
  | none => .wait 5
  | some (g, r, st) =>
    let eb := elemBytes st.vec st.lanes
    if src.bytes % eb ≠ 0 then .stop 0x148 0x081 0 .none
    else if landingCap < st.buf.length * eb + src.bytes then .wait 5
    else match s.readChunk p i src with
      | .error e => reinFail e .engineRead
      | .ok (xs, s') =>
        let n := src.bytes / eb
        let es := (List.range n).map fun k => xelem ((p.place i src).2 + k * eb) ((xs.drop (k * eb)).take eb)
        .go ((s'.progress i.ctx).setGroup g fun g => { g with
          s := updAt g.s r fun st => st.map fun x => { x with buf := x.buf ++ es, fetched := x.fetched + n } }) i.nextIdx

/-- COPY (19 R353). -/
def execCopy (a b : BitVec 3) (s : State) : Out1 :=
  reinRun s fun i p =>
    let dst := i.desc a
    let src := i.desc b
    if !p.operandOk src || !p.descOk dst || decide (src.bytes ≠ dst.bytes) then .stop 0x148 0x081 0 .none
    else if dst.space = 3 then s.copyStream p i dst src
    else match s.readChunk p i src with
      | .error e => reinFail e .engineRead
      | .ok (xs, s') => s'.reinPut p i dst xs

/-- TAGCHK (19 R353). -/
def execTagchk (a : BitVec 4) (b : BitVec 3) (s : State) : Out1 :=
  reinRun s fun i p =>
    if !p.operandOk (i.desc b) then .stop 0x148 0x081 0 .none
    else match s.readChunk p i (i.desc b) with
      | .error e => reinFail e .engineRead
      | .ok (xs, s') => .go (s'.setInst i.key fun i => i.setReg a ((crc32c (xs.map Prod.fst)).setWidth 64)) i.nextIdx

/-! ## Ends (19 R354) -/

/-- FENCE (19 R354): every write of the instance is performed as its instruction is. -/
def execReinFence (s : State) : Out1 := reinRun s fun i _ => if i.out.isEmpty then .go s i.nextIdx else .wait 3

/-- DONE (19 R354). -/
def execDone (s : State) : Out1 := reinRun s fun i _ => if i.out.isEmpty then .finish (s.completeRein i) else .wait 3

end Sys2Proof.Machine
end

