-- ==== Sys2Proof/Machine/ReinEvents.lean ====
section
/-!
DEFINITION. Machine/ReinEvents.lean: the steps of the rein engines beside their programs: starting an instance, and
chunks, answers, signals and aborts as they arrive (19 R351, R359; 21 R369 to R373).
-/
namespace Sys2Proof.Machine

/-- The staging copy of an instance (19 R359): from g8, or on a rerun from the other buffer's staging area. Log 62 (DEDUCED). -/
def State.stage (s : State) (p : Prog) (i : Inst) : Option (Except (Nat × Nat) State) :=
  let n := p.areaBytes false
  let src : Option Nat × Nat := if i.rerun then (none, p.area (i.n + 1) false) else (some i.die, (i.reg 8).toNat)
  if s.areaBlocked i.die i.ctx (p.area i.n false) n then none
  else match s.xread src.1 i.ctx src.2 n .engineRead with
    | .error e => if e.2 = waitCause then none else some (.error e)
    | .ok (xs, s') =>
      match s'.areaWrite i.die i.ctx (p.area i.n false) xs with
      | .error e => if e.2 = waitCause then none else some (.error e)
      | .ok s2 => some (.ok (s2.progress i.ctx))

/-- INSTANCE_START (19 R359): the staging copy, then the program may run from index 0; an abort that waited for the copy takes
effect (21 R373). -/
def execInstanceStart (die k : Nat) (s : State) : Out1 :=
  match s.inst? die k with
  | none => .next s
  | some i =>
    if i.st ≠ .live ∨ i.began then .next s
    else match s.progOf i with
      | none => .next s
      | some p =>
        let go (s : State) : State := if i.doomed then s.abortNow p i else s.setInst k fun i => { i with began := true, wait := 0 }
        if i.staging p then
          match s.stage p i with
          | none => .next s
          | some (.ok s') => .next (go s')
          | some (.error e) => .next (if i.doomed then s.abortNow p i else s.stopInst i 0x148 e.2 e.1 .engineRead)
        else .next (go s)

/-! ## Arrival (21 R369) -/

/-- The program that a message for a job's collective meets on a die. -/
def State.jobProg (s : State) (die job id : Nat) : Option Prog :=
  s.progs.find? fun p => p.die == die && p.id == id && s.tagOf p.ctx == job

/-- The actions of R369's table. -/
inductive Meets where
  | refused
  | dropped
  | accepted (p : Prog) (i : Inst)

/-- What a message for instance n meets, past the table's first row. -/
def State.meets (s : State) (die job id n : Nat) : Meets :=
  match s.jobProg die job id with
  | none => .refused
  | some p =>
    match p.next with
    | none => .refused
    | some next =>
      let d := (next + 131072 - 1 - n) % 65536
      if 32768 ≤ d then .refused
      else if 2 ≤ d then .dropped
      else match (s.instsOf die p.ctx id).find? fun i => i.n == n with
        | some i => if i.st = .live then .accepted p i else .dropped
        | none => .dropped

/-- The outstanding SENDs of this package that a name may mean. -/
def Inst.named (s : State) (i : Inst) (job id n : Nat) : Bool :=
  i.isLive && i.id == id && i.n == n && s.tagOf i.ctx == job

/-- The outstanding SEND of a name. -/
def Inst.outOf (i : Inst) (nm : ChunkName) : Option Outstanding := i.out.find? fun o => o.peer == nm.peer && o.seq == nm.seq

/-- Replaces an outstanding SEND. -/
def Inst.setOut (i : Inst) (nm : ChunkName) (f : Outstanding → Outstanding) : Inst :=
  { i with out := i.out.map fun o => if o.peer = nm.peer ∧ o.seq = nm.seq then f o else o }

/-- The instance of this package that sent a named chunk. -/
def State.sender (s : State) (nm : ChunkName) : Option Inst :=
  s.insts.find? fun i => i.die == nm.die && i.named s nm.job nm.id nm.n

/-- A chunk or signal of this package has been refused (21 R371). -/
def State.markRefused (s : State) (nm : ChunkName) : State :=
  if nm.sig then { s with signals := s.signals.map fun x => if signalName x.m x.pkg = nm then { x with refused := true } else x }
  else match s.sender nm with
    | some i => s.setInst i.key fun i => i.setOut nm fun o => { o with refused := true }
    | none => s

/-- Tells a sender that its chunk or signal is refused (21 R371). Log 59 (DEDUCED). -/
def State.refuse (s : State) (pkg : Nat) (nm : ChunkName) : State :=
  if pkg = s.pkgNum then s.markRefused nm else { s with outbox := s.outbox ++ [.refused pkg nm] }

/-- Acknowledges a chunk or signal. Log 59 (DEDUCED). -/
def State.ack (s : State) (pkg : Nat) (nm : ChunkName) : State := s.toRank pkg (.chunkAck nm) (.ack pkg nm)
/-- Refuses a chunk's tag or extent. Log 59 (DEDUCED). -/
def State.nak (s : State) (pkg : Nat) (nm : ChunkName) : State := s.toRank pkg (.chunkNak nm) (.chunkNak pkg nm)

/-- The first row of the table: the byte count, or the end beyond the landing area of the program met. -/
def State.chunkBad (s : State) (die : Nat) (ch : Chunk) : Bool :=
  decide (ch.bytes.length < 16) || decide (65536 < ch.bytes.length) ||
    (match s.jobProg die ch.job ch.id with
      | some p => decide (p.areaBytes true < ch.offset + ch.bytes.length)
      | none => false)

/-- CHUNK_ARRIVAL (21 R369); from a package outside the pod it is refused (17 R319). -/
def execChunkArrival (die : Nat) (ch : Chunk) (s : State) : Out1 :=
  let s := s.heard ch.pkg
  let nm := chunkName ch s.pkgNum
  if s.outside ch.pkg then .next (s.refuse ch.pkg nm)
  else if s.chunkBad die ch then .next (s.nak ch.pkg nm)
  else match s.meets die ch.job ch.id ch.n with
    | .refused => .next (s.refuse ch.pkg nm)
    | .dropped => .next (s.ack ch.pkg nm)
    | .accepted _ i =>
      if i.verified.any fun v => v.1 == ch.rank && v.2.1 == ch.seq then .next (s.ack ch.pkg nm)
      else .next { s with landings := s.landings ++ [⟨s.keys, die, i.key, ch⟩], keys := s.keys + 1 }

/-! ## Landing (21 R370) -/

/-- The bytes of a chunk with their poison. -/
def chunkXBytes (ch : Chunk) : List XByte :=
  (List.range ch.bytes.length).zipWith (fun k b => (b, ch.bad.contains k)) ch.bytes

/-- Writes a landing's bytes up to the page that fails. Log 62 (DEDUCED). -/
def State.landBytes (s : State) (die c va : Nat) (bs : List XByte) : State × Option (Nat × Nat) :=
  let k := 65536 - va % 65536
  match s.areaWrite die c va (bs.take k) with
  | .error e => (s, some e)
  | .ok s1 =>
    match s1.areaWrite die c (va + k) (bs.drop k) with
    | .error e => (s1, some e)
    | .ok s2 => (s2, none)

/-- A verified landing: its sequence number is marked, its bytes are credited, its sender is told. -/
def State.verify (s : State) (i : Inst) (ch : Chunk) : State :=
  let s := s.setInst i.key fun i => { i with verified := i.verified ++ [(ch.rank, ch.seq, ch.offset, ch.bytes.length)] }
  let s := if i.credit then s.instBar i (-(ch.bytes.length : Int)) 0 else s
  (s.progress i.ctx).ack ch.pkg (chunkName ch s.pkgNum)

/-- What follows the landing of a chunk of a live instance, once its bytes are written or one met a fault. -/
def State.landed (s : State) (i : Inst) (ch : Chunk) : Option (Nat × Nat) → State
  | some e => (s.stopInst i 0x148 e.2 e.1 .engineWrite).ack ch.pkg (chunkName ch s.pkgNum)
  | none =>
    if i.verified.any fun v => v.1 == ch.rank && v.2.1 == ch.seq then s.ack ch.pkg (chunkName ch s.pkgNum)
    else if chunkTag ch ≠ ch.crc then s.nak ch.pkg (chunkName ch s.pkgNum)
    else s.verify i ch

/-- CHUNK_LAND (21 R370). -/
def execChunkLand (die k : Nat) (s : State) : Out1 :=
  match s.landings.find? fun l => l.die == die && l.key == k with
  | none => .next s
  | some l =>
    let drop (s : State) : State := { s with landings := s.landings.filter fun x => x.key != k }
    let gone : State := (drop s).ack l.ch.pkg (chunkName l.ch s.pkgNum)
    match s.inst? die l.inst with
    | none => .next gone
    | some i =>
      match s.progOf i with
      | none => .next gone
      | some p =>
        let va := p.area i.n true + l.ch.offset
        if i.st ≠ .live then .next gone
        else if s.areaBlocked die i.ctx va l.ch.bytes.length then .next s
        else
          let r := s.landBytes die i.ctx va (chunkXBytes l.ch)
          .next (if (r.2.map Prod.snd) = some waitCause then s else (drop r.1).landed i l.ch r.2)

/-! ## Answers (19 R349; 21 R370, R371) -/

/-- CHUNK_ACK (19 R349), of a chunk or a signal; one from outside the pod is dropped (17 R319). -/
def execChunkAck (nm : ChunkName) (s : State) : Out1 :=
  let s := s.heard nm.pkg
  if s.outside nm.pkg then .next s
  else if nm.sig then .next { s with signals := s.signals.filter fun x => signalName x.m x.pkg != nm }
  else match s.sender nm with
    | none => .next s
    | some i => .next (s.setInst i.key fun i => { i with out := i.out.filter fun o => !(o.peer == nm.peer && o.seq == nm.seq) })

/-- Sends an outstanding chunk again, its source read again. Log 58 (DEDUCED). -/
def State.resend (s : State) (i : Inst) (o : Outstanding) : State :=
  match s.progOf i with
  | none => s
  | some p =>
    match s.sendChunk p i o with
    | .ok s' => s'
    | .error e =>
      if e.2 = waitCause then s.setInst i.key fun x =>
        { x with out := x.out.map fun y => if y.peer = o.peer ∧ y.seq = o.seq then { y with refused := true } else y }
      else if i.st = .live then s.stopInst i 0x148 e.2 e.1 .engineRead else s

/-- CHUNK_NAK (21 R370): sent again, or the sixteenth failure running stops the sender; one from outside the pod is dropped
(17 R319). -/
def execChunkNak (nm : ChunkName) (s : State) : Out1 :=
  let s := s.heard nm.pkg
  if s.outside nm.pkg then .next s
  else match s.sender nm with
  | none => .next s
  | some i =>
    match i.outOf nm with
    | none => .next s
    | some o =>
      let s := s.setInst i.key fun i => i.setOut nm fun o => { o with tries := o.tries + 1 }
      if 16 ≤ o.tries + 1 then .next (if i.st = .live then s.stopInst i 0x149 0 0 .none else s)
      else .next (s.resend i o)

/-- A SEND whose receiver lies on another package. -/
def State.isAway (s : State) (i : Inst) (o : Outstanding) : Bool :=
  match s.progOf i with
  | some p => decide ((p.rankAt o.peer).1 ≠ s.pkgNum)
  | none => false

/-- The receiver of a SEND has been heard of. -/
def State.heardPeer (s : State) (i : Inst) (o : Outstanding) : State :=
  match s.progOf i with
  | some p => s.heard (p.rankAt o.peer).1
  | none => s

/-- CHUNK_RETRY_TIMER (21 R371): a refused chunk or signal is sent again after 1 µs; one refused by another package is known by
this step, and so has been heard of (22 R403). Log 12 (DESIGN CHOICE); 59 (DEDUCED). -/
def execChunkRetryTimer (nm : ChunkName) (s : State) : Out1 :=
  if nm.sig then
    match s.signals.find? fun x => signalName x.m x.pkg == nm with
    | none => .next s
    | some x =>
      if x.refused || decide (x.pkg ≠ s.pkgNum) then
        let s := s.heard x.pkg
        .next (({ s with signals := s.signals.map fun y => if y.m = x.m then { y with refused := false } else y } : State).sendSignal x)
      else .next s
  else match s.sender nm with
    | none => .next s
    | some i =>
      match i.outOf nm with
      | none => .next s
      | some o =>
        if o.refused || s.isAway i o then
          let s := s.heardPeer i o
          .next ((s.setInst i.key fun i => i.setOut nm fun o => { o with refused := false }).resend i o)
        else .next s

/-! ## Signals and aborts (19 R351, R360; 21 R373) -/

/-- The count after a signal; beyond 65,535 the spec states none. Log 61 (DESIGN CHOICE). -/
def sigNext (c free : Nat) : Nat := if c < 65535 then c + 1 else free % 65536

/-- SIGNAL_ARRIVAL (19 R351): one accepted is counted exactly once; one from a package outside the pod is lost (17 R319).
Log 61 (DESIGN CHOICE). -/
def execSignalArrival (m : SignalMsg) (s : State) : Out1 :=
  let s := s.heard m.pkg
  let nm := signalName m s.pkgNum
  if s.outside m.pkg then .next s
  else match s.meets m.die m.job m.id m.n with
    | .refused => .next (s.refuse m.pkg nm)
    | .dropped => .next (s.ack m.pkg nm)
    | .accepted _ i =>
      if i.sigSeen.contains (m.rank, m.seq) then .next (s.ack m.pkg nm)
      else
        .next (((s.setInst i.key fun i =>
          { i with
            sigs := setCount i.sigs m.rank (sigNext (countOf i.sigs m.rank) (Config.choice s.fresh))
            sigSeen := (m.rank, m.seq) :: i.sigSeen }).draw).ack m.pkg nm)

/-- ABORT_ARRIVAL (21 R373); where the collective is not loaded yet it waits as a refused message does, and one from outside the
pod is dropped (17 R319). Log 60 (DEDUCED). -/
def execAbortArrival (m : RankMsg) (s : State) : Out1 :=
  let s := s.heard m.pkg
  if s.outside m.pkg then .next s
  else match s.jobProg m.die m.job m.id with
  | none => .next { s with later := s.later ++ [.abortArrival m] }
  | some p => .next (s.abortLocal m.die p.ctx m.id m.n)

end Sys2Proof.Machine
end

