-- ==== Sys2Proof/Machine/Scalar.lean ====
section
/-!
DEFINITION. Machine/Scalar.lean: the scalar integer, address, compare and predicate instructions (04 R94 to R98).
-/
namespace Sys2Proof.Machine

/-- The second operand of a cell of three forms. -/
def Env.sOp (e : Env) (f : SForm) : Word := formWord f (e.word .r) e.lit
/-- The second operand of a cell that takes .sat. -/
def Env.satOp (e : Env) (f : SatForm) : Word := satWord f (e.word .r) e.lit

/-- ADD (04 R95). -/
def execAdd (c : Ctl) (t : ITy) (f : SatForm) (s : State) : Out1 :=
  settle (.add c t f) s fun e => e.done (.s (aluVal t (satBit f) (· + ·) (e.word .l) (e.satOp f)))

/-- SUB (04 R95). -/
def execSub (c : Ctl) (t : ITy) (f : SatForm) (s : State) : Out1 :=
  settle (.sub c t f) s fun e => e.done (.s (aluVal t (satBit f) (· - ·) (e.word .l) (e.satOp f)))

/-- MUL (04 R95). -/
def execMul (c : Ctl) (t : ITy) (f : SatForm) (s : State) : Out1 :=
  settle (.mul c t f) s fun e => e.done (.s (aluVal t (satBit f) (· * ·) (e.word .l) (e.satOp f)))

/-- DIV (04 R95). -/
def execDiv (c : Ctl) (t : ITy) (f : SatForm) (s : State) : Out1 :=
  settle (.div c t f) s fun e => e.done (.s (aluVal t (satBit f) divI (e.word .l) (e.satOp f)))

/-- REM (04 R95). -/
def execRem (c : Ctl) (t : ITy) (f : SatForm) (s : State) : Out1 :=
  settle (.rem c t f) s fun e => e.done (.s (aluVal t (satBit f) remI (e.word .l) (e.satOp f)))

/-- MULH (04 R95). -/
def execMulh (c : Ctl) (t : ITy) (f : SForm) (s : State) : Out1 :=
  settle (.mulh c t f) s fun e => e.done (.s (aluVal t false (mulhI (iWidth t)) (e.word .l) (e.sOp f)))

/-- MAD (04 R95): the literal form takes the place of the last slot. -/
def execMad (c : Ctl) (t : ITy) (f : MadForm) (s : State) : Out1 :=
  settle (.mad c t f) s fun e =>
    let r : Word × Bool := match f with
      | .p sat => (e.word .t, sat)
      | .l k sat => (e.lit k, sat)
    e.done (.s (fitWord t r.2 (iVal t (e.word .l).toNat * iVal t (e.word .r).toNat + iVal t r.1.toNat)))

/-- NEG (04 R95). -/
def execNeg (c : Ctl) (t : ITy) (sat : Bool) (s : State) : Out1 :=
  settle (.neg c t sat) s fun e => e.done (.s (fitWord t sat (-(iVal t (e.word .l).toNat))))

/-- ABS (04 R95). -/
def execAbs (c : Ctl) (t : ITy) (sat : Bool) (s : State) : Out1 :=
  settle (.abs c t sat) s fun e => e.done (.s (fitWord t sat (iVal t (e.word .l).toNat).natAbs))

/-- MIN (04 R95). -/
def execMin (c : Ctl) (t : ITy) (f : SForm) (s : State) : Out1 :=
  settle (.min c t f) s fun e => e.done (.s (aluVal t false (pickI false) (e.word .l) (e.sOp f)))

/-- MAX (04 R95). -/
def execMax (c : Ctl) (t : ITy) (f : SForm) (s : State) : Out1 :=
  settle (.max c t f) s fun e => e.done (.s (aluVal t false (pickI true) (e.word .l) (e.sOp f)))

/-- AND (04 R95). -/
def execAnd (c : Ctl) (t : ITy) (f : SForm) (s : State) : Out1 :=
  settle (.and c t f) s fun e => e.done (.s (aluPat t (· &&& ·) (e.word .l) (e.sOp f)))

/-- OR (04 R95). -/
def execOr (c : Ctl) (t : ITy) (f : SForm) (s : State) : Out1 :=
  settle (.or c t f) s fun e => e.done (.s (aluPat t (· ||| ·) (e.word .l) (e.sOp f)))

/-- XOR (04 R95). -/
def execXor (c : Ctl) (t : ITy) (f : SForm) (s : State) : Out1 :=
  settle (.xor c t f) s fun e => e.done (.s (aluPat t (· ^^^ ·) (e.word .l) (e.sOp f)))

/-- SHL (04 R95). -/
def execShl (c : Ctl) (t : ITy) (f : SForm) (s : State) : Out1 :=
  settle (.shl c t f) s fun e => e.done (.s (aluPat t (shlPat t) (e.word .l) (e.sOp f)))

/-- SHR (04 R95). -/
def execShr (c : Ctl) (t : ITy) (f : SForm) (s : State) : Out1 :=
  settle (.shr c t f) s fun e => e.done (.s (aluPat t (shrPat t) (e.word .l) (e.sOp f)))

/-- SRA (04 R95). -/
def execSra (c : Ctl) (t : ITy) (f : SForm) (s : State) : Out1 :=
  settle (.sra c t f) s fun e => e.done (.s (aluPat t (sraPat t) (e.word .l) (e.sOp f)))

/-- ROT (04 R95). -/
def execRot (c : Ctl) (t : ITy) (f : SForm) (s : State) : Out1 :=
  settle (.rot c t f) s fun e => e.done (.s (aluPat t (rotPat t) (e.word .l) (e.sOp f)))

/-- NOT (04 R95). -/
def execNot (c : Ctl) (t : ITy) (s : State) : Out1 :=
  settle (.not c t) s fun e => e.done (.s (extT t (2 ^ iWidth t - 1 - patOf t (e.word .l))))

/-- CLZ (04 R95). -/
def execClz (c : Ctl) (t : ITy) (s : State) : Out1 :=
  settle (.clz c t) s fun e => e.done (.s (wordN (clzPat (iWidth t) (patOf t (e.word .l)))))

/-- POPC (04 R95). -/
def execPopc (c : Ctl) (t : ITy) (s : State) : Out1 :=
  settle (.popc c t) s fun e => e.done (.s (wordN (popPat (iWidth t) (patOf t (e.word .l)))))

/-- BFX (04 R96). -/
def execBfx (c : Ctl) (t : ITy) (f : BfForm) (s : State) : Out1 :=
  settle (.bfx c t f) s fun e => e.done (.s (aluBfx t (e.word .l) (bfWord f (e.word .r))))

/-- BFI (04 R96). -/
def execBfi (c : Ctl) (t : ITy) (f : BfForm) (s : State) : Out1 :=
  settle (.bfi c t f) s fun e => e.done (.s (aluBfi t (e.word .l) (e.word .r) (bfWord f (e.word .t))))

/-- LEA (04 R95). -/
def execLea (c : Ctl) (t : ITy) (f : SForm) (s : State) : Out1 :=
  settle (.lea c t f) s fun e => e.done (.s (aluLea t (e.word .l) (e.sOp f)))

/-- SEXT (04 R95). -/
def execSext (c : Ctl) (t : ITy) (s : State) : Out1 :=
  settle (.sext c t) s fun e => e.done (.s (wordI (sextN (patOf t (e.word .l)) (iWidth t))))

/-- ZEXT (04 R95). -/
def execZext (c : Ctl) (t : ITy) (s : State) : Out1 :=
  settle (.zext c t) s fun e => e.done (.s (wordN (patOf t (e.word .l))))

/-- CMP (04 R97). -/
def execCmp (c : Ctl) (cond : Cond) (t : ITy) (f : SForm) (s : State) : Out1 :=
  settle (.cmp c cond t f) s fun e => e.done (pLanes e.exec [] fun _ => aluCmp cond t (e.word .l) (e.sOp f))

/-- PAND (04 R98). -/
def execPand (c : Ctl) (s : State) : Out1 :=
  settle (.pand c) s fun e => e.done (aluP2 e.exec (· && ·) (e.tok .l) (e.tok .r))

/-- POR (04 R98). -/
def execPor (c : Ctl) (s : State) : Out1 :=
  settle (.por c) s fun e => e.done (aluP2 e.exec (· || ·) (e.tok .l) (e.tok .r))

/-- PXOR (04 R98). -/
def execPxor (c : Ctl) (s : State) : Out1 :=
  settle (.pxor c) s fun e => e.done (aluP2 e.exec (· ^^ ·) (e.tok .l) (e.tok .r))

/-- PNOT (04 R98). -/
def execPnot (c : Ctl) (s : State) : Out1 :=
  settle (.pnot c) s fun e => e.done (pLanes e.exec [e.tok .l] fun l => !(e.tok .l).pLane l)

/-- PLANE (04 R98). -/
def execPlane (c : Ctl) (imm : BitVec 8) (s : State) : Out1 :=
  settle (.plane c imm) s fun e => e.done (pLanes e.exec [] fun l => imm.getLsbD l)

/-- PCOUNT (04 R98). -/
def execPcount (c : Ctl) (s : State) : Out1 :=
  settle (.pcount c) s fun e => e.done (aluPcount e.active (e.tok .l))

end Sys2Proof.Machine
end

