-- ==== Sys2Proof/Machine/Vector.lean ====
section
/-!
DEFINITION. Machine/Vector.lean: the vector, mask and special-function instructions (05 R109 to R133).
-/
namespace Sys2Proof.Machine

/-- What the vector unit reads of a firing: seed and count as at the block's start (03 R63). -/
def Env.vcx (e : Env) : VCx := ⟨e.active, e.exec, e.g.seed, e.g.count, e.r.cur⟩
/-- The second operand of a vector cell (05 R112). -/
def Env.arg (e : Env) : VForm → VArg
  | .v => .v (e.tok .r)
  | .s => .s (e.word .r)
  | .l k => .s (e.lit k)
/-- The mask: the slot after the data slots (05 R113). -/
def Env.mask (e : Env) (use : MaskUse) : VMask := ⟨use, e.tok (slotAt ((needsOf e.i).length - 1))⟩
/-- The firing with a vector result. -/
def Env.vout (e : Env) (o : VOut) : Fire := .ok { s := e.s, res := o.tok, fl := o.fl }

/-- VADD (05 R116, R117). -/
def execVadd (c : Ctl) (t : ETy) (f : VForm) (m : VMods) (s : State) : Out1 :=
  settle (.vadd c t f m) s fun e => e.vout (vArith e.vcx t m (e.mask m.mask) (e.tok .l) (e.arg f) (· + ·) fAdd)

/-- VSUB (05 R116, R117). -/
def execVsub (c : Ctl) (t : ETy) (f : VForm) (m : VMods) (s : State) : Out1 :=
  settle (.vsub c t f m) s fun e => e.vout (vArith e.vcx t m (e.mask m.mask) (e.tok .l) (e.arg f) (· - ·) fSub)

/-- VMUL (05 R116, R117). -/
def execVmul (c : Ctl) (t : ETy) (f : VForm) (m : VMods) (s : State) : Out1 :=
  settle (.vmul c t f m) s fun e => e.vout (vArith e.vcx t m (e.mask m.mask) (e.tok .l) (e.arg f) (· * ·) fMul)

/-- VDIV (05 R117, R123). -/
def execVdiv (c : Ctl) (t : FTy) (f : VForm) (m : VMods) (s : State) : Out1 :=
  settle (.vdiv c t f m) s fun e => e.vout (vArith e.vcx (.f t) m (e.mask m.mask) (e.tok .l) (e.arg f) divI fDiv)

/-- VMIN (05 R116, R118). -/
def execVmin (c : Ctl) (t : ETy) (f : VForm) (mask : MaskUse) (s : State) : Out1 :=
  settle (.vmin c t f mask) s fun e => e.vout (vExtreme e.vcx t false (e.mask mask) (e.tok .l) (e.arg f))

/-- VMAX (05 R116, R118). -/
def execVmax (c : Ctl) (t : ETy) (f : VForm) (mask : MaskUse) (s : State) : Out1 :=
  settle (.vmax c t f mask) s fun e => e.vout (vExtreme e.vcx t true (e.mask mask) (e.tok .l) (e.arg f))

/-- VAND (05 R116). -/
def execVand (c : Ctl) (t : ITy) (f : VForm) (mask : MaskUse) (s : State) : Out1 :=
  settle (.vand c t f mask) s fun e => e.vout (vPattern e.vcx t (e.mask mask) (e.tok .l) (e.arg f) (· &&& ·))

/-- VOR (05 R116). -/
def execVor (c : Ctl) (t : ITy) (f : VForm) (mask : MaskUse) (s : State) : Out1 :=
  settle (.vor c t f mask) s fun e => e.vout (vPattern e.vcx t (e.mask mask) (e.tok .l) (e.arg f) (· ||| ·))

/-- VXOR (05 R116). -/
def execVxor (c : Ctl) (t : ITy) (f : VForm) (mask : MaskUse) (s : State) : Out1 :=
  settle (.vxor c t f mask) s fun e => e.vout (vPattern e.vcx t (e.mask mask) (e.tok .l) (e.arg f) (· ^^^ ·))

/-- VSHL (05 R116). -/
def execVshl (c : Ctl) (t : ITy) (f : VForm) (mask : MaskUse) (s : State) : Out1 :=
  settle (.vshl c t f mask) s fun e => e.vout (vPattern e.vcx t (e.mask mask) (e.tok .l) (e.arg f) (shlPat t))

/-- VSHR (05 R116). -/
def execVshr (c : Ctl) (t : ITy) (f : VForm) (mask : MaskUse) (s : State) : Out1 :=
  settle (.vshr c t f mask) s fun e => e.vout (vPattern e.vcx t (e.mask mask) (e.tok .l) (e.arg f) (shrPat t))

/-- VSRA (05 R116). -/
def execVsra (c : Ctl) (t : ITy) (f : VForm) (mask : MaskUse) (s : State) : Out1 :=
  settle (.vsra c t f mask) s fun e => e.vout (vPattern e.vcx t (e.mask mask) (e.tok .l) (e.arg f) (sraPat t))

/-- VCMP (05 R120). -/
def execVcmp (c : Ctl) (cond : Cond) (t : ETy) (f : VForm) (mask : MaskUse) (s : State) : Out1 :=
  settle (.vcmp c cond t f mask) s fun e => e.vout (vCompare e.vcx cond t (e.mask mask) (e.tok .l) (e.arg f))

/-- VFMA (05 R117). -/
def execVfma (c : Ctl) (t : FTy) (rnd : Rnd) (sat : Bool) (s : State) : Out1 :=
  settle (.vfma c t rnd sat) s fun e => e.vout (vFma e.vcx t ⟨rnd, sat, .none⟩ (e.tok .l) (e.tok .r) (e.tok .t))

/-- VABS (05 R116, R119). -/
def execVabs (c : Ctl) (t : ETy) (sat : Bool) (mask : MaskUse) (s : State) : Out1 :=
  settle (.vabs c t sat mask) s fun e => e.vout (vSignOp e.vcx t true sat (e.mask mask) (e.tok .l))

/-- VNEG (05 R116, R119). -/
def execVneg (c : Ctl) (t : ETy) (sat : Bool) (mask : MaskUse) (s : State) : Out1 :=
  settle (.vneg c t sat mask) s fun e => e.vout (vSignOp e.vcx t false sat (e.mask mask) (e.tok .l))

/-- VNOT (05 R116). -/
def execVnot (c : Ctl) (t : ITy) (mask : MaskUse) (s : State) : Out1 :=
  settle (.vnot c t mask) s fun e => e.vout (vPattern e.vcx t (e.mask mask) (e.tok .l) (.s 0) fun x _ => 2 ^ iWidth t - 1 - x)

/-- VSEL (05 R121). -/
def execVsel (c : Ctl) (t : ITy) (s : State) : Out1 :=
  settle (.vsel c t) s fun e => e.vout (vSelect e.vcx (e.tok .l) (e.tok .r) (e.tok .t))

/-- VCVT (05 R122). -/
def execVcvt (c : Ctl) (dst src : ETy) (m : VMods) (s : State) : Out1 :=
  settle (.vcvt c dst src m) s fun e => e.vout (vConvert e.vcx dst src m (e.mask m.mask) (e.tok .l))

/-- VSQRT (05 R123). -/
def execVsqrt (c : Ctl) (t : FTy) (m : VMods) (s : State) : Out1 :=
  settle (.vsqrt c t m) s fun e => e.vout (vFunc e.vcx t m (e.mask m.mask) (e.tok .l) (fSqrt t))

/-- VRCP (05 R123). -/
def execVrcp (c : Ctl) (t : FTy) (m : VMods) (s : State) : Out1 :=
  settle (.vrcp c t m) s fun e => e.vout (vFunc e.vcx t m (e.mask m.mask) (e.tok .l) (fRcp t))

/-- VEXP2 (05 R123). -/
def execVexp2 (c : Ctl) (t : FTy) (m : VMods) (s : State) : Out1 :=
  settle (.vexp2 c t m) s fun e => e.vout (vFunc e.vcx t m (e.mask m.mask) (e.tok .l) (fExp2 t))

/-- VLOG2 (05 R123). -/
def execVlog2 (c : Ctl) (t : FTy) (m : VMods) (s : State) : Out1 :=
  settle (.vlog2 c t m) s fun e => e.vout (vFunc e.vcx t m (e.mask m.mask) (e.tok .l) (fLog2 t))

/-- VRSQRTE (05 R123). -/
def execVrsqrte (c : Ctl) (t : FTy) (mask : MaskUse) (s : State) : Out1 :=
  settle (.vrsqrte c t mask) s fun e => e.vout (vFunc e.vcx t ⟨.rne, false, mask⟩ (e.mask mask) (e.tok .l) fun _ => fRsqrte t)

/-- VTANH (05 R123). -/
def execVtanh (c : Ctl) (t : FTy) (mask : MaskUse) (s : State) : Out1 :=
  settle (.vtanh c t mask) s fun e => e.vout (vFunc e.vcx t ⟨.rne, false, mask⟩ (e.mask mask) (e.tok .l) fun _ => fTanh t)

/-- VREDUCE (05 R124). -/
def execVreduce (c : Ctl) (t : ETy) (kind : Red) (m : VMods) (s : State) : Out1 :=
  settle (.vreduce c t kind m) s fun e => e.vout (vReduce e.vcx t kind m (e.mask m.mask) (e.tok .l))

/-- VSCAN (05 R125). -/
def execVscan (c : Ctl) (t : ETy) (kind : Red) (m : VMods) (s : State) : Out1 :=
  settle (.vscan c t kind m) s fun e => e.vout (vScan e.vcx t kind m (e.mask m.mask) (e.tok .l))

/-- VPERM (05 R126). -/
def execVperm (c : Ctl) (t : ITy) (mask : MaskUse) (s : State) : Out1 :=
  settle (.vperm c t mask) s fun e => e.vout (vPerm e.vcx t (e.mask mask) (e.tok .l) (e.tok .r))

/-- VXLANE (05 R127). -/
def execVxlane (c : Ctl) (t : ITy) (s : State) : Out1 :=
  settle (.vxlane c t) s fun e => e.vout (vXlane e.vcx (e.tok .l) (e.word .r))

/-- VBCAST (05 R128). -/
def execVbcast (c : Ctl) (t : ITy) (mask : MaskUse) (s : State) : Out1 :=
  settle (.vbcast c t mask) s fun e => e.vout (vBcast e.vcx t (e.mask mask) (e.word .l))

/-- VEXTR (05 R129). -/
def execVextr (c : Ctl) (t : ITy) (s : State) : Out1 :=
  settle (.vextr c t) s fun e => e.done (vExtr e.vcx t (e.tok .l) (e.word .r))

/-- VINS (05 R129). -/
def execVins (c : Ctl) (t : ITy) (s : State) : Out1 :=
  settle (.vins c t) s fun e => e.vout (vIns e.vcx t (e.tok .l) (e.word .r) (e.word .t))

/-- VIOTA (05 R128). -/
def execViota (c : Ctl) (t : ITy) (mask : MaskUse) (s : State) : Out1 :=
  settle (.viota c t mask) s fun e => e.vout (vIota e.vcx t (e.mask mask) (e.word .l))

/-- VSORTK (05 R130, R131). -/
def execVsortk (c : Ctl) (t : ETy) (mask : MaskUse) (s : State) : Out1 :=
  settle (.vsortk c t mask) s fun e => e.vout (vSortk e.vcx t (e.mask mask) (e.tok .l) (e.word .r))

/-- VMERGE (05 R130, R132). -/
def execVmerge (c : Ctl) (t : ETy) (s : State) : Out1 :=
  settle (.vmerge c t) s fun e => e.vout (vMerge e.vcx t (e.tok .l) (e.tok .r) (e.word .t))

/-- KANY (05 R133). -/
def execKany (c : Ctl) (t : ITy) (s : State) : Out1 :=
  settle (.kany c t) s fun e => e.vout (vKtest e.vcx t false (e.tok .l))

/-- KALL (05 R133). -/
def execKall (c : Ctl) (t : ITy) (s : State) : Out1 :=
  settle (.kall c t) s fun e => e.vout (vKtest e.vcx t true (e.tok .l))

/-- KPOP (05 R133). -/
def execKpop (c : Ctl) (t : ITy) (s : State) : Out1 :=
  settle (.kpop c t) s fun e => e.vout (vKpop e.vcx t (e.tok .l))

end Sys2Proof.Machine
end

