-- ==== Sys2Proof/Machine/Dispatch.lean ====
section
/-!
DEFINITION. Machine/Dispatch.lean: one arm for each constructor of Instr.
-/
namespace Sys2Proof.Machine

def exec (i : Instr) (s : State) : Host.Outcome State Fault Refusal :=
  match i with
  | .read c t r => Sys2Proof.Machine.execRead c t r s
  | .write c t r => Sys2Proof.Machine.execWrite c t r s
  | .mov c t => Sys2Proof.Machine.execMov c t s
  | .fan t t0 t1 t2 t3 => Sys2Proof.Machine.execFan t t0 t1 t2 t3 s
  | .movi c t imm => Sys2Proof.Machine.execMovi c t imm s
  | .movl c t lit => Sys2Proof.Machine.execMovl c t lit s
  | .void t t0 t1 => Sys2Proof.Machine.execVoid t t0 t1 s
  | .sel c t => Sys2Proof.Machine.execSel c t s
  | .add c t f => Sys2Proof.Machine.execAdd c t f s
  | .sub c t f => Sys2Proof.Machine.execSub c t f s
  | .mul c t f => Sys2Proof.Machine.execMul c t f s
  | .mulh c t f => Sys2Proof.Machine.execMulh c t f s
  | .mad c t f => Sys2Proof.Machine.execMad c t f s
  | .div c t f => Sys2Proof.Machine.execDiv c t f s
  | .rem c t f => Sys2Proof.Machine.execRem c t f s
  | .neg c t sat => Sys2Proof.Machine.execNeg c t sat s
  | .abs c t sat => Sys2Proof.Machine.execAbs c t sat s
  | .min c t f => Sys2Proof.Machine.execMin c t f s
  | .max c t f => Sys2Proof.Machine.execMax c t f s
  | .and c t f => Sys2Proof.Machine.execAnd c t f s
  | .or c t f => Sys2Proof.Machine.execOr c t f s
  | .xor c t f => Sys2Proof.Machine.execXor c t f s
  | .not c t => Sys2Proof.Machine.execNot c t s
  | .shl c t f => Sys2Proof.Machine.execShl c t f s
  | .shr c t f => Sys2Proof.Machine.execShr c t f s
  | .sra c t f => Sys2Proof.Machine.execSra c t f s
  | .rot c t f => Sys2Proof.Machine.execRot c t f s
  | .clz c t => Sys2Proof.Machine.execClz c t s
  | .popc c t => Sys2Proof.Machine.execPopc c t s
  | .bfx c t f => Sys2Proof.Machine.execBfx c t f s
  | .bfi c t f => Sys2Proof.Machine.execBfi c t f s
  | .lea c t f => Sys2Proof.Machine.execLea c t f s
  | .sext c t => Sys2Proof.Machine.execSext c t s
  | .zext c t => Sys2Proof.Machine.execZext c t s
  | .cmp c cond t f => Sys2Proof.Machine.execCmp c cond t f s
  | .pand c => Sys2Proof.Machine.execPand c s
  | .por c => Sys2Proof.Machine.execPor c s
  | .pxor c => Sys2Proof.Machine.execPxor c s
  | .pnot c => Sys2Proof.Machine.execPnot c s
  | .plane c imm => Sys2Proof.Machine.execPlane c imm s
  | .pcount c => Sys2Proof.Machine.execPcount c s
  | .br c => Sys2Proof.Machine.execBr c s
  | .bri c off => Sys2Proof.Machine.execBri c off s
  | .call c off => Sys2Proof.Machine.execCall c off s
  | .ret c => Sys2Proof.Machine.execRet c s
  | .endg c => Sys2Proof.Machine.execEndg c s
  | .trap c n => Sys2Proof.Machine.execTrap c n s
  | .vadd c t f m => Sys2Proof.Machine.execVadd c t f m s
  | .vsub c t f m => Sys2Proof.Machine.execVsub c t f m s
  | .vmul c t f m => Sys2Proof.Machine.execVmul c t f m s
  | .vdiv c t f m => Sys2Proof.Machine.execVdiv c t f m s
  | .vmin c t f mask => Sys2Proof.Machine.execVmin c t f mask s
  | .vmax c t f mask => Sys2Proof.Machine.execVmax c t f mask s
  | .vand c t f mask => Sys2Proof.Machine.execVand c t f mask s
  | .vor c t f mask => Sys2Proof.Machine.execVor c t f mask s
  | .vxor c t f mask => Sys2Proof.Machine.execVxor c t f mask s
  | .vshl c t f mask => Sys2Proof.Machine.execVshl c t f mask s
  | .vshr c t f mask => Sys2Proof.Machine.execVshr c t f mask s
  | .vsra c t f mask => Sys2Proof.Machine.execVsra c t f mask s
  | .vcmp c cond t f mask => Sys2Proof.Machine.execVcmp c cond t f mask s
  | .vfma c t rnd sat => Sys2Proof.Machine.execVfma c t rnd sat s
  | .vabs c t sat mask => Sys2Proof.Machine.execVabs c t sat mask s
  | .vneg c t sat mask => Sys2Proof.Machine.execVneg c t sat mask s
  | .vnot c t mask => Sys2Proof.Machine.execVnot c t mask s
  | .vsel c t => Sys2Proof.Machine.execVsel c t s
  | .vcvt c dst src m => Sys2Proof.Machine.execVcvt c dst src m s
  | .vsqrt c t m => Sys2Proof.Machine.execVsqrt c t m s
  | .vrcp c t m => Sys2Proof.Machine.execVrcp c t m s
  | .vrsqrte c t mask => Sys2Proof.Machine.execVrsqrte c t mask s
  | .vexp2 c t m => Sys2Proof.Machine.execVexp2 c t m s
  | .vlog2 c t m => Sys2Proof.Machine.execVlog2 c t m s
  | .vtanh c t mask => Sys2Proof.Machine.execVtanh c t mask s
  | .vreduce c t kind m => Sys2Proof.Machine.execVreduce c t kind m s
  | .vscan c t kind m => Sys2Proof.Machine.execVscan c t kind m s
  | .vperm c t mask => Sys2Proof.Machine.execVperm c t mask s
  | .vxlane c t => Sys2Proof.Machine.execVxlane c t s
  | .vbcast c t mask => Sys2Proof.Machine.execVbcast c t mask s
  | .vextr c t => Sys2Proof.Machine.execVextr c t s
  | .vins c t => Sys2Proof.Machine.execVins c t s
  | .viota c t mask => Sys2Proof.Machine.execViota c t mask s
  | .vsortk c t mask => Sys2Proof.Machine.execVsortk c t mask s
  | .vmerge c t => Sys2Proof.Machine.execVmerge c t s
  | .kany c t => Sys2Proof.Machine.execKany c t s
  | .kall c t => Sys2Proof.Machine.execKall c t s
  | .kpop c t => Sys2Proof.Machine.execKpop c t s
  | .mma c t o => Sys2Proof.Machine.execMma c t o s
  | .mmaG c t o => Sys2Proof.Machine.execMmaG c t o s
  | .mmas c t o => Sys2Proof.Machine.execMmas c t o s
  | .mzero c lsid accs => Sys2Proof.Machine.execMzero c lsid accs s
  | .mld c lsid acc => Sys2Proof.Machine.execMld c lsid acc s
  | .mst c o => Sys2Proof.Machine.execMst c o s
  | .qinit c lsid q entry cexp => Sys2Proof.Machine.execQinit c lsid q entry cexp s
  | .qpush c lsid q => Sys2Proof.Machine.execQpush c lsid q s
  | .qpop c lsid q => Sys2Proof.Machine.execQpop c lsid q s
  | .qstat c lsid q => Sys2Proof.Machine.execQstat c lsid q s
  | .cpy c o => Sys2Proof.Machine.execCpy c o s
  | .cpyS c o => Sys2Proof.Machine.execCpyS c o s
  | .cpy2d c o => Sys2Proof.Machine.execCpy2d c o s
  | .cpyPeer c o => Sys2Proof.Machine.execCpyPeer c o s
  | .cpyMc c o => Sys2Proof.Machine.execCpyMc c o s
  | .cpyg c o => Sys2Proof.Machine.execCpyg c o s
  | .pref c lsid bytes => Sys2Proof.Machine.execPref c lsid bytes s
  | .binit c lsid off => Sys2Proof.Machine.execBinit c lsid off s
  | .bexpect c lsid off => Sys2Proof.Machine.execBexpect c lsid off s
  | .barrive c lsid off => Sys2Proof.Machine.execBarrive c lsid off s
  | .bwait c lsid off => Sys2Proof.Machine.execBwait c lsid off s
  | .btest c lsid off => Sys2Proof.Machine.execBtest c lsid off s
  | .sbind c lsid sr kind => Sys2Proof.Machine.execSbind c lsid sr kind s
  | .semit c t lsid sr => Sys2Proof.Machine.execSemit c t lsid sr s
  | .sunbind c lsid sr => Sys2Proof.Machine.execSunbind c lsid sr s
  | .sst c lsid sr => Sys2Proof.Machine.execSst c lsid sr s
  | .lds c t lsid vec off => Sys2Proof.Machine.execLds c t lsid vec off s
  | .sts c t lsid vec off => Sys2Proof.Machine.execSts c t lsid vec off s
  | .ld c t acq o => Sys2Proof.Machine.execLd c t acq o s
  | .st c t rel o => Sys2Proof.Machine.execSt c t rel o s
  | .ldv c t acq o => Sys2Proof.Machine.execLdv c t acq o s
  | .stv c t rel o => Sys2Proof.Machine.execStv c t rel o s
  | .gather c t lsid mask off => Sys2Proof.Machine.execGather c t lsid mask off s
  | .scatter c t lsid off => Sys2Proof.Machine.execScatter c t lsid off s
  | .amoAdd c t ord o => Sys2Proof.Machine.execAmoAdd c t ord o s
  | .amoMin c t ord o => Sys2Proof.Machine.execAmoMin c t ord o s
  | .amoMax c t ord o => Sys2Proof.Machine.execAmoMax c t ord o s
  | .amoAnd c t ord o => Sys2Proof.Machine.execAmoAnd c t ord o s
  | .amoOr c t ord o => Sys2Proof.Machine.execAmoOr c t ord o s
  | .amoXor c t ord o => Sys2Proof.Machine.execAmoXor c t ord o s
  | .amoSwap c t ord o => Sys2Proof.Machine.execAmoSwap c t ord o s
  | .amoCas c t ord o => Sys2Proof.Machine.execAmoCas c t ord o s
  | .fence c lsid ord scope => Sys2Proof.Machine.execFence c lsid ord scope s
  | .alloc c lsid place j => Sys2Proof.Machine.execAlloc c lsid place j s
  | .free c lsid => Sys2Proof.Machine.execFree c lsid s
  | .vcommit c lsid sz => Sys2Proof.Machine.execVcommit c lsid sz s
  | .vdecommit c lsid sz => Sys2Proof.Machine.execVdecommit c lsid sz s
  | .vquery c lsid => Sys2Proof.Machine.execVquery c lsid s
  | .vmigrate c lsid tier1 place arrive sz => Sys2Proof.Machine.execVmigrate c lsid tier1 place arrive sz s
  | .pin c lsid sz => Sys2Proof.Machine.execPin c lsid sz s
  | .unpin c lsid sz => Sys2Proof.Machine.execUnpin c lsid sz s
  | .srd c r => Sys2Proof.Machine.execSrd c r s
  | .swr c lsid r => Sys2Proof.Machine.execSwr c lsid r s
  | .tspawn c lsid given d => Sys2Proof.Machine.execTspawn c lsid given d s
  | .tdec c lsid n => Sys2Proof.Machine.execTdec c lsid n s
  | .tinst c lsid id => Sys2Proof.Machine.execTinst c lsid id s
  | .tstat c lsid => Sys2Proof.Machine.execTstat c lsid s
  | .relay c lsid => Sys2Proof.Machine.execRelay c lsid s
  | .relaySig c lsid => Sys2Proof.Machine.execRelaySig c lsid s
  | .relayPrep c lsid n => Sys2Proof.Machine.execRelayPrep c lsid n s
  | .gresume c lsid rank => Sys2Proof.Machine.execGresume c lsid rank s
  | .gkill c lsid rank => Sys2Proof.Machine.execGkill c lsid rank s
  | .rload c lsid stage parity => Sys2Proof.Machine.execRload c lsid stage parity s
  | .rstart c lsid arrive credit rerun id => Sys2Proof.Machine.execRstart c lsid arrive credit rerun id s
  | .rabort c lsid id => Sys2Proof.Machine.execRabort c lsid id s
  | .rstat c lsid id => Sys2Proof.Machine.execRstat c lsid id s
  | .nop => Sys2Proof.Machine.execNop s
  | .movg a b => Sys2Proof.Machine.execMovg a b s
  | .reinMovi a imm => Sys2Proof.Machine.execReinMovi a imm s
  | .addg a b c => Sys2Proof.Machine.execAddg a b c s
  | .addi a b imm => Sys2Proof.Machine.execAddi a b imm s
  | .subg a b c => Sys2Proof.Machine.execSubg a b c s
  | .mulg a b c => Sys2Proof.Machine.execMulg a b c s
  | .modg a b c => Sys2Proof.Machine.execModg a b c s
  | .andg a b c => Sys2Proof.Machine.execAndg a b c s
  | .shrg a b c => Sys2Proof.Machine.execShrg a b c s
  | .jmp imm => Sys2Proof.Machine.execJmp imm s
  | .loop a imm => Sys2Proof.Machine.execLoop a imm s
  | .bnz a imm => Sys2Proof.Machine.execBnz a imm s
  | .bz a imm => Sys2Proof.Machine.execBz a imm s
  | .setchunk a b c sp => Sys2Proof.Machine.execSetchunk a b c sp s
  | .addc a b => Sys2Proof.Machine.execAddc a b s
  | .peer a b kind => Sys2Proof.Machine.execPeer a b kind s
  | .send a b c => Sys2Proof.Machine.execSend a b c s
  | .recv a b => Sys2Proof.Machine.execRecv a b s
  | .reduce a b c op t => Sys2Proof.Machine.execReduce a b c op t s
  | .copy a b => Sys2Proof.Machine.execCopy a b s
  | .wait b => Sys2Proof.Machine.execWait b s
  | .reinSignal b => Sys2Proof.Machine.execReinSignal b s
  | .tagchk a b => Sys2Proof.Machine.execTagchk a b s
  | .reinFence => Sys2Proof.Machine.execReinFence s
  | .done => Sys2Proof.Machine.execDone s
  | .blockFetchDecode p => Sys2Proof.Machine.execBlockFetchDecode p s
  | .runAhead p addr => Sys2Proof.Machine.execRunAhead p addr s
  | .awaitedTokenArrives p => Sys2Proof.Machine.execAwaitedTokenArrives p s
  | .blockComplete p => Sys2Proof.Machine.execBlockComplete p s
  | .leaseWaitExpiry p => Sys2Proof.Machine.execLeaseWaitExpiry p s
  | .runtimeFaultDiscard p => Sys2Proof.Machine.execRuntimeFaultDiscard p s
  | .cutGraceExpiry p => Sys2Proof.Machine.execCutGraceExpiry p s
  | .storePerform p => Sys2Proof.Machine.execStorePerform p s
  | .lineEviction die line => Sys2Proof.Machine.execLineEviction die line s
  | .pageWalk die tile ctx va acc => Sys2Proof.Machine.execPageWalk die tile ctx va acc s
  | .touchCommit ctx va who => Sys2Proof.Machine.execTouchCommit ctx va who s
  | .pageCommandPerform ctx => Sys2Proof.Machine.execPageCommandPerform ctx s
  | .invalidation ctx => Sys2Proof.Machine.execInvalidation ctx s
  | .invalidationComplete ctx => Sys2Proof.Machine.execInvalidationComplete ctx s
  | .migratePage ctx va => Sys2Proof.Machine.execMigratePage ctx va s
  | .matrixCommandStart p => Sys2Proof.Machine.execMatrixCommandStart p s
  | .matrixCommandRetire p => Sys2Proof.Machine.execMatrixCommandRetire p s
  | .copyPiece p cmd piece => Sys2Proof.Machine.execCopyPiece p cmd piece s
  | .engineFaultReport p => Sys2Proof.Machine.execEngineFaultReport p s
  | .streamPrefetch p reg => Sys2Proof.Machine.execStreamPrefetch p reg s
  | .poisonError loc => Sys2Proof.Machine.execPoisonError loc s
  | .uncorrectableGroupState p hit => Sys2Proof.Machine.execUncorrectableGroupState p hit s
  | .correctedError unit uncorrectable => Sys2Proof.Machine.execCorrectedError unit uncorrectable s
  | .errorWindowExpiry unit => Sys2Proof.Machine.execErrorWindowExpiry unit s
  | .trapRecordWrite ctx => Sys2Proof.Machine.execTrapRecordWrite ctx s
  | .trapQueueHeadPoll ctx => Sys2Proof.Machine.execTrapQueueHeadPoll ctx s
  | .handlerSpawn ctx => Sys2Proof.Machine.execHandlerSpawn ctx s
  | .decrementApply k => Sys2Proof.Machine.execDecrementApply k s
  | .decrementMessage m => Sys2Proof.Machine.execDecrementMessage m s
  | .placement die idx tiles => Sys2Proof.Machine.execPlacement die idx tiles s
  | .prefetchLanded w => Sys2Proof.Machine.execPrefetchLanded w s
  | .multicastWaitExpiry w => Sys2Proof.Machine.execMulticastWaitExpiry w s
  | .binding die idx slots => Sys2Proof.Machine.execBinding die idx slots s
  | .runnableTimeout die idx tiles => Sys2Proof.Machine.execRunnableTimeout die idx tiles s
  | .taskCompletion die idx => Sys2Proof.Machine.execTaskCompletion die idx s
  | .relayHold p => Sys2Proof.Machine.execRelayHold p s
  | .stallWatchdogExpiry ctx => Sys2Proof.Machine.execStallWatchdogExpiry ctx s
  | .instanceStart die k => Sys2Proof.Machine.execInstanceStart die k s
  | .chunkArrival die ch => Sys2Proof.Machine.execChunkArrival die ch s
  | .chunkLand die k => Sys2Proof.Machine.execChunkLand die k s
  | .chunkAck nm => Sys2Proof.Machine.execChunkAck nm s
  | .chunkNak nm => Sys2Proof.Machine.execChunkNak nm s
  | .chunkRetryTimer nm => Sys2Proof.Machine.execChunkRetryTimer nm s
  | .signalArrival m => Sys2Proof.Machine.execSignalArrival m s
  | .abortArrival m => Sys2Proof.Machine.execAbortArrival m s
  | .saveComplete ctx => Sys2Proof.Machine.execSaveComplete ctx s
  | .restoreComplete ctx => Sys2Proof.Machine.execRestoreComplete ctx s
  | .drainReductionRound ctx others => Sys2Proof.Machine.execDrainReductionRound ctx others s
  | .hello m => Sys2Proof.Machine.execHello m s
  | .createContext m frames => Sys2Proof.Machine.execCreateContext m frames s
  | .tearDown m => Sys2Proof.Machine.execTearDown m s
  | .preEmpt m => Sys2Proof.Machine.execPreEmpt m s
  | .resume m => Sys2Proof.Machine.execResume m s
  | .podSwitch m => Sys2Proof.Machine.execPodSwitch m s
  | .registerTemplate m => Sys2Proof.Machine.execRegisterTemplate m s
  | .launch m => Sys2Proof.Machine.execLaunch m s
  | .signal m => Sys2Proof.Machine.execSignal m s
  | .bridleWrite m => Sys2Proof.Machine.execBridleWrite m s
  | .bridleRead m => Sys2Proof.Machine.execBridleRead m s
  | .status m => Sys2Proof.Machine.execStatus m s
  | .linkQueues m => Sys2Proof.Machine.execLinkQueues m s
  | .gatedCommandStart queue => Sys2Proof.Machine.execGatedCommandStart queue s
  | .map m => Sys2Proof.Machine.execMap m s
  | .powerTolerance m => Sys2Proof.Machine.execPowerTolerance m s
  | .loadFirmware m => Sys2Proof.Machine.execLoadFirmware m s
  | .attest m => Sys2Proof.Machine.execAttest m s
  | .createTask m => Sys2Proof.Machine.execCreateTask m s
  | .health m => Sys2Proof.Machine.execHealth m s
  | .configurePackage m => Sys2Proof.Machine.execConfigurePackage m s
  | .registerRegion m => Sys2Proof.Machine.execRegisterRegion m s
  | .deregisterRegion m => Sys2Proof.Machine.execDeregisterRegion m s
  | .connectQueuePair m => Sys2Proof.Machine.execConnectQueuePair m s
  | .unknownOpcode m => Sys2Proof.Machine.execUnknownOpcode m s
  | .rdmaWrite qp key va bytes => Sys2Proof.Machine.execRdmaWrite qp key va bytes s
  | .rdmaRead qp key va n => Sys2Proof.Machine.execRdmaRead qp key va n s
  | .remoteInvalidRequest qp => Sys2Proof.Machine.execRemoteInvalidRequest qp s
  | .ualinkRemoteAccess pkg addr op => Sys2Proof.Machine.execUalinkRemoteAccess pkg addr op s
  | .heartbeat => Sys2Proof.Machine.execHeartbeat s
  | .packageFailed pkg => Sys2Proof.Machine.execPackageFailed pkg s
  | .recoveryRebuild pkg => Sys2Proof.Machine.execRecoveryRebuild pkg s
  | .idleEntry => Sys2Proof.Machine.execIdleEntry s
  | .wake => Sys2Proof.Machine.execWake s
  | .errorSelect v => Sys2Proof.Machine.execErrorSelect v s
  | .powerLimit v => Sys2Proof.Machine.execPowerLimit v s
  | .reset => Sys2Proof.Machine.execReset s
  | .readOnlyRegisterWrite off v => Sys2Proof.Machine.execReadOnlyRegisterWrite off v s
  | .taskProbe w j => Sys2Proof.Machine.execTaskProbe w j s
  | .recoveryMirror m => Sys2Proof.Machine.execRecoveryMirror m s

end Sys2Proof.Machine
end

