-- ==== Sys2Proof/Machine/Sched.lean ====
section
/-!
DEFINITION. Machine/Sched.lean: whose move it is. The agents of the package act one step at a time: what waits on the agenda
first, then the agent in turn, else one of those that can act, by the device's free choice; a cycle ends once every tile and
engine has had its grant (07 R154 to R156; 11 R217; 19 R345; 95).
-/
namespace Sys2Proof.Machine

/-! ## Grants (07 R154, R155) -/

/-- The units of a tile that its slots share: the rows of 05 R134, the scratch port, the data cache, scalar division, scalar
floating point, and the rest of the scalar core. Log 129 (DEDUCED). -/
def unitOf : Instr → Nat
  | .vadd _ t _ _ | .vsub _ t _ _ | .vmin _ t _ _ | .vmax _ t _ _ | .vcmp _ _ t _ _ | .vabs _ t _ _ | .vneg _ t _ _ =>
    match t with
    | .i _ => 1
    | .f _ => 3
  | .vmul _ t _ _ => match t with
    | .i _ => 2
    | .f _ => 3
  | .vand .. | .vor .. | .vxor .. | .vshl .. | .vshr .. | .vsra .. | .vnot .. | .vsel .. => 1
  | .vfma .. | .vrsqrte .. | .vcvt .. => 3
  | .vdiv .. | .vsqrt .. | .vrcp .. | .vexp2 .. | .vlog2 .. => 4
  | .vtanh .. => 5
  | .vreduce .. | .vscan .. => 6
  | .vperm .. | .vxlane .. | .vbcast .. | .vextr .. | .vins .. | .viota .. => 7
  | .vsortk .. => 8
  | .vmerge .. => 9
  | .kany .. | .kall .. | .kpop .. => 10
  | .lds .. | .sts .. | .qpush .. | .qpop .. | .btest .. | .bwait .. => 11
  | .ld .. | .st .. | .ldv .. | .stv .. | .gather .. | .scatter .. | .amoAdd .. | .amoMin .. | .amoMax .. | .amoAnd .. | .amoOr ..
  | .amoXor .. | .amoSwap .. | .amoCas .. => 12
  | .div .. | .rem .. => 13
  | _ => 0

/-- The instructions of a block that are ready, with their indexes. -/
def BlockRun.ready (r : BlockRun) : List (Nat × Node) := ((List.range r.nodes.length).zip r.nodes).filter fun x => x.2.fireable

/-- A READ's register is the one that a WRITE writes. -/
def readsWritten : RReg → WReg → Bool
  | .x a, .x b => a == b
  | .v a, .v b => a == b
  | .p a, .p b => a == b
  | .k a, .k b => a == b
  | _, _ => false

/-- What an older block lets an instruction of the block run ahead do (07 R153): none that holds an LSID, no SRD, no READ of a
stream, no READ of a register that it may still write, and nothing while it may still write a special register. Log 116 (DEDUCED). -/
def BlockRun.lets (older : BlockRun) (n : Node) : Bool :=
  let left := older.nodes.filter fun m => !m.resolved
  !(left.any fun m => match m.ins with
    | .swr _ _ _ => true
    | _ => false) && (lsidOf n.ins).isNone && (match n.ins with
    | .srd _ _ => false
    | .read _ _ (.s _) => false
    | .read _ _ q => !(left.any fun m => match m.ins with
        | .write _ _ w => readsWritten q w
        | _ => false)
    | _ => true)

/-- The instructions of a group that a grant may fire, in the order in which its slot serves them: the older block's, then the
younger's, by index; each with whether it is of the block run ahead, its index and its unit. Log 13 (DESIGN CHOICE); 116 (DEDUCED). -/
def State.eligible (s : State) (g : Group) : List (Bool × Nat × Nat) :=
  match g.phase, g.run with
  | .running, some r =>
    if g.grace && s.graceOver g.ctx then []
    else
      (r.ready.map fun x => (false, x.1, unitOf x.2.ins)) ++ (match g.ahead with
        | some b => (b.ready.filter fun x => r.lets x.2).map fun x => (true, x.1, unitOf x.2.ins)
        | none => [])
  | _, _ => []

/-- A move: a step, the state in which it is taken, and the pointer of a tile (by die × 64 + tile) or an engine
(256 + die × 8 + engine) as its grant leaves it. -/
structure Move where
  ins : Instr
  st : State
  grant : Option Pointer
deriving DecidableEq, Repr

/-- A grant has been made: the tile or engine has had this cycle's, and its pointer moves. -/
def State.granting (s : State) (p : Pointer) : State :=
  if p.key < 256 then { s with granted := p.key :: s.granted, pointers := setPtr s.pointers p }
  else { s with granted := p.key :: s.granted, reinPtrs := setPtr s.reinPtrs ⟨p.key - 256, p.at'⟩ }

/-- The instruction at an index of a group's block, or of its block run ahead, settles. -/
def State.settleMove (s : State) (g : Group) (ahead : Bool) (i : Nat) (grant : Option Pointer) : Option Move :=
  match (if ahead then g.ahead else g.run).bind fun r => r.nodes[i]? with
  | none => none
  | some n =>
    some ⟨n.ins, if ahead then { s.setGroup g.place (fun g => { g with ahead := g.ahead.map fun r => { r with cur := i } }) with
        turn := .ahead g.place }
      else { s.setRun g.place (fun r => { r with cur := i }) with turn := .group g.place }, grant⟩

/-- The grant of a tile's cycle (07 R154, R155): of the slots with an instruction that a unit free in this cycle can take, the first
at or after the pointer; within it the lowest index, older block first. Log 13 (DESIGN CHOICE); 129 (DEDUCED). -/
def State.tileGrant (s : State) (die tile : Nat) : Option Move :=
  let key := die * 64 + tile
  let gs := s.groups.filter fun g => g.place.die == die && g.place.tile == tile
  match pickOf (Config.choice s.fresh) ((gs.flatMap s.eligible).map fun x => x.2.2).eraseDups with
  | none => none
  | some u =>
    (List.range 4).findSome? fun k =>
      let slot := (ptrAt s.pointers key + k) % 4
      match gs.find? fun g => g.place.slot == slot with
      | none => none
      | some g =>
        match (s.eligible g).find? fun x => x.2.2 == u with
        | none => none
        | some x => s.settleMove g x.1 x.2.1 (some ⟨key, (slot + 1) % 4⟩)

/-! ## What a group or an instance does next (07 R145, R149, R156, R158, R159; 19 R345) -/

/-- What a group does without a grant: its block's end, the end of its grace, or the fetch of the next; none when it waits. -/
def State.blockStep (s : State) (g : Group) : Option Instr :=
  match g.phase, g.run with
  | .exiting _ _ _, _ => some (.blockComplete g.place)
  | .running, none => if s.ctxLive g.ctx then some (.blockFetchDecode g.place) else none
  | .running, some r =>
    if r.nodes.all Node.resolved then some (.blockComplete g.place)
    else if g.grace && s.graceOver g.ctx then some (.cutGraceExpiry g.place)
    else if r.nodes.any Node.fireable then none
    else if r.nodes.any fun n => !n.resolved && decide (n.st ≠ .waiting) && decide (n.st ≠ .pending) then
      some (.runtimeFaultDiscard g.place)
    else none
  | _, _ => none

/-- A waiting instruction of a group would no longer wait (07 R147). -/
def State.wouldGo (s : State) (g : Group) : Bool :=
  match g.run with
  | none => false
  | some r =>
    r.isWaiting && ((List.range r.nodes.length).zip r.nodes).any fun x => decide (x.2.st = .waiting) &&
      (match exec x.2.ins ((s.rouse g.place).setRun g.place fun r => { r with cur := x.1 }) with
        | .next t => (match t.turnNode with
          | some (_, _, n) => decide (n.st ≠ .waiting)
          | none => true)
        | _ => false)

/-- The moves of a group that take no grant. -/
def State.groupMoves (s : State) (g : Group) : List Move :=
  ((s.blockStep g).toList ++ (if s.wouldGo g then [Instr.awaitedTokenArrives g.place] else [])).map fun i => ⟨i, s, none⟩

/-- The word at an index of a program as an engine reads it from the image (19 R358), and what that read leaves. Where the program
has not left the image unchanged, so that it cannot be read or is no word that RLOAD takes, it is the word that RLOAD read.
Log 141 (DESIGN CHOICE). -/
def State.imageWord (s : State) (p : Prog) (k : Nat) : Word × State :=
  let n := p.words.length - 4
  let kept : Word × State := (p.words.getD (4 + k) 0, s)
  match p.img with
  | none => kept
  | some a =>
    if n ≤ k then kept
    else match s.xread (some p.die) p.ctx (a + 32 + 8 * k) 8 .engineRead with
      | .error _ => kept
      | .ok (bs, t) =>
        let w := wordN (ofBytes (bs.map Prod.fst))
        if bs.any Prod.snd || (reinWordCause n k w).isSome then kept else (w, t)

/-- The next move of a rein instance: the instruction at its index. Log 141 (DESIGN CHOICE). -/
def State.instMove (s : State) (i : Inst) : Option Move :=
  match s.progOf i with
  | none => none
  | some p =>
    if i.st = .live ∧ i.began = true then
      let x := s.imageWord p i.idx
      match decodeRein x.1 with
      | .ok e => some ⟨e, { x.2 with turn := .inst i.die i.key }, some ⟨256 + i.die * 8 + i.engine, i.key + 1⟩⟩
      | .error _ => none
    else none

/-- A move that changes something. Log 1 (DESIGN CHOICE). -/
def Move.changes (m : Move) : Bool :=
  match exec m.ins m.st with
  | .next t => decide (({ t with turn := .idle } : State) ≠ { m.st with turn := .idle })
  | _ => false

/-- The turn of an engine (19 R345): the next of its unblocked instances in rotation. -/
def State.engineTurn (s : State) (die e : Nat) : Option Move :=
  let on := (s.insts.filter fun i => i.die == die && i.engine == e).filterMap fun i => (s.instMove i).map fun m => (i.key, m)
  let go := on.filter fun x => x.2.changes
  let k := ptrAt s.reinPtrs (die * 8 + e)
  let first (l : List (Nat × Move)) : Option (Nat × Move) := (lowestN (l.map Prod.fst)).bind fun a => l.find? fun x => x.1 == a
  ((first (go.filter fun x => decide (k ≤ x.1))).orElse fun _ => first go).map Prod.snd

/-- The move of the agent in turn, which a step in progress has: the lowest instruction of a group's block, or what the group does
without a grant. Log 1 (DESIGN CHOICE); 10 (DESIGN CHOICE). -/
def State.inTurn (s : State) : Option Move :=
  match s.turn with
  | .group p =>
    match s.group? p with
    | none => none
    | some g =>
      match (s.eligible g).head? with
      | some x => s.settleMove g x.1 x.2.1 none
      | none => (s.groupMoves g).head?
  | .inst die k => (s.inst? die k).bind s.instMove
  | _ => none

/-- The moves that come before the cycle ends (07 R154, R156; 19 R345): each tile's grant, each engine's turn, and what groups do
without a grant. Log 1 (DESIGN CHOICE). -/
def State.pressing (s : State) : List Move :=
  let tiles := (s.groups.map fun g => (g.place.die, g.place.tile)).eraseDups.filter fun x => !s.granted.contains (x.1 * 64 + x.2)
  let engines := (s.insts.map fun i => (i.die, i.engine)).eraseDups.filter fun x => !s.granted.contains (256 + x.1 * 8 + x.2)
  ((tiles.filterMap fun x => s.tileGrant x.1 x.2) ++ (engines.filterMap fun x => s.engineTurn x.1 x.2) ++
    s.groups.flatMap s.groupMoves).filter Move.changes

/-! ## What each agent may do next -/

/-- The instructions of a group's block that wait for a probe's answer (15 R286). -/
def Group.probes (g : Group) : List Nat :=
  match g.run with
  | none => []
  | some r => (List.range r.nodes.length).filter fun j => match r.nodes[j]? with
    | some n => isProbe n.ins && n.ready && !n.resolved && n.answered.isNone
    | none => false

/-- The steps that concern one group. -/
def Group.steps (g : Group) : List Instr :=
  let p := g.place
  [.leaseWaitExpiry p, .cutGraceExpiry p, .storePerform p, .matrixCommandStart p, .matrixCommandRetire p,
    .engineFaultReport p, .relayHold p] ++
  (match g.phase with
    | .touching va acc _ _ => if acc = .none then [] else [.touchCommit g.ctx (wordN va) (some p)]
    | _ => []) ++
  (g.cq.flatMap fun c => ((List.range c.pieces).filter c.mayDo).map fun k => .copyPiece p c.id k) ++
  (((List.range 8).filter fun r => (g.s.getD r none).isSome).map fun r => .streamPrefetch p r) ++
  (match g.prep with
    | some q => (List.range q.binds.length).map fun b => .prefetchLanded (.prep p b)
    | none => []) ++
  (g.probes.map fun j => .taskProbe (.own p) j) ++
  match g.run with
    | some r => (r.nodes.filterMap (Node.leads g r)).eraseDups.map fun a => .runAhead p a
    | none => []

/-- The pages that the migration engine may turn to next. -/
def Ctx.moving (c : Ctx) : List Nat :=
  c.migs.map Migration.va ++ (match c.pageCmds with
    | q :: _ => (q.left.getD []).take 1
    | [] => []) ++
  c.pte.map fun e => e.1.idx * (if e.1.level = 3 then 65536 else pgBytes .g1)

/-- The steps that concern one context. Log 87 (DEDUCED). -/
def Ctx.steps (c : Ctx) : List Instr :=
  let k := c.slot
  [.trapRecordWrite k, .handlerSpawn k, .pageCommandPerform k, .invalidation k, .invalidationComplete k, .stallWatchdogExpiry k,
    .saveComplete k, .restoreComplete k] ++
  (if c.podPkgs.length = 1 then [.drainReductionRound k []] else []) ++
  c.moving.map fun va => .migratePage k (wordN va)

/-- Tiles of a die on which a task may be placed, by the device's choice. -/
def State.tilesFor (s : State) (r : TaskRec) : List Nat :=
  match s.readDesc r.die r.ctx (r.w 0).toNat with
  | .error _ => []
  | .ok (kd, s1) =>
    let ok := (List.range 56).filter ((s1.setRec r.die r.idx TaskRec.unplaced).tileTakes r.die kd.shape)
    let k := Config.choice s.fresh % (ok.length + 1)
    let got := (ok.drop k ++ ok.take k).take r.gang
    ok.filter got.contains

/-- Slots of a placed task's tiles, by the device's choice. -/
def State.slotsFor (s : State) (r : TaskRec) : List Nat :=
  match s.readDesc r.die r.ctx (r.w 0).toNat with
  | .error _ => []
  | .ok (kd, _) =>
    let k := Config.choice s.fresh % 4
    r.tiles.filterMap fun t => ([k, (k + 1) % 4, (k + 2) % 4, (k + 3) % 4]).find? fun j => s.slotTakes r kd.shape t j

/-- The steps that concern one task record. -/
def State.recSteps (s : State) (r : TaskRec) : List Instr :=
  match r.state with
  | 1 => [.placement r.die r.idx (s.tilesFor r)]
  | 2 => r.prefetches.flatMap fun b => [.prefetchLanded (.task r.die r.idx b), .multicastWaitExpiry (.task r.die r.idx b)]
  | 3 => [.binding r.die r.idx (s.slotsFor r), .runnableTimeout r.die r.idx (s.tilesFor r)]
  | 4 | 5 => [.taskCompletion r.die r.idx]
  | _ => []

/-- The chunks that an instance may send again: those refused (21 R371). -/
def State.retries (s : State) (i : Inst) : List Instr :=
  (i.out.filter Outstanding.refused).map fun o =>
    .chunkRetryTimer ⟨i.die, s.tagOf i.ctx, i.id, i.n, o.peer, o.seq, false, s.pkgNum⟩

/-- The steps that concern one instance. -/
def State.instSteps (s : State) (i : Inst) : List Instr :=
  if i.st = .live ∧ i.began = false then [.instanceStart i.die i.key] else s.retries i

/-- The steps that agents other than groups and instances in turn may take. Log 1 (DESIGN CHOICE); 14 (DESIGN CHOICE). -/
def State.events (s : State) : List Instr :=
  (s.groups.flatMap Group.steps) ++ (s.ctxs.flatMap Ctx.steps) ++ (s.recs.flatMap s.recSteps) ++
    (s.decs.map fun d => .decrementApply d.key) ++ (s.insts.flatMap s.instSteps) ++
    ((s.signals.filter SigOut.refused).map fun x => .chunkRetryTimer (signalName x.m x.pkg)) ++
    (s.landings.map fun l => .chunkLand l.die l.key) ++ (s.links.map fun l => .gatedCommandStart l.c) ++
    (s.foreign.map fun f => .lineEviction f.die f.line) ++ [.idleEntry]

/-- A move of one that waits on the agenda, of an agent in turn, or of one of those that can act, by the device's free choice; the
cycle ends, with no move, only when none is left that comes before its end. Log 1 (DESIGN CHOICE); 89 (DEDUCED). -/
def State.move (s : State) : Option Move :=
  match s.agenda with
  | e :: rest => some ⟨e, { s with agenda := rest, turn := .own }, none⟩
  | [] =>
    match s.inTurn with
    | some m => some m
    | none =>
      let ps := s.pressing
      let es := (s.events.map fun e => (⟨e, s, none⟩ : Move)).filter Move.changes
      let l := (ps ++ es).map some
      (pickOf (Config.choice s.fresh) (if ps.isEmpty then none :: l else l)).join

/-! ## The end of a step and of a cycle -/

/-- A stall watchdog timer counts (17 R322). -/
def State.watchOn (s : State) (d : Nat) (x : Ctx) : Ctx :=
  if x.st = .live ∧ s.timerRuns x = true then { x with watch := x.watch + d } else x

/-- Cycles pass (12 R254): every tile and engine may have its next grant, what waits for another party is tried again, and
notifications whose release can be performed leave. Log 1 (DESIGN CHOICE); 3 (DESIGN CHOICE). -/
def State.pass (s : State) : State :=
  let d := 1 + Config.cycles s.fresh
  let s : State := { s with
    cycle := s.cycle + d, granted := [], agenda := s.agenda ++ s.later, later := [], ctxs := s.ctxs.map (s.watchOn d) }
  (s.queues.map Queue.num).foldl State.sendNotes s

/-- A step is over: no agent is in turn, and the next draw stands ready. Log 4 (DESIGN CHOICE). -/
def State.tick (s : State) : State := { s with fresh := s.fresh + 1, turn := .idle, wrote := [] }

/-- The instruction that settled waits, so that it took no grant (07 R154). -/
def State.waited (s : State) : Bool :=
  match s.turnNode with
  | some (_, _, n) => decide (n.st = .waiting)
  | none => false

/-- The state after a move, with the grant it took. -/
def Move.after (m : Move) (t : State) : State :=
  match m.grant with
  | some p => if t.waited then t else t.granting p
  | none => t

/-- A step's outcome: its mirror messages leave, and it is over. -/
def ticked (s : State) (f : State → State) : Host.Outcome State Fault Refusal → Host.Outcome State Fault Refusal
  | .next t => .next (s.mirror (f t)).tick
  | .fault r => .fault r
  | .refused r => .refused r

/-! ## An instruction placed for the next step -/

/-- A token of what a slot takes, all zero. -/
def zeroToken : Need → Token
  | .sh .v => .v (laneAll (some 0))
  | .sh .p => .p (laneAll (some true))
  | .sh .k => .k (laneAll (some 0))
  | _ => .s 0

/-- A node of a word with a token in each slot that it consumes. -/
def placedNode (w : Word) (i : Instr) : Node := (slotsOf i).foldl (fun n s => n.fill s.1 (zeroToken s.2)) (freshNode w i)

/-- A kernel of the largest shape. -/
def widestDesc : KDesc := ⟨0, ⟨8, 8, 16, 8, 8⟩⟩

/-- A group in slot 0 of tile 0 of CD0 that has fetched a block with one tile instruction. -/
def placedGroup (s : State) (w : Word) (i : Instr) : Group :=
  let p : Place := ⟨0, 0, 0⟩
  { freshGroup p 0 (s.genOf 0) 0 0 [p] false widestDesc (List.replicate 8 {}) (List.replicate 8 none) [] [] s.cycle with
    run := some ⟨0, 1, 16, 0, false, false, List.replicate 16 0, [placedNode w i], 0, []⟩ }

/-- A tile instruction stands in a block that a group has fetched, and the group is in turn. Log 10 (DESIGN CHOICE). -/
def State.placeTile (s : State) (w : Word) (i : Instr) : State :=
  { s with
    agenda := []
    turn := .group ⟨0, 0, 0⟩
    groups := placedGroup s w i :: s.groups.filter fun g => g.place != ⟨0, 0, 0⟩ }

/-- An instance of CD0 about to perform the word at index 0 of its program. -/
def placedInst (s : State) : Inst :=
  ⟨s.keys, 0, 0, 0, 0, 0, .live, true, 0, List.replicate 16 0, List.replicate 8 ⟨0, 0, 0⟩, 0, [], [], [], [], [], [], ⟨0, 0, 0⟩, 0,
    ⟨0, 0, 0, 0, 0, 0, 0, 0, 0⟩, [], ⟨0, 0, 0⟩, false, false, false, false, 0, 1⟩

/-- A Rein instruction stands at index 0 of a registered program, and an instance of it is in turn. Log 10 (DESIGN CHOICE). -/
def State.placeRein (s : State) (w : Word) : State :=
  { s with
    agenda := []
    turn := .inst 0 s.keys
    keys := s.keys + 1
    progs := ⟨0, 0, 0, [0, 0, 0, 0, w, 0], [0], 0, 0, some 1, none⟩ :: s.progs.filter fun p => !(p.die == 0 && p.ctx == 0 && p.id == 0)
    insts := placedInst s :: s.insts }

/-- An instruction word stands where the next step takes its instruction from. Log 10 (DESIGN CHOICE). -/
def State.putWord (s : State) (w : Word) : State :=
  match decode w with
  | .ok i => s.placeTile w i
  | .error _ =>
    match decodeRein w with
    | .ok _ => s.placeRein w
    | .error _ => s

end Sys2Proof.Machine
end

