-- ==== Sys2Proof/Machine/Step.lean ====
section
/-!
DEFINITION. Machine/Step.lean: one step of the package, and an instruction placed where the next step finds it.
-/
namespace Sys2Proof.Machine

/-- One step: the next move, or cycles that pass. Log 1 (DESIGN CHOICE); 10 (DESIGN CHOICE). -/
def step (s : State) : Host.Outcome State Fault Refusal :=
  match s.move with
  | some m => ticked s m.after (exec m.ins m.st)
  | none => ticked s id (.next s.pass)

/-- `s` with an instruction word placed so that the next step performs it: a tile instruction in a block that a group in turn
has fetched, its operands zero; a word that only the Rein map takes in a program whose instance is in turn. Log 10 (DESIGN CHOICE). -/
def State.withFetchWord (s : State) (nbits w : Nat) : State := s.putWord (wordN (ofBytes (bytesOf (w % 2 ^ nbits) 8)))

end Sys2Proof.Machine
end

