-- ==== Sys2Proof/Safety.lean ====
section
/-!
DEFINITION. Safety.lean: what a safe run is: a run of steps that never stops, so that every outcome is a next state.
-/
namespace Sys2Proof

/-- A step from the state answers a next state. -/
def Safe (s : Machine.State) : Prop := ∃ t, Machine.step s = .next t

/-- A run of `k` steps answers a next state. -/
def SafeFor (k : Nat) (s : Machine.State) : Prop := ∃ t, core.run k s = .next t

/-- The memory of a state is in canonical form: the package's home memory, every window and every accumulator. -/
def Canonical (s : Machine.State) : Prop :=
  Machine.Memory.wf s.mem = true ∧
  ∀ g ∈ s.groups, (∀ w ∈ g.win, Machine.Memory.wf w.cells = true) ∧ ∀ a ∈ g.acc, Machine.Memory.wf a.cells = true

end Sys2Proof
end

