-- ==== Sys2Proof/WellFormed.lean ====
section
/-!
DEFINITION. WellFormed.lean: the instructions that have a word: what a format admits beyond the types of its
operands (02 R35, R39, R40; 05 R113, R115; 08 R166 to R181; 12 R244; 19 R352). An event has no word and is
well-formed.
-/
namespace Sys2Proof

/-- The types `.f64 .f32 .f16 .bf16` (05 R115). -/
def FTy.isF4 : FTy → Bool
  | .f64 | .f32 | .f16 | .bf16 => true
  | _ => false

/-- An integer type, or one of the four floating types of the vector unit. -/
def ETy.vec : ETy → Bool
  | .i _ => true
  | .f t => t.isF4

/-- The modifiers of an arithmetic cell: an integer type takes no rounding mode (05 R115). -/
def arithMods (t : ETy) (m : VMods) : Bool :=
  match t with
  | .i _ => decide (m.rnd = .rne)
  | .f t => t.isF4

/-- VABS and VNEG: .sat with an integer type only. -/
def signMods (t : ETy) (sat : Bool) : Bool :=
  match t with
  | .i _ => true
  | .f t => t.isF4 && !sat

/-- VREDUCE and VSCAN (05 R124, R125). -/
def redMods (t : ETy) (kind : Red) (m : VMods) : Bool :=
  match t with
  | .i _ => decide (m.rnd = .rne) && (!m.sat || decide (kind = .sum))
  | .f t => t.isF4 && !m.sat && (decide (m.rnd = .rne) || decide (kind = .sum))

/-- VCVT (05 R110, R122). -/
def cvtMods (dst src : ETy) (m : VMods) : Bool :=
  decide (m.mask ≠ .keep) &&
    (match dst, src with
      | .i _, .i _ => decide (m.rnd = .rne)
      | _, _ => true) &&
    (decide (m.mask = .none) || (decide (dst ≠ .f .e2m1) && decide (src ≠ .f .e2m1)))

/-- The types of MMA and MMA.G (08 R166). -/
def FTy.isMma : FTy → Bool
  | .f64 | .f32 => false
  | _ => true

/-- The types of MMAS (08 R166). -/
def FTy.isMmas : FTy → Bool
  | .e4m3 | .e5m2 | .e2m1 => true
  | _ => false

/-- The types of REDUCE (19 R352). -/
def ETy.isReduce : ETy → Bool
  | .i _ => true
  | .f t => decide (t = .f32) || decide (t = .bf16) || decide (t = .e4m3)

/-- A well-formed instruction. -/
def Instr.wf : Instr → Bool
  | .vadd _ t _ m | .vsub _ t _ m | .vmul _ t _ m => arithMods t m
  | .vdiv _ t _ _ => t.isF4
  | .vmin _ t _ _ | .vmax _ t _ _ => t.vec
  | .vcmp _ _ t _ k => decide (t ≠ .f .e2m1) && decide (k ≠ .keep)
  | .vfma _ t _ _ => t.isF4
  | .vabs _ t s _ | .vneg _ t s _ => signMods t s
  | .vcvt _ d s m => cvtMods d s m
  | .vsqrt _ t _ | .vrcp _ t _ | .vexp2 _ t _ | .vlog2 _ t _ => t.isF4
  | .vrsqrte _ t _ => t.isF4
  | .vtanh _ t _ => t.isF4 && decide (t ≠ .f64)
  | .vreduce _ t kind m => redMods t kind m && decide (m.mask ≠ .keep)
  | .vscan _ t kind m => redMods t kind m
  | .vbcast _ _ k | .viota _ _ k => decide (k ≠ .keep)
  | .vsortk _ t k => t.vec && decide (k ≠ .keep)
  | .vmerge _ t => t.vec
  | .mma _ t _ => t.isMma
  | .mmaG _ t o => t.isMma && o.qa.isNone && (o.qb.isSome || !o.arrive)
  | .mmas _ t _ => t.isMmas
  | .mzero _ _ accs => decide (accs ≠ 0)
  | .qinit _ _ _ _ c => decide (c.toNat ≤ 8)
  | .cpy _ o => !o.ring.isSome || !o.out
  | .cpyS _ o | .cpyPeer _ o => !o.out
  | .cpy2d _ o => (!o.ring.isSome || !o.out) && decide (o.bytes = 0)
  | .cpyMc _ o => !o.out && o.ring.isNone
  | .cpyg _ o => !o.out && decide (o.bytes = 0)
  | .alloc _ _ _ j => decide (6 ≤ j.toNat) && decide (j.toNat ≤ 30)
  | .reduce _ _ _ _ t => t.isReduce
  | _ => true

/-- A well-formed word stands for a tile instruction. -/
def Instr.isTile : Instr → Bool
  | .nop | .movg _ _ | .reinMovi _ _ | .addg _ _ _ | .addi _ _ _ | .subg _ _ _ | .mulg _ _ _ | .modg _ _ _ => false
  | .andg _ _ _ | .shrg _ _ _ | .jmp _ | .loop _ _ | .bnz _ _ | .bz _ _ | .setchunk _ _ _ _ | .addc _ _ => false
  | .peer _ _ _ | .send _ _ _ | .recv _ _ | .reduce _ _ _ _ _ | .copy _ _ | .wait _ | .reinSignal _ => false
  | .tagchk _ _ | .reinFence | .done => false
  | .blockFetchDecode _ | .runAhead _ _ | .awaitedTokenArrives _ | .blockComplete _ | .leaseWaitExpiry _ => false
  | .runtimeFaultDiscard _ | .cutGraceExpiry _ | .storePerform _ | .lineEviction _ _ | .pageWalk _ _ _ _ _ => false
  | .touchCommit _ _ _ | .pageCommandPerform _ | .invalidation _ | .invalidationComplete _ | .migratePage _ _ => false
  | .matrixCommandStart _ | .matrixCommandRetire _ | .copyPiece _ _ _ | .engineFaultReport _ | .streamPrefetch _ _ => false
  | .poisonError _ | .uncorrectableGroupState _ _ | .correctedError _ _ | .errorWindowExpiry _ => false
  | .trapRecordWrite _ | .trapQueueHeadPoll _ | .handlerSpawn _ | .decrementApply _ | .decrementMessage _ => false
  | .placement _ _ _ | .prefetchLanded _ | .multicastWaitExpiry _ | .binding _ _ _ | .runnableTimeout _ _ _ => false
  | .taskCompletion _ _ | .relayHold _ | .stallWatchdogExpiry _ | .instanceStart _ _ | .chunkArrival _ _ => false
  | .chunkLand _ _ | .chunkAck _ | .chunkNak _ | .chunkRetryTimer _ | .signalArrival _ | .abortArrival _ => false
  | .saveComplete _ | .restoreComplete _ | .drainReductionRound _ _ => false
  | .hello _ | .createContext _ _ | .tearDown _ | .preEmpt _ | .resume _ | .podSwitch _ | .registerTemplate _ => false
  | .launch _ | .signal _ | .bridleWrite _ | .bridleRead _ | .status _ | .linkQueues _ | .gatedCommandStart _ => false
  | .map _ | .powerTolerance _ | .loadFirmware _ | .attest _ | .createTask _ | .health _ | .configurePackage _ => false
  | .registerRegion _ | .deregisterRegion _ | .connectQueuePair _ | .unknownOpcode _ => false
  | .rdmaWrite _ _ _ _ | .rdmaRead _ _ _ _ | .remoteInvalidRequest _ | .ualinkRemoteAccess _ _ _ | .heartbeat => false
  | .packageFailed _ | .recoveryRebuild _ | .idleEntry | .wake | .errorSelect _ | .powerLimit _ | .reset => false
  | .readOnlyRegisterWrite _ _ | .taskProbe _ _ | .recoveryMirror _ => false
  | _ => true

/-- A Rein instruction. -/
def Instr.isRein : Instr → Bool
  | .nop | .movg _ _ | .reinMovi _ _ | .addg _ _ _ | .addi _ _ _ | .subg _ _ _ | .mulg _ _ _ | .modg _ _ _ => true
  | .andg _ _ _ | .shrg _ _ _ | .jmp _ | .loop _ _ | .bnz _ _ | .bz _ _ | .setchunk _ _ _ _ | .addc _ _ => true
  | .peer _ _ _ | .send _ _ _ | .recv _ _ | .reduce _ _ _ _ _ | .copy _ _ | .wait _ | .reinSignal _ => true
  | .tagchk _ _ | .reinFence | .done => true
  | _ => false

end Sys2Proof
end

