-- ==== Sys2Proof/Certificates/Slice0/Obligations.lean ====
section
/-!
DEFINITION. Certificates/Slice0/Obligations.lean: what is claimed of the model. Statements say what the numbered rules of
spec/ say an instruction or the machine does; helpers under Sys2Proof.Claims say it in their own words where they can.
Log <n> is notes/assumptions/<n>.md: what a statement says by it is the model's choice or inference, and no rule of spec/.
-/

open Sys2Proof Sys2Proof.Machine

/-! ## What the statements are said with -/

/-- The turn stands at an instruction: group, running block, node; its guard lets the lanes `ls` execute, and no data
operand is wholly void (07 R145). -/
structure Sys2Proof.Claims.Fires (s : State) (i : Instr) (g : Group) (r : BlockRun) (n : Node) (ls : List Nat) : Prop where
  turn : s.turnNode = some (g, r, n)
  guard : guardLanes g.shape.lanes (ctlOf i).guard n.g = some ls
  live : ∀ t ∈ dataTokens i n, t.voidAll g.shape.lanes = false

/-- The instruction completes: the next state is the firing `f` resolved at the turn's node. -/
def Sys2Proof.Claims.Gives (s : State) (i : Instr) (g : Group) (f : Fired) : Prop :=
  exec i s = .next (State.resolveFired g.place i f)

/-- The instruction completes, changes nothing outside its block and delivers one token. -/
def Sys2Proof.Claims.Delivers (s : State) (i : Instr) (g : Group) (t : Token) : Prop :=
  Claims.Gives s i g { s := s, res := t }

/-- Width of an integer type (02 R35). -/
def Sys2Proof.Claims.width : ITy → Nat
  | .s8 | .n8 => 8
  | .s16 | .n16 => 16
  | .s32 | .n32 => 32
  | .s64 | .n64 => 64

/-- A signed integer type. -/
def Sys2Proof.Claims.signed : ITy → Bool
  | .s8 | .s16 | .s32 | .s64 => true
  | _ => false

/-- The w-bit pattern of a token. -/
def Sys2Proof.Claims.pat (t : ITy) (x : Word) : BitVec (Claims.width t) := x.setWidth (Claims.width t)

/-- The value of a w-bit pattern (04 R81). -/
def Sys2Proof.Claims.bval (t : ITy) (x : BitVec (Claims.width t)) : Int :=
  if Claims.signed t then x.toInt else (x.toNat : Int)

/-- `val(x, T)` (04 R81). -/
def Sys2Proof.Claims.val (t : ITy) (x : Word) : Int := Claims.bval t (Claims.pat t x)

/-- `ext(v, T)` (04 R81). -/
def Sys2Proof.Claims.ext (t : ITy) (v : BitVec (Claims.width t)) : Word :=
  if Claims.signed t then v.signExtend 64 else v.setWidth 64

/-- The lowest and the highest value of T. -/
def Sys2Proof.Claims.lo (t : ITy) : Int := if Claims.signed t then -(2 ^ (Claims.width t - 1)) else 0
/-- The highest value of T. -/
def Sys2Proof.Claims.hi (t : ITy) : Int :=
  if Claims.signed t then 2 ^ (Claims.width t - 1) - 1 else 2 ^ Claims.width t - 1

/-- The pattern of `fit(v, T, s)` (04 R81): wrapped, or the nearest end of the range. -/
def Sys2Proof.Claims.bfit (t : ITy) (sat : Bool) (v : Int) : BitVec (Claims.width t) :=
  BitVec.ofInt (Claims.width t) (if sat then max (Claims.lo t) (min v (Claims.hi t)) else v)

/-- `ext(fit(v, T, s), T)` (04 R81). -/
def Sys2Proof.Claims.fit (t : ITy) (sat : Bool) (v : Int) : Word := Claims.ext t (Claims.bfit t sat v)

/-- The second operand of a cell: token, immediate or literal (04 R81, R94). -/
def Sys2Proof.Claims.second (r : BlockRun) (n : Node) : SForm → Word
  | .p => (n.r.getD .void).word
  | .i imm => imm.signExtend 64
  | .l k => r.lits.getD k.toNat 0

/-- As `second`, for the cells with .sat, beside the saturate bit. -/
def Sys2Proof.Claims.secondSat (r : BlockRun) (n : Node) : SatForm → Word × Bool
  | .p sat => ((n.r.getD .void).word, sat)
  | .i imm => (imm.signExtend 64, false)
  | .l k sat => (r.lits.getD k.toNat 0, sat)

/-- The lesser or greater value. -/
def Sys2Proof.Claims.lesser (a b : Int) : Int := if a ≤ b then a else b
/-- The greater value. -/
def Sys2Proof.Claims.greater (a b : Int) : Int := if a ≤ b then b else a

/-- DIV's value: toward zero, 0 for a zero divisor (04 R95). -/
def Sys2Proof.Claims.quot (a b : Int) : Int := if b = 0 then 0 else Int.tdiv a b

/-- The result of an arithmetic cell: ADD, SUB, MUL, DIV, REM, MULH, MAD, NEG, ABS, MIN, MAX (04 R95). -/
def Sys2Proof.Claims.arith (i : Instr) (r : BlockRun) (n : Node) : Option Word :=
  let a := (n.l.getD .void).word
  let two (t : ITy) (f : SatForm) (op : Int → Int → Int) : Option Word :=
    some (Claims.fit t (Claims.secondSat r n f).2 (op (Claims.val t a) (Claims.val t (Claims.secondSat r n f).1)))
  let plain (t : ITy) (f : SForm) (op : Int → Int → Int) : Option Word :=
    some (Claims.fit t false (op (Claims.val t a) (Claims.val t (Claims.second r n f))))
  match i with
  | .add _ t f => two t f fun a b => a + b
  | .sub _ t f => two t f fun a b => a - b
  | .mul _ t f => two t f fun a b => a * b
  | .div _ t f => two t f Claims.quot
  | .rem _ t f => two t f fun a b => a - b * Claims.quot a b
  | .mulh _ t f => plain t f fun a b => a * b / 2 ^ Claims.width t
  | .mad _ t (.p sat) =>
    some (Claims.fit t sat (Claims.val t a * Claims.val t (n.r.getD .void).word + Claims.val t (n.t.getD .void).word))
  | .mad _ t (.l k sat) =>
    some (Claims.fit t sat (Claims.val t a * Claims.val t (n.r.getD .void).word + Claims.val t (r.lits.getD k.toNat 0)))
  | .neg _ t sat => some (Claims.fit t sat (-(Claims.val t a)))
  | .abs _ t sat => some (Claims.fit t sat (if 0 ≤ Claims.val t a then Claims.val t a else -(Claims.val t a)))
  | .min _ t f => plain t f Claims.lesser
  | .max _ t f => plain t f Claims.greater
  | _ => none

/-- Position and length of a bit field (04 R96). -/
def Sys2Proof.Claims.field (t : ITy) (ctl : Word) : Nat × Nat :=
  ((ctl.extractLsb' 0 6).toNat, min (ctl.extractLsb' 8 7).toNat (Claims.width t - (ctl.extractLsb' 0 6).toNat))

/-- The result of a pattern cell: AND, OR, XOR, NOT, the shifts, CLZ, POPC, BFX, BFI, LEA, SEXT, ZEXT (04 R95, R96). -/
def Sys2Proof.Claims.pattern (i : Instr) (r : BlockRun) (n : Node) : Option Word :=
  let a := (n.l.getD .void).word
  let two (t : ITy) (f : SForm)
      (op : BitVec (Claims.width t) → BitVec (Claims.width t) → BitVec (Claims.width t)) : Option Word :=
    some (Claims.ext t (op (Claims.pat t a) (Claims.pat t (Claims.second r n f))))
  match i with
  | .and _ t f => two t f fun a b => a &&& b
  | .or _ t f => two t f fun a b => a ||| b
  | .xor _ t f => two t f fun a b => a ^^^ b
  | .not _ t => some (Claims.ext t (~~~(Claims.pat t a)))
  | .shl _ t f => two t f fun a b => a <<< (b.toNat % Claims.width t)
  | .shr _ t f => two t f fun a b => a >>> (b.toNat % Claims.width t)
  | .sra _ t f => two t f fun a b => a.sshiftRight (b.toNat % Claims.width t)
  | .rot _ t f => two t f fun a b => a.rotateLeft (b.toNat % Claims.width t)
  | .clz _ t => some ((Claims.pat t a).clz.setWidth 64)
  | .popc _ t => some (BitVec.ofNat 64 ((List.range (Claims.width t)).countP (Claims.pat t a).getLsbD))
  | .bfx _ t f =>
    let fl := Claims.field t (match f with
      | .p => (n.r.getD .void).word
      | .i imm => imm.signExtend 64)
    let v := (Claims.pat t a).extractLsb' fl.1 fl.2
    some (if Claims.signed t then v.signExtend 64 else v.setWidth 64)
  | .bfi _ t f =>
    let fl := Claims.field t (match f with
      | .p => (n.t.getD .void).word
      | .i imm => imm.signExtend 64)
    let hole : BitVec (Claims.width t) := (BitVec.allOnes fl.2).setWidth (Claims.width t) <<< fl.1
    some (Claims.ext t ((Claims.pat t a &&& ~~~hole) ||| ((Claims.pat t (n.r.getD .void).word <<< fl.1) &&& hole)))
  | .lea _ t f => some (a + BitVec.ofInt 64 (Claims.val t (Claims.second r n f) * ((Claims.width t / 8 : Nat) : Int)))
  | .sext _ t => some ((Claims.pat t a).signExtend 64)
  | .zext _ t => some ((Claims.pat t a).setWidth 64)
  | _ => none

/-- `a cond b` (04 R97). -/
def Sys2Proof.Claims.holds (c : Cond) (a b : Int) : Bool :=
  match c with
  | .eq => decide (a = b)
  | .ne => decide (a ≠ b)
  | .lt => decide (a < b)
  | .le => decide (a ≤ b)
  | .gt => decide (a > b)
  | .ge => decide (a ≥ b)

/-- A P token that holds `f l` in each lane of `ls` in which no data token is void. -/
def Sys2Proof.Claims.IsP (t : Token) (ls : List Nat) (data : List Token) (f : Nat → Bool) : Prop :=
  ∃ x : Lanes (Option Bool), t = .p x ∧ ∀ l < 8, laneGet x l =
    if l ∈ ls ∧ (∀ d ∈ data, d.voidAt l = false) then some (f l) else none

/-- A V token that holds `f l` in each lane of `ls` in which no data token is void. -/
def Sys2Proof.Claims.IsV (t : Token) (ls : List Nat) (data : List Token) (f : Nat → LaneBits) : Prop :=
  ∃ x : Lanes (Option LaneBits), t = .v x ∧ ∀ l < 8, laneGet x l =
    if l ∈ ls ∧ (∀ d ∈ data, d.voidAt l = false) then some (f l) else none

/-- A K token that holds `f l` in each lane of `ls` in which no data token is void. -/
def Sys2Proof.Claims.IsK (t : Token) (ls : List Nat) (data : List Token) (f : Nat → MaskBits) : Prop :=
  ∃ x : Lanes (Option MaskBits), t = .k x ∧ ∀ l < 8, laneGet x l =
    if l ∈ ls ∧ (∀ d ∈ data, d.voidAt l = false) then some (f l) else none

/-! ## Scalar, compare, predicate, block and control instructions -/

/-- 04 R81, R95: ADD, SUB, MUL, DIV, REM, MULH, MAD, NEG, ABS, MIN and MAX in every form complete with the value of R95,
fitted and extended under T, delivered as an S token; nothing outside the block changes. -/
def Sys2Proof.Claims.ScalarArithmetic : Prop :=
  ∀ (s : State) (i : Instr) (g : Group) (r : BlockRun) (n : Node) (ls : List Nat) (w : Word),
    Claims.Fires s i g r n ls → Claims.arith i r n = some w → Claims.Delivers s i g (.s w)

/-- 04 R95, R96: AND, OR, XOR, NOT, SHL, SHR, SRA, ROT, CLZ, POPC, BFX, BFI, LEA, SEXT and ZEXT complete with the pattern
of R95 or R96, delivered as an S token; nothing outside the block changes. -/
def Sys2Proof.Claims.ScalarPatterns : Prop :=
  ∀ (s : State) (i : Instr) (g : Group) (r : BlockRun) (n : Node) (ls : List Nat) (w : Word),
    Claims.Fires s i g r n ls → Claims.pattern i r n = some w → Claims.Delivers s i g (.s w)

/-- 04 R97: CMP completes with the bit `a cond b` in every executing lane, and void in the others. -/
def Sys2Proof.Claims.Compare : Prop :=
  ∀ (s : State) (c : Ctl) (cond : Cond) (t : ITy) (f : SForm) (g : Group) (r : BlockRun) (n : Node) (ls : List Nat),
    Claims.Fires s (.cmp c cond t f) g r n ls →
    ∃ tok, Claims.Delivers s (.cmp c cond t f) g tok ∧
      Claims.IsP tok ls [] fun _ =>
        Claims.holds cond (Claims.val t (n.l.getD .void).word) (Claims.val t (Claims.second r n f))

/-- 04 R98, R83: PAND, POR, PXOR, PNOT and PLANE complete lane by lane, void where a data token is void; PCOUNT counts the
active lanes of .l that hold 1, and is void if .l is void in an active lane. -/
def Sys2Proof.Claims.Predicates : Prop :=
  ∀ (s : State) (c : Ctl) (imm : BitVec 8) (g : Group) (r : BlockRun) (n : Node) (ls : List Nat),
    let a := n.l.getD .void
    let b := n.r.getD .void
    (Claims.Fires s (.pand c) g r n ls → ∃ t, Claims.Delivers s (.pand c) g t ∧
      Claims.IsP t ls [a, b] fun l => a.pLane l && b.pLane l) ∧
    (Claims.Fires s (.por c) g r n ls → ∃ t, Claims.Delivers s (.por c) g t ∧
      Claims.IsP t ls [a, b] fun l => a.pLane l || b.pLane l) ∧
    (Claims.Fires s (.pxor c) g r n ls → ∃ t, Claims.Delivers s (.pxor c) g t ∧
      Claims.IsP t ls [a, b] fun l => a.pLane l != b.pLane l) ∧
    (Claims.Fires s (.pnot c) g r n ls → ∃ t, Claims.Delivers s (.pnot c) g t ∧
      Claims.IsP t ls [a] fun l => !a.pLane l) ∧
    (Claims.Fires s (.plane c imm) g r n ls → ∃ t, Claims.Delivers s (.plane c imm) g t ∧
      Claims.IsP t ls [] fun l => imm.getLsbD l) ∧
    (Claims.Fires s (.pcount c) g r n ls →
      Claims.Delivers s (.pcount c) g
        (if ∃ l < g.shape.lanes, a.voidAt l = true then .void
          else .s (BitVec.ofNat 64 ((List.range g.shape.lanes).countP a.pLane))))

/-- A register's lanes in the executing lanes, void elsewhere (04 R82, R87). -/
def Sys2Proof.Claims.OfReg {α : Type} (x : Lanes (Option α)) (ls : List Nat) (v : Lanes α) : Prop :=
  ∀ l < 8, laneGet x l = if l ∈ ls then some (laneGet v l) else none

/-- The token of a stream element (08 R189): a scalar stream's is its 8 bytes; a vector stream's holds, in each executing lane
of those it was bound with, the 128 bytes of that lane, and is void elsewhere. -/
def Sys2Proof.Claims.IsElem (tok : Token) (st : Stream) (ls : List Nat) (bs : List Byte) : Prop :=
  if st.vec = true then ∃ x : Lanes (Option LaneBits), tok = .v x ∧ ∀ l < 8, laneGet x l =
    if l ∈ ls ∧ l < st.lanes then some (BitVec.ofNat 1024 (ofBytes ((bs.drop (128 * l)).take 128))) else none
  else tok = .s (BitVec.ofNat 64 (ofBytes (bs.take 8)))

/-- The next of some stream elements could not be fetched, by a cause at an address, or holds a poisoned granule (08 R190;
14 R272). -/
def Sys2Proof.Claims.Meets (buf rest : List SElem) (cause va : Nat) : Prop :=
  buf = .fault cause va :: rest ∨ ∃ bs, buf = .data bs (some va) :: rest ∧ cause = 0x08C

/-- 04 R87, R88, R82; 08 R189, R190; 11 R230; 14 R272: READ of a register of class x, v, p or k completes with the register's value: 0 for
x0, void in the lanes that do not execute. READ of a stream register that is not bound, or whose stream is exhausted (no element
is held, and a memory stream has moved its count, a landing stream or a task edge has ended), delivers void. That of one whose
next element is held without fault or poison delivers the element, lane by lane for a vector stream, and marks it popped; a task
edge's is an acquire, at which the die's foreign lines are dropped, and it is delivered where no lease of another party covers
what that writes back. That of one whose next element met a fault as it was fetched, or is poisoned, faults with that cause at its
address. That an output's READ meets the same end is log 117 (DESIGN CHOICE), and that a landing stream's end
persists log 118 (DESIGN CHOICE). -/
def Sys2Proof.Claims.ReadRegisters : Prop :=
  ∀ (s : State) (c : Ctl) (t : ITy) (g : Group) (r : BlockRun) (n : Node) (ls : List Nat),
    (∀ k, Claims.Fires s (.read c t (.x k)) g r n ls →
      Claims.Delivers s (.read c t (.x k)) g (.s (if k = 0 then 0 else g.x.getD k.toNat 0))) ∧
    (∀ k, Claims.Fires s (.read c t (.v k)) g r n ls → ∃ x, Claims.Delivers s (.read c t (.v k)) g (.v x) ∧
      Claims.OfReg x ls (g.v.getD k.toNat (laneAll 0))) ∧
    (∀ k, Claims.Fires s (.read c t (.p k)) g r n ls → ∃ x, Claims.Delivers s (.read c t (.p k)) g (.p x) ∧
      Claims.OfReg x ls (g.p.getD k.toNat (laneAll false))) ∧
    (∀ k, Claims.Fires s (.read c t (.k k)) g r n ls → ∃ x, Claims.Delivers s (.read c t (.k k)) g (.k x) ∧
      Claims.OfReg x ls (g.k.getD k.toNat (laneAll 0))) ∧
    (∀ k, Claims.Fires s (.read c t (.s k)) g r n ls → g.s.getD k.toNat none = none →
      Claims.Delivers s (.read c t (.s k)) g .void) ∧
    (∀ k st, Claims.Fires s (.read c t (.s k)) g r n ls → g.s.getD k.toNat none = some st → st.buf = [] →
      ((∃ a b m, st.src = .mem a b m ∧ m ≤ st.moved) ∨ (∃ d id p, st.src = .rein d id p ∧ st.ended = true)) →
      Claims.Delivers s (.read c t (.s k)) g .void) ∧
    (∀ k st bs rest, Claims.Fires s (.read c t (.s k)) g r n ls → g.s.getD k.toNat none = some st →
      (∀ b, st.src ≠ .edge b) → st.buf = .data bs none :: rest →
      ∃ tok, Claims.Gives s (.read c t (.s k)) g { s := s, res := tok, popped := some k.toNat } ∧ Claims.IsElem tok st ls bs) ∧
    (∀ k st b x, Claims.Fires s (.read c t (.s k)) g r n ls → g.s.getD k.toNat none = some st → st.src = .edge b →
      (g.edges.find? fun x => x.bind == b) = some x →
      (x.buf = [] → x.ended = true → Claims.Delivers s (.read c t (.s k)) g .void) ∧
      (∀ bs rest, x.buf = .data bs none :: rest → s.backBlocked (some g.place) g.place.die = false →
        ∃ tok, Claims.Gives s (.read c t (.s k)) g { s := s.dropForeign g.place.die, res := tok, popped := some k.toNat } ∧
          Claims.IsElem tok st ls bs)) ∧
    (∀ k st cause va rest, Claims.Fires s (.read c t (.s k)) g r n ls → g.s.getD k.toNat none = some st →
      (((∀ b, st.src ≠ .edge b) ∧ Claims.Meets st.buf rest cause va) ∨
        (∃ b x, st.src = .edge b ∧ (g.edges.find? fun x => x.bind == b) = some x ∧ Claims.Meets x.buf rest cause va)) →
      ∃ acc, exec (.read c t (.s k)) s = .next (s.resolveFault g.place (.faulted ⟨cause, va, acc⟩)))

/-- 04 R83, R89, R90, R91, R92, R93: WRITE holds its register and its token for commit and changes no register; MOV and FAN
deliver their token; MOVI delivers its immediate read under T, MOVL its literal, VOID void; SEL of S tokens delivers .l if
some active lane of .t is 1, else .r, and void where .t is void in an active lane; SEL of V, P and K tokens chooses lane by lane.
That WRITE holds the executing lanes only is log 23 (DEDUCED). -/
def Sys2Proof.Claims.MoveAndSelect : Prop :=
  ∀ (s : State) (c : Ctl) (t : ITy) (g : Group) (r : BlockRun) (n : Node) (ls : List Nat),
    let a := n.l.getD .void
    (∀ reg, Claims.Fires s (.write c t reg) g r n ls →
      Claims.Gives s (.write c t reg) g { s := s, wr := some ⟨reg, a.restrict ls⟩ }) ∧
    (Claims.Fires s (.mov c t) g r n ls → Claims.Delivers s (.mov c t) g (a.restrict ls)) ∧
    (∀ t0 t1 t2 t3, Claims.Fires s (.fan t t0 t1 t2 t3) g r n ls → Claims.Delivers s (.fan t t0 t1 t2 t3) g a) ∧
    (∀ imm, Claims.Fires s (.movi c t imm) g r n ls →
      Claims.Delivers s (.movi c t imm) g (.s (Claims.ext t (Claims.pat t (imm.signExtend 64))))) ∧
    (∀ k, Claims.Fires s (.movl c t k) g r n ls → Claims.Delivers s (.movl c t k) g (.s (r.lits.getD k.toNat 0))) ∧
    (∀ t0 t1, Claims.Fires s (.void t t0 t1) g r n ls → Claims.Delivers s (.void t t0 t1) g .void) ∧
    (∀ x y p, Claims.Fires s (.sel c t) g r n ls → a = .s x → n.r = some (.s y) → n.t = some p →
      (∀ l < g.shape.lanes, p.voidAt l = false) →
      Claims.Delivers s (.sel c t) g (.s (if ∃ l < g.shape.lanes, p.pLane l = true then x else y))) ∧
    (∀ x y p, Claims.Fires s (.sel c t) g r n ls → a = .v x → n.r = some (.v y) → n.t = some p →
      ∃ tok, Claims.Delivers s (.sel c t) g tok ∧
        Claims.IsV tok ls [.v x, .v y, p] fun l => if p.pLane l then Token.vLane l (.v x) else Token.vLane l (.v y)) ∧
    (∀ x y p, Claims.Fires s (.sel c t) g r n ls → a = .s x → n.r = some (.s y) → n.t = some p →
      (∃ l < g.shape.lanes, p.voidAt l = true) → Claims.Delivers s (.sel c t) g .void) ∧
    (∀ x y p, Claims.Fires s (.sel c t) g r n ls → a = .p x → n.r = some (.p y) → n.t = some p →
      ∃ tok, Claims.Delivers s (.sel c t) g tok ∧
        Claims.IsP tok ls [.p x, .p y, p] fun l => if p.pLane l then Token.pLane l (.p x) else Token.pLane l (.p y)) ∧
    (∀ x y p, Claims.Fires s (.sel c t) g r n ls → a = .k x → n.r = some (.k y) → n.t = some p →
      ∃ tok, Claims.Delivers s (.sel c t) g tok ∧
        Claims.IsK tok ls [.k x, .k y, p] fun l => if p.pLane l then Token.kLane l (.k x) else Token.kLane l (.k y))

/-- 04 R100, R101, R103, R105, R106: BR, BRI, CALL, RET, END and TRAP complete by holding their exit for the commit, and
change nothing else: BR's target is its token, BRI's and CALL's lie imm times 16 bytes from the header, and CALL's return
address and TRAP's resume address are the continuation, the 16-byte boundary after the block. -/
def Obligations.ControlExits : Prop :=
  ∀ (s : State) (c : Ctl) (g : Group) (r : BlockRun) (n : Node) (ls : List Nat),
    let after : Word := r.addr + BitVec.ofNat 64 (16 + (8 * (r.n + r.l) + 15) / 16 * 16)
    let there : BitVec 32 → Word := fun off => r.addr + off.signExtend 64 * 16
    (∀ a, n.l = some (.s a) → Claims.Fires s (.br c) g r n ls → Claims.Gives s (.br c) g { s := s, exit := some (.br a) }) ∧
    (∀ off, Claims.Fires s (.bri c off) g r n ls → Claims.Gives s (.bri c off) g { s := s, exit := some (.br (there off)) }) ∧
    (∀ off, Claims.Fires s (.call c off) g r n ls →
      Claims.Gives s (.call c off) g { s := s, exit := some (.call (there off) after) }) ∧
    (Claims.Fires s (.ret c) g r n ls → Claims.Gives s (.ret c) g { s := s, exit := some .ret }) ∧
    (Claims.Fires s (.endg c) g r n ls → Claims.Gives s (.endg c) g { s := s, exit := some .endg }) ∧
    (∀ k, Claims.Fires s (.trap c k) g r n ls →
      Claims.Gives s (.trap c k) g { s := s, exit := some (.trap k.toNat after) })

/-- 07 R145, 04 R83: an instruction whose guard lets no lane execute, or one of whose data operands is wholly void, resolves
void: its targets receive void, its node is nullified, and nothing outside its block changes. Stated of every tile
instruction. -/
def Sys2Proof.Claims.NullifiedDeliversVoid : Prop :=
  ∀ (s : State) (i : Instr) (g : Group) (r : BlockRun) (n : Node), i.isTile = true → s.turnNode = some (g, r, n) →
    (guardLanes g.shape.lanes (ctlOf i).guard n.g = none ∨ ∃ t ∈ dataTokens i n, t.voidAll g.shape.lanes = true) →
    exec i s = .next (s.resolveVoid g.place i)

/-- 07 R145, log 110 (DEDUCED): a tile instruction has its meaning only in a turn that stands at a running block; elsewhere exec
stops with the model's own fault noBlock, and the step function never applies it there. -/
def Sys2Proof.Claims.TileNeedsItsBlock : Prop :=
  ∀ (s : State) (i : Instr), i.isTile = true → s.turnNode = none → exec i s = .fault .noBlock

/-- 04 R81, R95, R96: every scalar integer and address instruction, in every form. -/
def Obligations.ScalarInstructions : Prop := Claims.ScalarArithmetic ∧ Claims.ScalarPatterns

/-- 04 R82, R83, R97, R98: CMP and the predicate instructions. -/
def Obligations.ComparesAndPredicates : Prop := Claims.Compare ∧ Claims.Predicates

/-- 04 R82, R83, R87 to R93: READ, WRITE, MOV, FAN, MOVI, MOVL, VOID and SEL. That WRITE holds the executing lanes only is log 23
(DEDUCED). -/
def Obligations.RegistersAndMoves : Prop := Claims.ReadRegisters ∧ Claims.MoveAndSelect

/-- An instruction names a slot of its block's instruction `j` as a target (02 R36; 07 R143). -/
def Sys2Proof.Claims.feeds (i : Instr) (j : Nat) (x : Slot) : Bool := (targetsOf i).any fun t => match t with
  | .to y b => decide (y = x ∧ b.toNat = j)
  | .off => false

/-- A node with the tokens that `f` gives its slots. -/
def Sys2Proof.Claims.holding (n : Node) (f : Slot → Option Token) : Node := { n with l := f .l, r := f .r, t := f .t, g := f .g }

/-- The token of a slot of node `j` once `i` has delivered `res` and the nodes `vs` of its block have delivered void (07 R143). -/
def Sys2Proof.Claims.token (ns : List Node) (i : Instr) (res : Token) (vs : List Nat) (j : Nat) (n : Node) (x : Slot) : Option Token :=
  if (vs.any fun v => ns[v]?.any fun q => Claims.feeds q.ins j x) = true then some .void
  else if Claims.feeds i j x = true then some res else n.slot x

/-- Every slot that the node consumes is full, and its guard or one of its data tokens resolves it void (07 R145). -/
def Sys2Proof.Claims.IsVoid (lanes : Nat) (n : Node) : Prop :=
  (∀ x ∈ slotsOf n.ins, n.slot x.1 ≠ none) ∧
    (guardLanes lanes (ctlOf n.ins).guard n.g = none ∨ ∃ t ∈ dataTokens n.ins n, t.voidAll lanes = true)

/-- The nodes of a block after its node `cur` of instruction `i` has resolved as `own` with the result `res` (07 R143, R145, R146):
its targets hold the result; the nodes that this makes void, one after another, are nullified, and their targets hold void; no
pending node is left that is void; a node that waited is pending again; every other node and slot stands. -/
def Sys2Proof.Claims.Settled (lanes : Nat) (i : Instr) (res : Token) (cur : Nat) (own : Node) (ns ns' : List Node) : Prop :=
  ∃ vs : List Nat, ns'.length = ns.length ∧
    (∀ j n, ns[j]? = some n → ns'[j]? = some (Claims.holding
      (if j = cur then own else if j ∈ vs then { n with st := .nulled } else if n.st = .waiting then { n with st := .pending } else n)
      (Claims.token ns i res vs j n))) ∧
    (∀ m ∈ ns', m.st = .pending → ¬ Claims.IsVoid lanes m) ∧
    ∀ k v, vs[k]? = some v → v ≠ cur ∧ ∃ q, ns[v]? = some q ∧ (q.st = .pending ∨ q.st = .waiting) ∧
      Claims.IsVoid lanes (Claims.holding q (Claims.token ns i res (vs.take k) v q))

/-- A node as its instruction's firing leaves it (07 R146). -/
def Sys2Proof.Claims.firedAs (n : Node) (f : Fired) : Node :=
  { n with st := if f.null then .nulled else .fired, fl := f.fl, eff := f.eff, exit := f.exit, wr := f.wr, popped := f.popped, leased := f.leased }

/-- 07 R143, R145, R146, R158: what a settled instruction does to its block, the one in turn of its group: void or its result goes to
its targets, its node keeps its effect, exit, register write and flags, and what is void then resolves void; a fault marks the node
alone. Nothing else of any group changes. -/
def Sys2Proof.Claims.SettlesItsBlock : Prop :=
  ∀ (s : State) (p : Place) (i : Instr) (g : Group) (r : BlockRun) (n : Node) (ahead : Bool), s.group? p = some g →
    s.turn = (if ahead then .ahead p else .group p) → (if ahead then g.ahead else g.run) = some r → r.nodes[r.cur]? = some n →
    let now (b : BlockRun) : State := s.setGroup p fun g => if ahead then { g with ahead := some b } else { g with run := some b }
    (∃ ns, Claims.Settled g.shape.lanes i .void r.cur { n with st := .nulled } r.nodes ns ∧
      s.resolveVoid p i = now { r with nodes := ns }) ∧
    (∀ f : Fired, f.s = s → ∃ ns, Claims.Settled g.shape.lanes i f.res r.cur (Claims.firedAs n f) r.nodes ns ∧
      State.resolveFired p i f = now { r with nodes := ns, pages := f.pages ++ r.pages }) ∧
    ∀ st, s.resolveFault p st = now { r with nodes := r.nodes.set r.cur { n with st := st } }

/-- 07 R143, R145, R146; 04 R83: what a tile instruction does to its block when it fires and when it does not, and that it needs its
block, which is log 110 (DEDUCED). -/
def Obligations.Settling : Prop := Claims.NullifiedDeliversVoid ∧ Claims.TileNeedsItsBlock ∧ Claims.SettlesItsBlock

/-! ## Vector, mask and special-function instructions -/

/-- `elem(x, e)` of a lane (05 R109). -/
def Sys2Proof.Claims.elem (w : Nat) (x : LaneBits) (e : Nat) : BitVec w := x.extractLsb' (w * e) w

/-- A V token whose lanes of `ls` in which no data token is void hold the elements `f l e`, and whose other lanes are
void (05 R114). -/
def Sys2Proof.Claims.ByElem (w : Nat) (tok : Token) (ls : List Nat) (data : List Token) (f : Nat → Nat → BitVec w) : Prop :=
  ∃ x : Lanes (Option LaneBits), tok = .v x ∧ ∀ l < 8,
    (l ∈ ls → (∀ d ∈ data, d.voidAt l = false) →
      ∃ y, laneGet x l = some y ∧ ∀ e < 1024 / w, Claims.elem w y e = f l e) ∧
    (¬(l ∈ ls ∧ ∀ d ∈ data, d.voidAt l = false) → laneGet x l = none)

/-- An element-wise operation: its operand forms and its mask use, with the element operation still to be named. -/
structure Sys2Proof.Claims.Shape where
  second : Option VForm
  third : Bool
  use : MaskUse

/-- The mask slot: the slot after the data slots (05 R113). -/
def Sys2Proof.Claims.maskTok (h : Claims.Shape) (n : Node) : Token :=
  match h.second with
  | none => n.r.getD .void
  | some (.l _) => n.r.getD .void
  | _ => n.t.getD .void

/-- The V and K tokens whose void lanes are void in the result. -/
def Sys2Proof.Claims.data (h : Claims.Shape) (n : Node) : List Token :=
  [n.l.getD .void] ++ (if h.second = some .v then [n.r.getD .void] else []) ++ (if h.third then [n.t.getD .void] else []) ++
    (if h.use = .none then [] else [Claims.maskTok h n])

/-- The mask bit of an element (05 R110). -/
def Sys2Proof.Claims.bit (h : Claims.Shape) (n : Node) (w l e : Nat) : Bool :=
  if h.use = .none then true else ((Claims.maskTok h n).kLane l).getLsbD (w / 8 * e)

/-- An element of the second operand (05 R112). -/
def Sys2Proof.Claims.other (h : Claims.Shape) (r : BlockRun) (n : Node) (w l e : Nat) : BitVec w :=
  match h.second with
  | some .v => Claims.elem w ((n.r.getD .void).vLane l) e
  | some .s => (n.r.getD .void).word.setWidth w
  | some (.l k) => (r.lits.getD k.toNat 0).setWidth w
  | none => 0

/-- The element rule of 05 R114: masked-off elements are zero or the .l element, the others what the operation gives. -/
def Sys2Proof.Claims.rule (h : Claims.Shape) (r : BlockRun) (n : Node) (w : Nat)
    (op : Nat → Nat → BitVec w → BitVec w → BitVec w → BitVec w) (l e : Nat) : BitVec w :=
  let x := Claims.elem w ((n.l.getD .void).vLane l) e
  if Claims.bit h n w l e then op l e x (Claims.other h r n w l e) (Claims.elem w ((n.t.getD .void).vLane l) e)
  else if h.use = .keep then x else 0

/-- An integer element-wise instruction: type, operands and element operation (05 R116). -/
structure Sys2Proof.Claims.VInt where
  t : ITy
  h : Claims.Shape
  op : BitVec (Claims.width t) → BitVec (Claims.width t) → BitVec (Claims.width t)

/-- The integer element-wise instructions (05 R116). -/
def Sys2Proof.Claims.vint : Instr → Option Claims.VInt
  | .vadd _ (.i t) f m => some ⟨t, ⟨some f, false, m.mask⟩, fun x y => Claims.bfit t m.sat (Claims.bval t x + Claims.bval t y)⟩
  | .vsub _ (.i t) f m => some ⟨t, ⟨some f, false, m.mask⟩, fun x y => Claims.bfit t m.sat (Claims.bval t x - Claims.bval t y)⟩
  | .vmul _ (.i t) f m => some ⟨t, ⟨some f, false, m.mask⟩, fun x y => Claims.bfit t m.sat (Claims.bval t x * Claims.bval t y)⟩
  | .vmin _ (.i t) f k => some ⟨t, ⟨some f, false, k⟩, fun x y => if Claims.bval t x ≤ Claims.bval t y then x else y⟩
  | .vmax _ (.i t) f k => some ⟨t, ⟨some f, false, k⟩, fun x y => if Claims.bval t x ≤ Claims.bval t y then y else x⟩
  | .vand _ t f k => some ⟨t, ⟨some f, false, k⟩, fun x y => x &&& y⟩
  | .vor _ t f k => some ⟨t, ⟨some f, false, k⟩, fun x y => x ||| y⟩
  | .vxor _ t f k => some ⟨t, ⟨some f, false, k⟩, fun x y => x ^^^ y⟩
  | .vshl _ t f k => some ⟨t, ⟨some f, false, k⟩, fun x y => x <<< (y.toNat % Claims.width t)⟩
  | .vshr _ t f k => some ⟨t, ⟨some f, false, k⟩, fun x y => x >>> (y.toNat % Claims.width t)⟩
  | .vsra _ t f k => some ⟨t, ⟨some f, false, k⟩, fun x y => x.sshiftRight (y.toNat % Claims.width t)⟩
  | .vnot _ t k => some ⟨t, ⟨none, false, k⟩, fun x _ => ~~~x⟩
  | .vabs _ (.i t) sat k =>
    some ⟨t, ⟨none, false, k⟩, fun x _ => Claims.bfit t sat (if 0 ≤ Claims.bval t x then Claims.bval t x else -(Claims.bval t x))⟩
  | .vneg _ (.i t) sat k => some ⟨t, ⟨none, false, k⟩, fun x _ => Claims.bfit t sat (-(Claims.bval t x))⟩
  | _ => none

/-- 05 R112, R113, R114, R116: the integer VADD, VSUB, VMUL, VMIN, VMAX, VABS, VNEG and VAND, VOR, VXOR, VNOT, VSHL, VSHR,
VSRA complete, element by element under guard, mask and void lanes; they raise no flag and change nothing outside the block. -/
def Obligations.VectorIntegers : Prop :=
  ∀ (s : State) (i : Instr) (g : Group) (r : BlockRun) (n : Node) (ls : List Nat) (v : Claims.VInt),
    Claims.Fires s i g r n ls → Claims.vint i = some v →
    ∃ tok, Claims.Delivers s i g tok ∧
      Claims.ByElem (Claims.width v.t) tok ls (Claims.data v.h n) fun l e =>
        Claims.rule v.h r n (Claims.width v.t) (fun _ _ x y _ => v.op x y) l e

/-- A floating element-wise instruction: type, operands, rounding, saturation and the scalar function of 03 that its
elements apply. -/
structure Sys2Proof.Claims.VFp where
  t : FTy
  h : Claims.Shape
  rnd : Rnd
  sat : Bool
  op : RMode → Nat → Nat → Nat → FpOut

/-- The floating element-wise instructions (05 R117 to R119, R123). -/
def Sys2Proof.Claims.vfp : Instr → Option Claims.VFp
  | .vadd _ (.f t) f m => some ⟨t, ⟨some f, false, m.mask⟩, m.rnd, m.sat, fun o x y _ => fAdd t o x y⟩
  | .vsub _ (.f t) f m => some ⟨t, ⟨some f, false, m.mask⟩, m.rnd, m.sat, fun o x y _ => fSub t o x y⟩
  | .vmul _ (.f t) f m => some ⟨t, ⟨some f, false, m.mask⟩, m.rnd, m.sat, fun o x y _ => fMul t o x y⟩
  | .vdiv _ t f m => some ⟨t, ⟨some f, false, m.mask⟩, m.rnd, m.sat, fun o x y _ => fDiv t o x y⟩
  | .vmin _ (.f t) f k => some ⟨t, ⟨some f, false, k⟩, .rne, false, fun _ x y _ => fExtreme t false [x, y]⟩
  | .vmax _ (.f t) f k => some ⟨t, ⟨some f, false, k⟩, .rne, false, fun _ x y _ => fExtreme t true [x, y]⟩
  | .vfma _ t rnd sat => some ⟨t, ⟨some .v, true, .none⟩, rnd, sat, fun o x y z => fFma t o x y z⟩
  | .vabs _ (.f t) _ k => some ⟨t, ⟨none, false, k⟩, .rne, false, fun _ x _ _ => fSignOp t true x⟩
  | .vneg _ (.f t) _ k => some ⟨t, ⟨none, false, k⟩, .rne, false, fun _ x _ _ => fSignOp t false x⟩
  | .vsqrt _ t m => some ⟨t, ⟨none, false, m.mask⟩, m.rnd, m.sat, fun o x _ _ => fSqrt t o x⟩
  | .vrcp _ t m => some ⟨t, ⟨none, false, m.mask⟩, m.rnd, m.sat, fun o x _ _ => fRcp t o x⟩
  | .vexp2 _ t m => some ⟨t, ⟨none, false, m.mask⟩, m.rnd, m.sat, fun o x _ _ => fExp2 t o x⟩
  | .vlog2 _ t m => some ⟨t, ⟨none, false, m.mask⟩, m.rnd, m.sat, fun o x _ _ => fLog2 t o x⟩
  | .vrsqrte _ t k => some ⟨t, ⟨none, false, k⟩, .rne, false, fun _ x _ _ => fRsqrte t x⟩
  | .vtanh _ t k => some ⟨t, ⟨none, false, k⟩, .rne, false, fun _ x _ _ => fTanh t x⟩
  | _ => none

/-- The rounding mode of an element: under .sr its draw has the key 32 (l · E + e) + index (03 R63). -/
def Sys2Proof.Claims.mode (g : Group) (r : BlockRun) (rnd : Rnd) (sat : Bool) (place : Nat) : RMode :=
  ⟨rnd, sat, if rnd = .sr then draw16 g.seed g.count (place * 32 + r.cur) else 0⟩

/-- What a floating instruction's element computes. -/
def Sys2Proof.Claims.fpElem (v : Claims.VFp) (g : Group) (r : BlockRun) (n : Node) (l e : Nat) : FpOut :=
  let w := fWidth v.t
  v.op (Claims.mode g r v.rnd v.sat (l * (1024 / w) + e)) (Claims.elem w ((n.l.getD .void).vLane l) e).toNat
    (Claims.other v.h r n w l e).toNat (Claims.elem w ((n.t.getD .void).vLane l) e).toNat

/-- A lane executes, and no data token is void in it. -/
def Sys2Proof.Claims.In (ls : List Nat) (data : List Token) (l : Nat) : Prop := l ∈ ls ∧ ∀ d ∈ data, d.voidAt l = false

/-- The five flags of a result are those of the elements that were computed (03 R72). -/
def Sys2Proof.Claims.Gathered (fl : FpFlags) (some' : (FpFlags → Bool) → Prop) : Prop :=
  ∀ f ∈ [FpFlags.nv, FpFlags.dz, FpFlags.of, FpFlags.uf, FpFlags.nx], f fl = true ↔ some' f

/-- 05 R112 to R114, R117 to R119, R123; 03 R63, R72: the floating VADD, VSUB, VMUL, VDIV, VMIN, VMAX, VFMA, VABS, VNEG, VSQRT,
VRCP, VEXP2, VLOG2, VRSQRTE and VTANH complete: every element under guard, mask and void lanes is what the scalar function of
chapter 03 gives under the element's rounding mode and draw, and the flags are those of the elements computed. Conventions of the
model that it meets: log 21 (DEDUCED), 26 (DEDUCED). -/
def Obligations.VectorFloats : Prop :=
  ∀ (s : State) (i : Instr) (g : Group) (r : BlockRun) (n : Node) (ls : List Nat) (v : Claims.VFp),
    Claims.Fires s i g r n ls → i.wf = true → (∀ l ∈ ls, l < 8) → Claims.vfp i = some v →
    ∃ tok fl, Claims.Gives s i g { s := s, res := tok, fl := fl } ∧
      Claims.ByElem (fWidth v.t) tok ls (Claims.data v.h n) (fun l e =>
        if Claims.bit v.h n (fWidth v.t) l e then BitVec.ofNat (fWidth v.t) (Claims.fpElem v g r n l e).bits
        else if v.h.use = .keep then Claims.elem (fWidth v.t) ((n.l.getD .void).vLane l) e else 0) ∧
      Claims.Gathered fl fun f => ∃ l ∈ ls, ∃ e < 1024 / fWidth v.t, (∀ d ∈ Claims.data v.h n, d.voidAt l = false) ∧
        Claims.bit v.h n (fWidth v.t) l e = true ∧ f (Claims.fpElem v g r n l e).fl = true

/-- The comparison of one element of VCMP (05 R120): the order of the values of an integer type, or of a floating one. -/
def Sys2Proof.Claims.elemHolds (cond : Cond) : (t : ETy) → BitVec (eWidth t) → BitVec (eWidth t) → Bool
  | .i t, x, y => Claims.holds cond (Claims.bval t (x.setWidth _)) (Claims.bval t (y.setWidth _))
  | .f t, x, y => (fCompare t cond x.toNat y.toNat).1

/-- The flags of the comparison of one element (05 R120): NV for a signalling NaN, and under the orderings for any NaN. -/
def Sys2Proof.Claims.compareFlags (cond : Cond) : (t : ETy) → BitVec (eWidth t) → BitVec (eWidth t) → FpFlags
  | .i _, _, _ => {}
  | .f t, x, y =>
    { nv := (fDecode t x.toNat).isSig || (fDecode t y.toNat).isSig ||
        (((fDecode t x.toNat).isNan || (fDecode t y.toNat).isNan) && decide (cond ≠ .eq ∧ cond ≠ .ne)) }

/-- 05 R110, R114, R120; 03 R72: VCMP completes with a K token whose every bit of an element's bytes is the comparison, 0 where the
element is masked off; its flags are those of the elements compared. -/
def Sys2Proof.Claims.VectorCompare : Prop :=
  ∀ (s : State) (c : Ctl) (cond : Cond) (t : ETy) (f : VForm) (use : MaskUse) (g : Group) (r : BlockRun) (n : Node)
    (ls : List Nat),
    Claims.Fires s (.vcmp c cond t f use) g r n ls → Instr.wf (.vcmp c cond t f use) = true →
    let h : Claims.Shape := ⟨some f, false, use⟩
    let w := eWidth t
    ∃ x fl, Claims.Gives s (.vcmp c cond t f use) g { s := s, res := .k x, fl := fl } ∧ (∀ l < 8,
      (l ∈ ls → (∀ d ∈ Claims.data h n, d.voidAt l = false) → ∃ y, laneGet x l = some y ∧ ∀ b < 128,
        y.getLsbD b = (Claims.bit h n w l (b / (w / 8)) &&
          Claims.elemHolds cond t (Claims.elem w ((n.l.getD .void).vLane l) (b / (w / 8)))
            (Claims.other h r n w l (b / (w / 8))))) ∧
      (¬(l ∈ ls ∧ ∀ d ∈ Claims.data h n, d.voidAt l = false) → laneGet x l = none)) ∧
      Claims.Gathered fl fun f => ∃ l < 8, Claims.In ls (Claims.data h n) l ∧ ∃ e < 1024 / w, Claims.bit h n w l e = true ∧
        f (Claims.compareFlags cond t (Claims.elem w ((n.l.getD .void).vLane l) e) (Claims.other h r n w l e)) = true

/-- 05 R121, R122: VSEL chooses byte by byte under its K token; VCVT converts the elements that both types have room for
and zeroes the rest and the masked-off ones, and its flags are those of the elements converted. -/
def Sys2Proof.Claims.SelectAndConvert : Prop :=
  ∀ (s : State) (c : Ctl) (t : ITy) (dst src : ETy) (m : VMods) (g : Group) (r : BlockRun) (n : Node) (ls : List Nat),
    (Claims.Fires s (.vsel c t) g r n ls → ∃ tok, Claims.Delivers s (.vsel c t) g tok ∧
      Claims.ByElem 8 tok ls [n.l.getD .void, n.r.getD .void, n.t.getD .void] fun l e =>
        if ((n.t.getD .void).kLane l).getLsbD e then Claims.elem 8 ((n.l.getD .void).vLane l) e
        else Claims.elem 8 ((n.r.getD .void).vLane l) e) ∧
    (Claims.Fires s (.vcvt c dst src m) g r n ls → Instr.wf (.vcvt c dst src m) = true →
      let h : Claims.Shape := ⟨none, false, m.mask⟩
      ∃ tok fl, Claims.Gives s (.vcvt c dst src m) g { s := s, res := tok, fl := fl } ∧
        Claims.ByElem (eWidth dst) tok ls (Claims.data h n) (fun l e =>
          if e < 1024 / eWidth src ∧ Claims.bit h n (eWidth dst) l e = true then
            BitVec.ofNat _ (convert src dst (Claims.mode g r m.rnd m.sat (l * (1024 / eWidth dst) + e))
              (Claims.elem (eWidth src) ((n.l.getD .void).vLane l) e).toNat).bits
          else 0) ∧
        Claims.Gathered fl fun f => ∃ l < 8, Claims.In ls (Claims.data h n) l ∧ ∃ e < 1024 / eWidth dst, e < 1024 / eWidth src ∧
          Claims.bit h n (eWidth dst) l e = true ∧
          f (convert src dst (Claims.mode g r m.rnd m.sat (l * (1024 / eWidth dst) + e))
            (Claims.elem (eWidth src) ((n.l.getD .void).vLane l) e).toNat).fl = true)

/-- The patterns of the included elements 0 to `k` − 1 of a lane (05 R124, R125). -/
def Sys2Proof.Claims.included (h : Claims.Shape) (n : Node) (w l k : Nat) : List (BitVec w) :=
  ((List.range k).filter (Claims.bit h n w l)).map (Claims.elem w ((n.l.getD .void).vLane l))

/-- The value of a reduction: integer sums fitted once, least and greatest with the ends of the range for the empty set;
floating ones as chapter 03 rounds them (05 R124). -/
def Sys2Proof.Claims.reduced (kind : Red) (o : RMode) : (t : ETy) → List (BitVec (eWidth t)) → BitVec (eWidth t)
  | .i t, xs =>
    let vs := xs.map fun x => Claims.bval t (x.setWidth _)
    (match kind with
      | .sum => Claims.bfit t o.sat vs.sum
      | .min => Claims.bfit t false (vs.foldl Claims.lesser (Claims.hi t))
      | .max => Claims.bfit t false (vs.foldl Claims.greater (Claims.lo t))).setWidth _
  | .f t, xs => BitVec.ofNat _ (reduceSet (.f t) kind o (xs.map BitVec.toNat)).bits

/-- The flags of a reduction: an integer one raises none, a floating one those of its rounding (05 R124; 03 R72). -/
def Sys2Proof.Claims.reducedFlags (kind : Red) (o : RMode) : (t : ETy) → List (BitVec (eWidth t)) → FpFlags
  | .i _, _ => {}
  | .f t, xs => (reduceSet (.f t) kind o (xs.map BitVec.toNat)).fl

/-- 05 R124, R125; 03 R72: VREDUCE puts the reduction of each lane's included elements into element 0 and zero into the others;
VSCAN puts the reduction of the included elements up to it into each element that is included; their flags are those of the
reductions. Conventions of the model that it meets: log 21 (DEDUCED). -/
def Obligations.ReduceAndScan : Prop :=
  ∀ (s : State) (c : Ctl) (t : ETy) (kind : Red) (m : VMods) (g : Group) (r : BlockRun) (n : Node) (ls : List Nat),
    let w := eWidth t
    let h : Claims.Shape := ⟨none, false, m.mask⟩
    (Claims.Fires s (.vreduce c t kind m) g r n ls → Instr.wf (.vreduce c t kind m) = true →
      ∃ tok fl, Claims.Gives s (.vreduce c t kind m) g { s := s, res := tok, fl := fl } ∧
        Claims.ByElem w tok ls (Claims.data h n) (fun l e =>
          if e = 0 then Claims.reduced kind (Claims.mode g r m.rnd m.sat (l * (1024 / w))) t
            (Claims.included h n w l (1024 / w)) else 0) ∧
        Claims.Gathered fl fun f => ∃ l < 8, Claims.In ls (Claims.data h n) l ∧
          f (Claims.reducedFlags kind (Claims.mode g r m.rnd m.sat (l * (1024 / w))) t (Claims.included h n w l (1024 / w))) = true) ∧
    (Claims.Fires s (.vscan c t kind m) g r n ls → Instr.wf (.vscan c t kind m) = true →
      ∃ tok fl, Claims.Gives s (.vscan c t kind m) g { s := s, res := tok, fl := fl } ∧
        Claims.ByElem w tok ls (Claims.data h n) (fun l e =>
          if Claims.bit h n w l e then Claims.reduced kind (Claims.mode g r m.rnd m.sat (l * (1024 / w) + e)) t
            (Claims.included h n w l (e + 1))
          else if m.mask = .keep then Claims.elem w ((n.l.getD .void).vLane l) e else 0) ∧
        Claims.Gathered fl fun f => ∃ l < 8, Claims.In ls (Claims.data h n) l ∧ ∃ e < 1024 / w, Claims.bit h n w l e = true ∧
          f (Claims.reducedFlags kind (Claims.mode g r m.rnd m.sat (l * (1024 / w) + e)) t (Claims.included h n w l (e + 1))) = true)

/-- 05 R126 to R129: VPERM takes element j mod E, VXLANE the lane that the control's field names, VBCAST the low bits of its
operand, VIOTA the base plus l · E + e; VEXTR delivers one element extended, 0 outside the active lanes, void if .l is void in
an active lane; VINS replaces one element. -/
def Obligations.MovingElements : Prop :=
  ∀ (s : State) (c : Ctl) (t : ITy) (use : MaskUse) (g : Group) (r : BlockRun) (n : Node) (ls : List Nat),
    let w := Claims.width t
    let x : Nat → Nat → BitVec w := fun l e => Claims.elem w ((n.l.getD .void).vLane l) e
    let h1 : Claims.Shape := ⟨none, false, use⟩
    let h2 : Claims.Shape := ⟨some .v, false, use⟩
    let at' : Word → Nat × Nat := fun i => (i.toNat / (1024 / w) % 8, i.toNat % (1024 / w))
    (Claims.Fires s (.vperm c t use) g r n ls → ∃ tok, Claims.Delivers s (.vperm c t use) g tok ∧
      Claims.ByElem w tok ls (Claims.data h2 n) fun l e =>
        if Claims.bit h2 n w l e then x l ((Claims.elem w ((n.r.getD .void).vLane l) e).toNat % (1024 / w))
        else if use = .keep then x l e else 0) ∧
    (Claims.Fires s (.vxlane c t) g r n ls → ∃ y, Claims.Delivers s (.vxlane c t) g (.v y) ∧ ∀ l < 8,
      let j := ((n.r.getD .void).word.extractLsb' (3 * l) 3).toNat
      laneGet y l = if l ∈ ls ∧ j < g.shape.lanes ∧ (n.l.getD .void).voidAt j = false then some ((n.l.getD .void).vLane j)
        else none) ∧
    (Claims.Fires s (.vbcast c t use) g r n ls → Instr.wf (.vbcast c t use) = true →
      ∃ tok, Claims.Delivers s (.vbcast c t use) g tok ∧
      Claims.ByElem w tok ls (if use = .none then [] else [n.r.getD .void]) fun l e =>
        if Claims.bit h1 n w l e then (n.l.getD .void).word.setWidth w else 0) ∧
    (Claims.Fires s (.viota c t use) g r n ls → Instr.wf (.viota c t use) = true →
      ∃ tok, Claims.Delivers s (.viota c t use) g tok ∧
      Claims.ByElem w tok ls (if use = .none then [] else [n.r.getD .void]) fun l e =>
        if Claims.bit h1 n w l e then
          BitVec.ofInt w (Claims.val t (n.l.getD .void).word + ((l * (1024 / w) + e : Nat) : Int)) else 0) ∧
    (∀ i, n.r = some (.s i) → Claims.Fires s (.vextr c t) g r n ls →
      Claims.Delivers s (.vextr c t) g
        (if ∃ l < g.shape.lanes, (n.l.getD .void).voidAt l = true then .void
          else .s (if (at' i).1 < g.shape.lanes then Claims.ext t (x (at' i).1 (at' i).2) else 0))) ∧
    (∀ i, n.t = some (.s i) → Claims.Fires s (.vins c t) g r n ls → ∃ tok, Claims.Delivers s (.vins c t) g tok ∧
      Claims.ByElem w tok ls [n.l.getD .void] fun l e =>
        if (l, e) = at' i then (n.r.getD .void).word.setWidth w else x l e)

/-- A key that is compared raises NV where it is a signalling NaN (05 R130). -/
def Sys2Proof.Claims.keyFlags (t : ETy) (x : Nat) : FpFlags :=
  match t with
  | .i _ => {}
  | .f t => { nv := (fDecode t x).isSig }

/-- 05 R130, R131: VSORTK gives each lane the indices of a stable sort of its included keys, the masked-off ones after them
in index order; its flags are those of the included keys of the lanes that hold two or more. -/
def Sys2Proof.Claims.SortKeys : Prop :=
  ∀ (s : State) (c : Ctl) (t : ETy) (use : MaskUse) (g : Group) (r : BlockRun) (n : Node) (ls : List Nat),
    let w := eWidth t
    let a : Nat → Nat → Nat := fun l e => (Claims.elem w ((n.l.getD .void).vLane l) e).toNat
    ∀ ctl, n.r = some (.s ctl) → Instr.wf (.vsortk c t use) = true → Claims.Fires s (.vsortk c t use) g r n ls →
      let keys : Nat → Nat → Bool := fun l e => use = .none || ((n.t.getD .void).kLane l).getLsbD (w / 8 * e)
      let data := [n.l.getD .void] ++ if use = .none then [] else [n.t.getD .void]
      ∃ tok fl, Claims.Gives s (.vsortk c t use) g { s := s, res := tok, fl := fl } ∧ ∃ idx : Nat → List Nat,
        (∀ l < 8, (idx l).Perm (List.range (1024 / w)) ∧
          let inc : Nat → Bool := keys l
          (idx l).Pairwise fun i j => (inc j = true → inc i = true) ∧ (inc i = inc j → inc i = false → i < j) ∧
            (inc i = true → inc j = true → ranksBefore t (ctl.getLsbD 0) (a l j) (a l i) = false ∧
              (ranksBefore t (ctl.getLsbD 0) (a l i) (a l j) = false → i < j))) ∧
        Claims.ByElem w tok ls data (fun l e => BitVec.ofNat w ((idx l).getD e 0)) ∧
        Claims.Gathered fl fun f => ∃ l < 8, Claims.In ls data l ∧ 2 ≤ (List.range (1024 / w)).countP (keys l) ∧
          ∃ e < 1024 / w, keys l e = true ∧ f (Claims.keyFlags t (a l e)) = true

/-- 05 R130, R132, R133: VMERGE gives each lane the indices of R132's procedure, and its flags are those of the keys that it
compares; KANY, KALL and KPOP test and count the mask bits
of the elements. -/
def Sys2Proof.Claims.MergeAndMaskTests : Prop :=
  ∀ (s : State) (c : Ctl) (t : ETy) (ti : ITy) (g : Group) (r : BlockRun) (n : Node) (ls : List Nat),
    let w := eWidth t
    let a : Nat → Nat → Nat := fun l e => (Claims.elem w ((n.l.getD .void).vLane l) e).toNat
    let b : Nat → Nat → Nat := fun l e => (Claims.elem w ((n.r.getD .void).vLane l) e).toNat
    let kbit : Nat → Nat → Bool := fun l e => ((n.l.getD .void).kLane l).getLsbD (Claims.width ti / 8 * e)
    (∀ ctl, n.t = some (.s ctl) → Instr.wf (.vmerge c t) = true → Claims.Fires s (.vmerge c t) g r n ls →
      ∃ tok fl, Claims.Gives s (.vmerge c t) g { s := s, res := tok, fl := fl } ∧ ∃ out ia ib : Nat → Nat → Nat,
        (∀ l < 8, ia l 0 = 0 ∧ ib l 0 = 0 ∧ ∀ e < 1024 / w,
          if ranksBefore t (ctl.getLsbD 0) (b l (ib l e)) (a l (ia l e)) then
            out l e = 1024 / w + ib l e ∧ ib l (e + 1) = ib l e + 1 ∧ ia l (e + 1) = ia l e
          else out l e = ia l e ∧ ia l (e + 1) = ia l e + 1 ∧ ib l (e + 1) = ib l e) ∧
        Claims.ByElem w tok ls [n.l.getD .void, n.r.getD .void] (fun l e => BitVec.ofNat w (out l e)) ∧
        Claims.Gathered fl fun f => ∃ l < 8, Claims.In ls [n.l.getD .void, n.r.getD .void] l ∧ ∃ e < 1024 / w,
          f (Claims.keyFlags t (a l (ia l e))) = true ∨ f (Claims.keyFlags t (b l (ib l e))) = true) ∧
    (Claims.Fires s (.kany c ti) g r n ls → ∃ tok, Claims.Delivers s (.kany c ti) g tok ∧
      Claims.IsP tok ls [n.l.getD .void] fun l => (List.range (1024 / Claims.width ti)).any (kbit l)) ∧
    (Claims.Fires s (.kall c ti) g r n ls → ∃ tok, Claims.Delivers s (.kall c ti) g tok ∧
      Claims.IsP tok ls [n.l.getD .void] fun l => (List.range (1024 / Claims.width ti)).all (kbit l)) ∧
    (Claims.Fires s (.kpop c ti) g r n ls → ∃ tok, Claims.Delivers s (.kpop c ti) g tok ∧
      Claims.ByElem (Claims.width ti) tok ls [n.l.getD .void] fun l _ =>
        BitVec.ofNat _ ((List.range (1024 / Claims.width ti)).countP (kbit l)))

/-! ## Floating arithmetic (03) -/

/-- A finite pattern of a format. -/
def Sys2Proof.Claims.Finite (t : FTy) (p : Nat) : Prop := p < 2 ^ fWidth t ∧ ∃ neg m e, fDecode t p = .fin neg m e

/-- 03 R60: a value that the format represents is rounded to itself, whatever the mode, and raises no flag. -/
def Sys2Proof.Claims.RepresentableIsExact : Prop :=
  ∀ (t : FTy) (o : RMode) (p : Nat), Claims.Finite t p → fRound t o (fDecode t p) = ⟨p, {}⟩

/-- A product of an infinity and a zero. -/
def Sys2Proof.Claims.infTimesZero (t : FTy) (x y : Nat) : Bool :=
  match fDecode t x, fDecode t y with
  | .inf _, .fin _ m _ => decide (m = 0)
  | .fin _ m _, .inf _ => decide (m = 0)
  | _, _ => false

/-- 03 R56, R58, R65; 05 R117: a NaN operand of an addition, subtraction, multiplication or fused multiply-add gives the
canonical NaN, with NV exactly when a NaN operand signals or a fused multiply-add's product is of an infinity and a zero; adding
infinities of opposite sign and multiplying an infinity by a zero give the canonical NaN with NV. -/
def Sys2Proof.Claims.NanRules : Prop :=
  ∀ (t : FTy) (o : RMode) (x y : Nat) (q : Nat), fNan t = some q →
    ((fDecode t x).isNan = true ∨ (fDecode t y).isNan = true →
      let sig := (fDecode t x).isSig || (fDecode t y).isSig
      fAdd t o x y = ⟨q, { nv := sig }⟩ ∧ fSub t o x y = ⟨q, { nv := sig }⟩ ∧ fMul t o x y = ⟨q, { nv := sig }⟩) ∧
    (∀ z, (fDecode t x).isNan = true ∨ (fDecode t y).isNan = true ∨ (fDecode t z).isNan = true →
      fFma t o x y z = ⟨q, { nv :=
        ((fDecode t x).isSig || (fDecode t y).isSig || (fDecode t z).isSig || Claims.infTimesZero t x y) }⟩) ∧
    (fDecode t x = .inf false → fDecode t y = .inf true → fAdd t o x y = ⟨q, { nv := true }⟩) ∧
    (∀ neg neg' e, fDecode t x = .inf neg → fDecode t y = .fin neg' 0 e →
      fMul t o x y = ⟨q, { nv := true }⟩ ∧ fMul t o y x = ⟨q, { nv := true }⟩ ∧
      ∀ z, (fFma t o x y z).bits = q ∧ (fFma t o x y z).fl.nv = true)

/-- 03 R62, R65: addition, multiplication and the product of a fused multiply-add do not depend on the order of their
operands, in any format and mode. -/
def Sys2Proof.Claims.FloatCommutes : Prop :=
  ∀ (t : FTy) (o : RMode) (x y z : Nat),
    fAdd t o x y = fAdd t o y x ∧ fMul t o x y = fMul t o y x ∧ fFma t o x y z = fFma t o y x z

/-- 05 R117 to R122; 03 R72: VCMP, VSEL and VCVT. Conventions of the model that it meets: log 22 (DEDUCED). -/
def Obligations.VectorCompareAndConvert : Prop := Claims.VectorCompare ∧ Claims.SelectAndConvert

/-- 05 R129 to R133: VSORTK, VMERGE, KANY, KALL and KPOP. -/
def Obligations.SortsAndMasks : Prop := Claims.SortKeys ∧ Claims.MergeAndMaskTests

/-- 03 R56, R58, R60, R62, R65; 05 R117: exact values round to themselves, NaNs give the quiet NaN, sums and products commute. -/
def Obligations.FloatFormats : Prop := Claims.RepresentableIsExact ∧ Claims.NanRules ∧ Claims.FloatCommutes

/-! ## Scratch, barriers and global memory -/

/-- What a meaning works from. -/
def Sys2Proof.Claims.env (s : State) (i : Instr) (g : Group) (r : BlockRun) (n : Node) (ls : List Nat) : Env :=
  ⟨s, g, r, n, i, ls⟩

/-- The global address of an instruction: token plus sign-extended offset, modulo 2^64 (12 R236). -/
def Sys2Proof.Claims.ea (tok : Word) (off : BitVec 24) : Nat := (tok + off.signExtend 64).toNat

/-- The windows of a group that an access may name: in a relay hold, those below its successor's count too (18 R333). -/
def Sys2Proof.Claims.windows (g : Group) : Nat :=
  match g.phase with
  | .relayHold _ kd _ | .parked (.hold _ kd _) _ => min g.shape.windows kd.shape.windows
  | _ => g.shape.windows

/-- 08 R161, 18 R333: a scratch address is accepted exactly when [63:32] are zero, the member that it names is of the gang and
bound (another than the group itself only where peers are allowed) and the window is one of that member's, else 0x090; then it
is to be aligned, else 0x091, and to end in the window, else 0x092; it then names that member, window and byte. That a member
whose group has retired is not bound is log 133 (DEDUCED). -/
def Sys2Proof.Claims.ScratchAddresses : Prop :=
  ∀ (s : State) (g : Group) (peer : Bool) (tok : Word) (off : BitVec 24) (n align : Nat), 0 < align →
    let o := ((tok.setWidth 28) + off.signExtend 28).toNat
    let k := (tok.extractLsb' 28 4).toNat
    let rank := (g.rank + k) % g.gang.length
    s.saddr g peer tok off n align =
      if tok.extractLsb' 32 32 ≠ 0 ∨ g.gang.length ≤ k ∨ (k ≠ 0 ∧ peer = false) ∨ 2 ^ 19 ≤ o then .error 0x090
      else match s.memberAt g rank with
        | none => .error 0x090
        | some m =>
          if Claims.windows m ≤ o / 65536 then .error 0x090
          else if o % 65536 % align ≠ 0 then .error 0x091
          else if 65536 < o % 65536 + n then .error 0x092
          else .ok ⟨rank, o / 65536, o % 65536⟩

/-- 08 R193: LDS delivers the bytes of its scratch address, extended under T or lane by lane, once every lower-LSID store and
load has resolved; STS holds its bytes for the commit, in the executing lanes whose data is not void; neither changes
anything outside the block. A refused address faults with its cause and changes nothing outside the block. That a lane whose
guard bit is off is not stored is log 23 (DEDUCED), that the fault's address is the token log 25 (DEDUCED). -/
def Sys2Proof.Claims.ScratchLoadsAndStores : Prop :=
  ∀ (s : State) (c : Ctl) (t : ITy) (lsid : BitVec 5) (off : BitVec 24) (g : Group) (r : BlockRun) (n : Node) (ls : List Nat)
    (tok : Word) (a : ScrAt), n.l = some (.s tok) →
    let b := Claims.width t / 8
    let whole := 128 * g.shape.lanes
    (∀ i vec k, i = Instr.lds c t lsid vec off ∨ i = .sts c t lsid vec off → Claims.Fires s i g r n ls →
      (if vec = true then s.saddr g true tok off whole 128 else s.saddr g true tok off b b) = .error k →
      exec i s = .next (s.resolveFault g.place (.faulted ⟨k, tok.toNat, .none⟩))) ∧
    (Claims.Fires s (.lds c t lsid false off) g r n ls → s.saddr g true tok off b b = .ok a →
      let e := Claims.env s (.lds c t lsid false off) g r n ls
      e.loadReady = true → (e.readScr a b).2 = none →
      Claims.Delivers s (.lds c t lsid false off) g (.s (Claims.ext t (BitVec.ofNat _ (ofBytes (e.readScr a b).1))))) ∧
    (Claims.Fires s (.lds c t lsid true off) g r n ls → s.saddr g true tok off whole 128 = .ok a →
      let e := Claims.env s (.lds c t lsid true off) g r n ls
      e.loadReady = true → (e.readScr a whole).2 = none →
      ∃ y, Claims.Delivers s (.lds c t lsid true off) g (.v y) ∧ ∀ l < 8, laneGet y l =
        if l ∈ ls then some (BitVec.ofNat 1024 (ofBytes (((e.readScr a whole).1.drop (128 * l)).take 128))) else none) ∧
    (∀ v, n.r = some (.s v) → Claims.Fires s (.sts c t lsid false off) g r n ls → s.saddr g true tok off b b = .ok a →
      Claims.Gives s (.sts c t lsid false off) g { s := s, eff := .scratch [(a, bytesOf v.toNat b)] }) ∧
    (∀ v, n.r = some v → Claims.Fires s (.sts c t lsid true off) g r n ls → s.saddr g true tok off whole 128 = .ok a →
      Claims.Gives s (.sts c t lsid true off) g
        { s := s, eff := .scratch ((ls.filter fun l => !v.voidAt l).map fun l =>
            ({ a with off := a.off + 128 * l }, bytesOf (v.vLane l).toNat 128)) })

/-- 08 R185, R188: BINIT, BEXPECT and BARRIVE hold their barrier update for the commit; BWAIT delivers the phase once it
differs from its operand's bit 0 and the barrier has no error; BTEST delivers the barrier's counts and bits. -/
def Sys2Proof.Claims.BarrierInstructions : Prop :=
  ∀ (s : State) (c : Ctl) (lsid : BitVec 5) (off : BitVec 24) (g : Group) (r : BlockRun) (n : Node) (ls : List Nat)
    (a : ScrAt),
    let v := (n.r.getD .void).word
    s.saddr g true (n.l.getD .void).word off 16 16 = .ok a →
    (Claims.Fires s (.binit c lsid off) g r n ls → v.toNat ≤ 65535 →
      Claims.Gives s (.binit c lsid off) g { s := s, eff := .binit a v.toNat }) ∧
    (Claims.Fires s (.bexpect c lsid off) g r n ls → v.toNat < 2 ^ 35 →
      Claims.Gives s (.bexpect c lsid off) g { s := s, eff := .bupd a v.toNat 0 }) ∧
    (Claims.Fires s (.barrive c lsid off) g r n ls → Claims.Gives s (.barrive c lsid off) g { s := s, eff := .bupd a 0 1 }) ∧
    (Claims.Fires s (.bwait c lsid off) g r n ls →
      let e := Claims.env s (.bwait c lsid off) g r n ls
      e.loadReady = true → (e.barrier a).error = false → (e.barrier a).phase ≠ v.getLsbD 0 →
      Claims.Delivers s (.bwait c lsid off) g (.s (if (e.barrier a).phase then 1 else 0))) ∧
    (Claims.Fires s (.btest c lsid off) g r n ls →
      let e := Claims.env s (.btest c lsid off) g r n ls
      e.loadReady = true →
      ∃ w, Claims.Delivers s (.btest c lsid off) g (.s w) ∧
        w.extractLsb' 0 36 = BitVec.ofInt 36 (e.barrier a).bytes ∧ w.extractLsb' 36 16 = BitVec.ofNat 16 (e.barrier a).arrivals ∧
        w.getLsbD 52 = (e.barrier a).phase ∧ w.getLsbD 53 = (e.barrier a).error ∧ w.extractLsb' 54 10 = 0)

/-- 08 R186: one barrier update: the byte and arrival counts fall by what it brings; when both reach zero the phase flips,
the arrivals are set again and the bytes are zero; a count out of its range, or an arrival too many, sets the error bit with
0x0C6 or 0x0C7 and changes nothing else; a barrier in error changes no more. -/
def Sys2Proof.Claims.BarrierUpdate : Prop :=
  ∀ (b : Barrier) (db : Int) (da : Nat),
    b.update db da =
      if b.error then (b, none)
      else if b.bytes + db < -(2 ^ 35) ∨ 2 ^ 35 ≤ b.bytes + db then ({ b with error := true }, some 0x0C6)
      else if b.arrivals < da then ({ b with error := true }, some 0x0C7)
      else if b.bytes + db = 0 ∧ b.arrivals = da then
        ({ b with bytes := 0, arrivals := b.reset, phase := !b.phase }, none)
      else ({ b with bytes := b.bytes + db, arrivals := b.arrivals - da }, none)

/-- 12 R236: an access of `n` bytes at `a` may go on with the physical address `pa`. -/
def Sys2Proof.Claims.Maps (s : State) (g : Group) (acc : Access) (n a pa : Nat) : Prop :=
  a < 2 ^ 56 ∧ a % n = 0 ∧ s.translate g.ctx a acc = .ok pa

/-- The state in which a load reads: an acquire wider than .die first writes back and drops the die's foreign lines
(11 R222). -/
def Sys2Proof.Claims.after (s : State) (g : Group) (home : Bool) : State := if home then s.dropForeign g.place.die else s

/-- 12 R236 to R239; 07 R148; 11 R218, R222: LD and LDV, plain and acquiring, complete once every lower-LSID store and load
has resolved, with the little-endian bytes that the group reads at their physical addresses, extended under T or lane by
lane; the home memory changes only by the write-back of an acquire wider than .die. -/
def Sys2Proof.Claims.GlobalLoads : Prop :=
  ∀ (s : State) (c : Ctl) (t : ITy) (acq : Bool) (o : MemOps) (g : Group) (r : BlockRun) (n : Node) (ls : List Nat)
    (tok : Word) (pa : Nat → Nat), n.l = some (.s tok) →
    let home := acq && (o.scope == .pkg || o.scope == .pod || o.scope == .sys)
    let va := Claims.ea tok o.off
    let b := Claims.width t / 8
    let s1 := Claims.after s g home
    (home = true → s.backBlocked (some g.place) g.place.die = false) →
    (Claims.Fires s (.ld c t acq o) g r n ls →
      let e := Claims.env s (.ld c t acq o) g r n ls
      e.loadReady = true → Claims.Maps s g .load b va (pa va) → (e.readPhys s1 home (pa va) b).2 = none →
      ∃ s2 pages, s2.mem = s1.mem ∧ Claims.Gives s (.ld c t acq o) g
        { s := s2, pages := pages, res := .s (Claims.ext t (BitVec.ofNat _ (ofBytes (e.readPhys s1 home (pa va) b).1))) }) ∧
    (Claims.Fires s (.ldv c t acq o) g r n ls →
      let e := Claims.env s (.ldv c t acq o) g r n ls
      (∀ l ∈ ls, l < 8) → e.loadReady = true →
      (∀ l ∈ ls, Claims.Maps s g .load 128 (va + 128 * l) (pa (va + 128 * l)) ∧
        (e.readPhys s1 home (pa (va + 128 * l)) 128).2 = none) →
      ∃ s2 pages y, s2.mem = s1.mem ∧ Claims.Gives s (.ldv c t acq o) g { s := s2, pages := pages, res := .v y } ∧
        ∀ l < 8, laneGet y l =
          if l ∈ ls then some (BitVec.ofNat 1024 (ofBytes (e.readPhys s1 home (pa (va + 128 * l)) 128).1)) else none)

/-- The address of an index element (12 R240): base plus the element's value times the element bytes, plus the offset. -/
def Sys2Proof.Claims.eaAt (t : ITy) (base : Word) (off : BitVec 24) (x : BitVec (Claims.width t)) : Nat :=
  (base + BitVec.ofInt 64 (Claims.bval t x * ((Claims.width t / 8 : Nat) : Int)) + off.signExtend 64).toNat

/-- 12 R240: GATHER completes with every element that its mask includes loaded from its own address and zero in the others;
SCATTER holds one store for each element of each executing lane that is not void, in increasing order of lane and element. -/
def Sys2Proof.Claims.GatherAndScatter : Prop :=
  ∀ (s : State) (c : Ctl) (t : ITy) (lsid : BitVec 5) (off : BitVec 24) (g : Group) (r : BlockRun) (n : Node) (ls : List Nat)
    (tok : Word) (pa : Nat → Nat), n.l = some (.s tok) → (∀ l ∈ ls, l < 8) →
    let w := Claims.width t
    let ix : Nat → Nat → BitVec w := fun l e => Claims.elem w ((n.r.getD .void).vLane l) e
    let at' : Nat → Nat → Nat := fun l e => Claims.eaAt t tok off (ix l e)
    (∀ mask, Claims.Fires s (.gather c t lsid mask off) g r n ls →
      let E := Claims.env s (.gather c t lsid mask off) g r n ls
      let data := [n.r.getD .void] ++ (if mask then [n.t.getD .void] else [])
      let inc : Nat → Nat → Bool := fun l e => !mask || ((n.t.getD .void).kLane l).getLsbD (w / 8 * e)
      E.loadReady = true →
      (∀ l ∈ ls, (∀ d ∈ data, d.voidAt l = false) → ∀ e < 1024 / w, inc l e = true →
        Claims.Maps s g .load (w / 8) (at' l e) (pa (at' l e)) ∧ (E.readPhys s false (pa (at' l e)) (w / 8)).2 = none) →
      ∃ s2 pages tok', s2.mem = s.mem ∧ Claims.Gives s (.gather c t lsid mask off) g { s := s2, pages := pages, res := tok' } ∧
        Claims.ByElem w tok' ls data fun l e =>
          if inc l e then BitVec.ofNat w (ofBytes (E.readPhys s false (pa (at' l e)) (w / 8)).1) else 0) ∧
    (Claims.Fires s (.scatter c t lsid off) g r n ls →
      let data := [n.r.getD .void, n.t.getD .void]
      (∀ l ∈ ls, (∀ d ∈ data, d.voidAt l = false) → ∀ e < 1024 / w,
        Claims.Maps s g .store (w / 8) (at' l e) (pa (at' l e))) →
      ∃ pages, Claims.Gives s (.scatter c t lsid off) g { s := s, pages := pages, eff := (.stores
        (((List.range 8).filter fun l => decide (l ∈ ls) && data.all fun d => !d.voidAt l).flatMap fun l =>
          (List.range (1024 / w)).map fun e =>
            ⟨at' l e, pa (at' l e), bytesOf (Claims.elem w ((n.t.getD .void).vLane l) e).toNat (w / 8)⟩) none) })

/-- 12 R238, R239; 11 R221: ST and STV, plain and releasing, hold their little-endian bytes at their own addresses for the
commit, STV in the executing lanes whose data is not void; a releasing form holds its scope with them. -/
def Sys2Proof.Claims.GlobalStores : Prop :=
  ∀ (s : State) (c : Ctl) (t : ITy) (rel : Bool) (o : MemOps) (g : Group) (r : BlockRun) (n : Node) (ls : List Nat)
    (tok : Word) (pa : Nat → Nat), n.l = some (.s tok) →
    let va := Claims.ea tok o.off
    let b := Claims.width t / 8
    (∀ v, n.r = some (.s v) → Claims.Fires s (.st c t rel o) g r n ls → Claims.Maps s g .store b va (pa va) →
      Claims.Gives s (.st c t rel o) g
        { s := s, pages := [va], eff := .stores [⟨va, pa va, bytesOf v.toNat b⟩] (if rel then some o.scope else none) }) ∧
    (∀ v, n.r = some v → Claims.Fires s (.stv c t rel o) g r n ls →
      (∀ l ∈ ls, v.voidAt l = false → Claims.Maps s g .store 128 (va + 128 * l) (pa (va + 128 * l))) →
      ∃ pages, Claims.Gives s (.stv c t rel o) g
        { s := s, pages := pages
          eff := .stores ((ls.filter fun l => !v.voidAt l).map fun l =>
            ⟨va + 128 * l, pa (va + 128 * l), bytesOf (v.vLane l).toNat 128⟩) (if rel then some o.scope else none) })

/-- What an AMO writes for an old pattern; CAS writes only where the old pattern is its comparison operand (12 R241). -/
def Sys2Proof.Claims.amoNew (t : ITy) (n : Node) (old : BitVec (Claims.width t)) : Instr → Option (BitVec (Claims.width t))
  | .amoAdd _ _ _ _ => some (old + Claims.pat t (n.r.getD .void).word)
  | .amoMin _ _ _ _ =>
    some (if Claims.bval t old ≤ Claims.val t (n.r.getD .void).word then old else Claims.pat t (n.r.getD .void).word)
  | .amoMax _ _ _ _ =>
    some (if Claims.bval t old ≤ Claims.val t (n.r.getD .void).word then Claims.pat t (n.r.getD .void).word else old)
  | .amoAnd _ _ _ _ => some (old &&& Claims.pat t (n.r.getD .void).word)
  | .amoOr _ _ _ _ => some (old ||| Claims.pat t (n.r.getD .void).word)
  | .amoXor _ _ _ _ => some (old ^^^ Claims.pat t (n.r.getD .void).word)
  | .amoSwap _ _ _ _ => some (Claims.pat t (n.r.getD .void).word)
  | .amoCas _ _ _ _ =>
    if old = Claims.pat t (n.r.getD .void).word then some (Claims.pat t (n.t.getD .void).word) else none
  | _ => none

/-- 12 R241; 11 R226: AMO.ADD, MIN, MAX, AND, OR, XOR, SWAP and CAS complete once every lower-LSID store and load has resolved, no
other party leases their bytes and no AMO that came before waits for them (11 R227): they deliver the old value extended under T,
lease the bytes, and hold the new value for the commit. One of a wider scope than .die that is no acquire takes its own line's copy
from its die, and no other (10 R206). Conventions of the model that it meets: log 26 (DEDUCED), 32 (DEDUCED). -/
def Obligations.Atomics : Prop :=
  ∀ (s : State) (i : Instr) (c : Ctl) (t : ITy) (ord : Order) (o : MemOps) (g : Group) (r : BlockRun) (n : Node)
    (ls : List Nat) (tok : Word) (pa : Nat),
    i ∈ [.amoAdd c t ord o, .amoMin c t ord o, .amoMax c t ord o, .amoAnd c t ord o, .amoOr c t ord o, .amoXor c t ord o,
      .amoSwap c t ord o, .amoCas c t ord o] →
    Claims.Fires s i g r n ls → n.l = some (.s tok) →
    let home := o.scope == .pkg || o.scope == .pod || o.scope == .sys
    let b := Claims.width t / 8
    let va := Claims.ea tok o.off
    let E := Claims.env s i g r n ls
    let acq := ord == .acq || ord == .acqrel
    let s1 := E.amoState home acq pa b
    (home = true → acq = false → (pa + b - 1) / 128 = pa / 128 →
      s1.foreign = s.foreign.filter fun f => !decide (f.die = g.place.die ∧ f.line = pa / 128)) ∧
    (E.loadReady = true → Claims.Maps s g .atomic b va pa →
    s.leaseMeets (some g.place) g.place.die (s.point g.place.die pa home) pa b = false → E.firstAsked (s.point g.place.die pa home) pa b = true →
    (home = true → (if acq then s.backBlocked (some g.place) g.place.die else s.linesBlocked (some g.place) g.place.die pa b) = false) →
    (E.readPhys s1 home pa b).2 = none →
    let bs := (E.readPhys s1 home pa b).1
    let old : BitVec (Claims.width t) := BitVec.ofNat _ (ofBytes bs)
    Claims.Gives s i g
      { s := s1, res := .s (Claims.ext t old), pages := [va], leased := true
        eff := .amo va pa bs ((Claims.amoNew t n old i).map fun p => bytesOf p.toNat b) o.scope (ord == .rel || ord == .acqrel) })

/-- 12 R242; 11 R222: FENCE.rel holds its scope for the commit; FENCE.acq and FENCE.acqrel complete once the lower-LSID loads
have resolved (and, for .acqrel, the group's store buffer is empty), writing back and dropping the die's foreign lines where
the scope is wider than .die. -/
def Sys2Proof.Claims.Fences : Prop :=
  ∀ (s : State) (c : Ctl) (lsid : BitVec 5) (scope : Scope) (g : Group) (r : BlockRun) (n : Node) (ls : List Nat),
    let far := scope == .pkg || scope == .pod || scope == .sys
    (Claims.Fires s (.fence c lsid .rel scope) g r n ls →
      Claims.Gives s (.fence c lsid .rel scope) g { s := s, eff := .fence scope }) ∧
    (∀ ord, ord ≠ .rel → Claims.Fires s (.fence c lsid ord scope) g r n ls →
      (∀ m ∈ r.nodes, m.lsid < lsid.toNat → isLoad m.ins = true → m.resolved = true) →
      (far = true → s.backBlocked (some g.place) g.place.die = false) → (ord = .acqrel → g.sb = []) →
      Claims.Gives s (.fence c lsid ord scope) g
        { s := Claims.after s g far, eff := if ord = .acqrel then .fence scope else .none })

/-- 08 R161, R193: scratch addresses, LDS and STS. Conventions of the model that it meets: log 23 (DEDUCED), 25 (DEDUCED),
29 (DEDUCED), 133 (DEDUCED). -/
def Obligations.ScratchInstructions : Prop := Claims.ScratchAddresses ∧ Claims.ScratchLoadsAndStores

/-- 08 R185, R186, R188: the barrier instructions and one update of a barrier. Conventions of the model that it meets: log 25
(DEDUCED), 29 (DEDUCED). -/
def Obligations.Barriers : Prop := Claims.BarrierInstructions ∧ Claims.BarrierUpdate

/-- 12 R236 to R240; 07 R148; 11 R218, R222: LD, LDV, GATHER and SCATTER. Conventions of the model that it meets: log 23
(DEDUCED), 26 (DEDUCED), 29 (DEDUCED), 32 (DEDUCED). -/
def Obligations.GlobalReads : Prop := Claims.GlobalLoads ∧ Claims.GatherAndScatter

/-- 12 R238, R239, R242; 11 R221, R222: ST, STV and FENCE. Conventions of the model that it meets: log 23 (DEDUCED), 31 (DEDUCED). -/
def Obligations.StoresAndFences : Prop := Claims.GlobalStores ∧ Claims.Fences

/-! ## Rings, matrix commands and copies -/

/-- A ring may be used: initialised, no lower-LSID user unresolved, its window within the shape (08 R174, R175). -/
def Sys2Proof.Claims.UsesRing (e : Env) (q : BitVec 3) (R : Ring) : Prop :=
  e.ringPending q = false ∧ e.ring q = some R ∧ R.base / 65536 < e.g.shape.windows

/-- 08 R174 to R178: QINIT sets an empty ring of its entry size and count at its scratch address; QPUSH takes the next
producer ticket once its entry is released and holds the lanes' bytes for it, and is nullified where a lane that it needs is
void or does not execute; QPOP delivers the head entry once it is present and takes the consumer ticket; QSTAT delivers the
ring's counters, its present entries and its size, or faults with 0x090 where a relay has released the ring's window (18 R334).
That QSTAT's fault has the ring's base as its address is log 25 (DEDUCED). Conventions of the model that it meets: log 24 (DEDUCED),
29 (DEDUCED), 30 (DEDUCED). -/
def Obligations.RingInstructions : Prop :=
  ∀ (s : State) (c : Ctl) (lsid : BitVec 5) (q : BitVec 3) (entry : BitVec 10) (cexp : BitVec 4) (g : Group) (r : BlockRun)
    (n : Node) (ls : List Nat) (R : Ring),
    (∀ a, Claims.Fires s (.qinit c lsid q entry cexp) g r n ls →
      let E := Claims.env s (.qinit c lsid q entry cexp) g r n ls
      let bytes := 64 * (entry.toNat + 1)
      E.ringPending q = false → s.saddr g false (n.l.getD .void).word 0 (2 ^ cexp.toNat * bytes) 64 = .ok a →
      E.produced q = 0 → E.consumed q = 0 → (∀ x, E.ring q = some x → x.tail = x.rel ∧ x.head = x.rel) →
      Claims.Gives s (.qinit c lsid q entry cexp) g
        { s := s, eff := .qinit q.toNat ⟨a.win * 65536 + a.off, bytes, cexp.toNat, 0, 0, 0,
          List.replicate (2 ^ cexp.toNat) .empty⟩ }) ∧
    (∀ k t, Claims.Fires s (.qpush c lsid q) g r n ls →
      let E := Claims.env s (.qpush c lsid q) g r n ls
      Claims.UsesRing E q R → R.entry = 128 * k → k ≤ g.shape.lanes → E.ticket q R = some t →
      (∀ l < k, (n.l.getD .void).voidAt l = false ∧ l ∈ ls) →
      Claims.Gives s (.qpush c lsid q) g
        { s := s, eff := .qpush q.toNat t ⟨g.rank, R.base / 65536, R.base % 65536 + t % 2 ^ R.c * R.entry⟩
            ((List.range k).flatMap fun l => bytesOf ((n.l.getD .void).vLane l).toNat 128) }) ∧
    (∀ k, Claims.Fires s (.qpush c lsid q) g r n ls →
      Claims.UsesRing (Claims.env s (.qpush c lsid q) g r n ls) q R → R.entry = 128 * k → k ≤ g.shape.lanes →
      (∃ l < k, (n.l.getD .void).voidAt l = true ∨ l ∉ ls) →
      Claims.Gives s (.qpush c lsid q) g { s := s, null := true }) ∧
    (∀ k, Claims.Fires s (.qpop c lsid q) g r n ls →
      let E := Claims.env s (.qpop c lsid q) g r n ls
      let t := (R.head + E.consumed q) % 65536
      let a : ScrAt := ⟨g.rank, R.base / 65536, R.base % 65536 + t % 2 ^ R.c * R.entry⟩
      Claims.UsesRing E q R → R.entry = 128 * k → k ≤ g.shape.lanes → R.presence t = .present → E.loadReady = true →
      (E.readScr a R.entry).2 = none →
      ∃ y, Claims.Gives s (.qpop c lsid q) g { s := s, res := .v y, eff := .qpop q.toNat t } ∧ ∀ l < 8, laneGet y l =
        if l ∈ ls then some (if l < k then BitVec.ofNat 1024 (ofBytes (((E.readScr a R.entry).1.drop (128 * l)).take 128))
          else 0) else none) ∧
    (Claims.Fires s (.qstat c lsid q) g r n ls → (Claims.env s (.qstat c lsid q) g r n ls).loadReady = true →
      g.q.getD q.toNat none = some R →
      if R.base / 65536 < g.shape.windows then
        Claims.Delivers s (.qstat c lsid q) g (.s (BitVec.ofNat 64 (R.tail + 2 ^ 16 * R.head + 2 ^ 32 * R.rel +
          2 ^ 48 * R.pres.countP (fun x => x = .present) + 2 ^ 57 * R.c)))
      else exec (.qstat c lsid q) s = .next (s.resolveFault g.place (.faulted ⟨0x090, R.base, .none⟩)))

/-- An operand of a matrix command: a ring's consumer ticket, `skip` of which this instruction has taken, or scratch of the
group itself, 64-byte aligned (08 R166, R167). -/
def Sys2Proof.Claims.Operand (e : Env) (q : Option (BitVec 3)) (tok : Word) (n skip : Nat) (m : MOpnd) : Prop :=
  match q with
  | none => ∃ a, e.s.saddr e.g false tok 0 n 64 = .ok a ∧ m = .scr a.win a.off
  | some q => ∃ R, Claims.UsesRing e q R ∧ R.entry = n ∧ m = .ring q.toNat ((R.head + e.consumed q + skip) % 65536)

/-- A barrier of the group itself on a slot, where the instruction has one. -/
def Sys2Proof.Claims.BarOf (e : Env) (on : Bool) (tok : Word) (bar : Option ScrAt) : Prop :=
  if on then ∃ a, e.s.saddr e.g false tok 0 16 16 = .ok a ∧ bar = some a else bar = none

/-- Bytes of an operand of 128 rows and depth `k`, with its scale bytes (08 R167). -/
def Sys2Proof.Claims.opnd (t : FTy) (scaled : Bool) (k : Nat) : Nat := 16 * k * fWidth t + if scaled then 4 * k else 0

/-- The instruction holds a matrix command for the commit. -/
def Sys2Proof.Claims.Commands (s : State) (i : Instr) (g : Group) (e : Env) (op : MatOp) : Prop :=
  Claims.Gives s i g { s := s, eff := .matrix ⟨e.tag, op, false, [], [], none⟩ }

/-- 08 R163, R166 to R172: with room in the matrix queue and its operands ready, MMA, MMAS, MMA.G, MZERO and MST hold their
command; MLD delivers the accumulator's 1,024 bytes from 128 times its operand once no queued command uses the accumulator
and no operand poisoned it. Conventions of the model that it meets: log 20 (DEDUCED), 27 (DEDUCED), 28 (DEDUCED), 38 (DEDUCED). -/
def Obligations.MatrixInstructions : Prop :=
  ∀ (s : State) (c : Ctl) (t : FTy) (o : MmaOps) (m : MstOps) (lsid : BitVec 5) (accs : BitVec 16) (acc : BitVec 4) (g : Group)
    (r : BlockRun) (n : Node) (ls : List Nat) (a b : MOpnd) (bar : Option ScrAt),
    let l := (n.l.getD .void).word
    let rr := (n.r.getD .void).word
    let tt := (n.t.getD .void).word
    let k := 32 * (o.kq.toNat + 1)
    let slots : List Word := (if o.qa.isSome then [] else [l]) ++ (if o.qb.isSome then [] else [if o.qa.isSome then l else rr])
    let last : Word := [l, rr, tt].getD slots.length 0
    (∀ (scaled : Bool) (i : Instr), i = (if scaled then .mmas c t o else .mma c t o) → Claims.Fires s i g r n ls →
      let E := Claims.env s i g r n ls
      E.ringsPending = false → E.matrixFull = false →
      Claims.Operand E o.qa l (Claims.opnd t scaled k) 0 a →
      Claims.Operand E o.qb (if o.qa.isSome then l else rr) (Claims.opnd t scaled k)
        (if o.qa.isSome ∧ o.qa = o.qb then 1 else 0) b →
      Claims.BarOf E o.arrive last bar →
      Claims.Commands s i g E (.mma t scaled k o.acc.toNat a b bar)) ∧
    (∀ x, Claims.Fires s (.mmaG c t o) g r n ls →
      let E := Claims.env s (.mmaG c t o) g r n ls
      E.ringsPending = false → E.matrixFull = false → l.toNat < 2 ^ 56 → l.toNat % 16 = 0 →
      s.saddr g false rr 0 512 4 = .ok x → Claims.Operand E o.qb tt (Claims.opnd t false k) 0 b → Instr.wf (.mmaG c t o) = true →
      Claims.BarOf E o.arrive tt bar →
      Claims.Commands s (.mmaG c t o) g E (.mma t false k o.acc.toNat (.rows l.toNat x.win x.off) b bar)) ∧
    (Claims.Fires s (.mzero c lsid accs) g r n ls →
      let E := Claims.env s (.mzero c lsid accs) g r n ls
      E.matrixFull = false → Claims.Commands s (.mzero c lsid accs) g E (.mzero accs.toNat)) ∧
    (Claims.Fires s (.mld c lsid acc) g r n ls →
      let E := Claims.env s (.mld c lsid acc) g r n ls
      let A := g.acc.getD acc.toNat {}
      l.toNat ≤ 504 → E.loadReady = true → (∀ q ∈ g.mq, q.op.uses acc.toNat = false) → A.poisoned = false →
      ∃ y, Claims.Delivers s (.mld c lsid acc) g (.v y) ∧ ∀ j < 8, laneGet y j =
        if j ∈ ls then some (BitVec.ofNat 1024 (ofBytes (A.cells.read (128 * l.toNat + 128 * j) 128))) else none) ∧
    (Claims.Fires s (.mst c m) g r n ls →
      let E := Claims.env s (.mst c m) g r n ls
      let size := 127 * mstPitch m + 128 * otBytes m.ot
      E.matrixFull = false → Claims.BarOf E m.credit rr bar →
      (m.out = true → l.toNat < 2 ^ 56 → l.toNat % 64 = 0 →
        Claims.Commands s (.mst c m) g E (.mst m none l.toNat bar g.seed g.count)) ∧
      (∀ x, m.out = false → s.saddr g false l 0 size 64 = .ok x →
        Claims.Commands s (.mst c m) g E (.mst m (some x) 0 bar g.seed g.count)))

/-- The instruction holds a copy for the commit. -/
def Sys2Proof.Claims.Copies (s : State) (i : Instr) (g : Group) (e : Env) (src : CSrc) (dst : CDst) (rows rb sp dp : Nat)
    (desc : List Byte) (credit : List ScrAt) : Prop :=
  Claims.Gives s i g { s := s, eff := .copy ⟨0, e.tag, src, dst, rows, rb, sp, dp, desc, credit, 0, [], [], none⟩ }

/-- The scratch destination of a copy of `n` bytes: a ring's next producer ticket, or a scratch place (08 R175, R179). -/
def Sys2Proof.Claims.Dest (e : Env) (peer : Bool) (q : Option (BitVec 3)) (tok : Word) (n : Nat) (whole : Nat) (d : CDst) :
    Prop :=
  match q with
  | none => ∃ a, e.s.saddr e.g peer tok 0 n 16 = .ok a ∧ d = .scr a
  | some q => ∃ R t, Claims.UsesRing e q R ∧ R.entry = whole ∧ e.ticket q R = some t ∧ d = .ring q.toNat t

/-- The barriers a copy credits: one on its last slot, or none. -/
def Sys2Proof.Claims.Credit (e : Env) (peer on : Bool) (tok : Word) (l : List ScrAt) : Prop :=
  if on then ∃ a, e.s.saddr e.g peer tok 0 16 16 = .ok a ∧ l = [a] else l = []

/-- A global side of a copy: aligned to 16 with a zero top byte (08 R179). -/
def Sys2Proof.Claims.Side (tok : Word) : Prop := tok.toNat < 2 ^ 56 ∧ tok.toNat % 16 = 0

/-- 08 R163, R179, R180, R183: with room in the copy queue, CPY in and out, CPY.S and CPY.PEER hold a copy of 16 times its
count plus 1 bytes between the places of their operands; PREF of any address never faults and has no effect (log 37, DEDUCED). -/
def Sys2Proof.Claims.ContiguousCopies : Prop :=
  ∀ (s : State) (c : Ctl) (o : CpyOps) (lsid : BitVec 5) (count : BitVec 12) (g : Group) (r : BlockRun) (n : Node)
    (ls : List Nat) (d : CDst) (bars : List ScrAt),
    let l := (n.l.getD .void).word
    let rr := (n.r.getD .void).word
    let tt := (n.t.getD .void).word
    let last := if o.ring.isSome then rr else tt
    let bytes := 16 * (o.bytes.toNat + 1)
    let ready (E : Env) : Prop := E.ringsPending = false ∧ E.copyFull = false
    (Claims.Fires s (.cpy c o) g r n ls →
      let E := Claims.env s (.cpy c o) g r n ls
      ready E → o.out = false → Claims.Side l → Claims.Dest E false o.ring rr bytes bytes d →
      Claims.Credit E false o.credit last bars →
      Claims.Copies s (.cpy c o) g E (.glob l.toNat) d 1 bytes 0 0 [] bars) ∧
    (∀ a, Claims.Fires s (.cpy c o) g r n ls →
      let E := Claims.env s (.cpy c o) g r n ls
      ready E → o.out = true → o.ring = none → s.saddr g false l 0 bytes 16 = .ok a → Claims.Side rr →
      Claims.Credit E false o.credit tt bars →
      Claims.Copies s (.cpy c o) g E (.scr a) (.glob rr.toNat) 1 bytes 0 0 [] bars) ∧
    (∀ a, Claims.Fires s (.cpyS c o) g r n ls →
      let E := Claims.env s (.cpyS c o) g r n ls
      ready E → s.saddr g false l 0 bytes 16 = .ok a → Claims.Dest E false o.ring rr bytes bytes d →
      Claims.Credit E false o.credit last bars →
      Claims.Copies s (.cpyS c o) g E (.scr a) d 1 bytes 0 0 [] bars) ∧
    (∀ a, Claims.Fires s (.cpyPeer c o) g r n ls →
      let E := Claims.env s (.cpyPeer c o) g r n ls
      ready E → s.saddr g true l 0 bytes 16 = .ok a → Claims.Dest E true o.ring rr bytes bytes d →
      (l.extractLsb' 28 4 ≠ 0 ∨ (o.ring = none ∧ rr.extractLsb' 28 4 ≠ 0)) → Claims.Credit E true o.credit last bars →
      Claims.Copies s (.cpyPeer c o) g E (.scr a) d 1 bytes 0 0 [] bars) ∧
    (Claims.Fires s (.pref c lsid count) g r n ls → (Claims.env s (.pref c lsid count) g r n ls).copyFull = false →
      Claims.Gives s (.pref c lsid count) g { s := s })

/-- 08 R180: CPY.MC holds one copy to the same place of every member that its mask names, relative to its own rank. -/
def Sys2Proof.Claims.MulticastCopy : Prop :=
  ∀ (s : State) (c : Ctl) (o : CpyOps) (g : Group) (r : BlockRun) (n : Node) (ls : List Nat),
    let l := (n.l.getD .void).word
    let d := (n.r.getD .void).word
    let b := if o.credit then (n.t.getD .void).word else 0
    let bytes := 16 * (o.bytes.toNat + 1)
    let ranks := ((List.range 16).filter fun m => d.getLsbD (32 + m)).map fun m => (g.rank + m) % g.gang.length
    let E := Claims.env s (.cpyMc c o) g r n ls
    let fits (x : Word) (k : Nat) (q : Nat) (a : ScrAt) : Prop := ∃ m, s.memberAt g q = some m ∧
      (x.extractLsb' 16 12).toNat < Claims.windows m ∧ (x.extractLsb' 0 16).toNat % 16 = 0 ∧
      (x.extractLsb' 0 16).toNat + k ≤ 65536 ∧ a = ⟨q, (x.extractLsb' 16 12).toNat, (x.extractLsb' 0 16).toNat⟩
    ∀ bars : List ScrAt, Claims.Fires s (.cpyMc c o) g r n ls → Instr.wf (.cpyMc c o) = true → E.ringsPending = false → E.copyFull = false → Claims.Side l →
      d.extractLsb' 48 16 = 0 → d.extractLsb' 28 4 = 0 → d.extractLsb' 32 16 ≠ 0 →
      (∀ m < 16, d.getLsbD (32 + m) = true → m < g.gang.length) → b.extractLsb' 28 36 = 0 →
      (∀ q ∈ ranks, ∃ a, fits d bytes q a) →
      (if o.credit then bars.length = ranks.length ∧ ∀ x ∈ ranks.zip bars, fits b 16 x.1 x.2 else bars = []) →
      Claims.Copies s (.cpyMc c o) g E (.glob l.toNat) (.mc ranks (d.extractLsb' 16 12).toNat (d.extractLsb' 0 16).toNat)
        1 bytes 0 0 [] bars

/-- 08 R181: CPY.2D and CPYG read a 32-byte descriptor from scratch and hold a copy of its rows: rows of 16 times a count of
bytes at its pitches, or rows that an index list in scratch names. -/
def Sys2Proof.Claims.DescriptorCopies : Prop :=
  ∀ (s : State) (c : Ctl) (o : CpyOps) (g : Group) (r : BlockRun) (n : Node) (ls : List Nat) (d : List Byte) (x : ScrAt)
    (dst : CDst) (bars : List ScrAt),
    let l := (n.l.getD .void).word
    let rr := (n.r.getD .void).word
    let field (lo k : Nat) : Nat := ofBytes ((d.drop lo).take k)
    let rows := field 24 2
    let rb := 16 * field 26 2
    let good (E : Env) : Prop := E.ringsPending = false ∧ E.copyFull = false ∧ E.loadReady = true ∧
      s.saddr g false l 0 32 16 = .ok x ∧ E.readScr x 32 = (d, none) ∧ 1 ≤ rows ∧ rows ≤ 4096 ∧ 16 ≤ rb ∧ rb ≤ 65536 ∧
      field 28 4 = 0 ∧ Claims.Credit E false o.credit rr bars
    (Claims.Fires s (.cpy2d c o) g r n ls →
      let E := Claims.env s (.cpy2d c o) g r n ls
      let sp := field 16 4
      good E → o.out = false → sp % 16 = 0 →
      let dp := if o.ring.isSome then rb else field 20 4
      dp % 16 = 0 → rb ≤ dp → Claims.Side (BitVec.ofNat 64 (field 0 8)) →
      Claims.Dest E false o.ring (BitVec.ofNat 64 (field 8 8)) ((rows - 1) * dp + rb) (rows * rb) dst →
      Claims.Copies s (.cpy2d c o) g E (.glob (field 0 8)) dst rows rb sp dp d bars) ∧
    (∀ a, Claims.Fires s (.cpy2d c o) g r n ls →
      let E := Claims.env s (.cpy2d c o) g r n ls
      let sp := field 16 4
      let dp := field 20 4
      good E → o.out = true → o.ring = none → sp % 16 = 0 → dp % 16 = 0 → rb ≤ dp →
      s.saddr g false (BitVec.ofNat 64 (field 0 8)) 0 ((rows - 1) * sp + rb) 16 = .ok a →
      Claims.Side (BitVec.ofNat 64 (field 8 8)) →
      Claims.Copies s (.cpy2d c o) g E (.scr a) (.glob (field 8 8)) rows rb sp dp d bars) ∧
    (∀ a, Claims.Fires s (.cpyg c o) g r n ls →
      let E := Claims.env s (.cpyg c o) g r n ls
      good E → field 20 4 = 0 → Claims.Side (BitVec.ofNat 64 (field 0 8)) →
      s.saddr g false (BitVec.ofNat 64 (field 16 4)) 0 (4 * rows) 4 = .ok a →
      Claims.Dest E false o.ring (BitVec.ofNat 64 (field 8 8)) (rows * rb) (rows * rb) dst →
      Claims.Copies s (.cpyg c o) g E (.gath (field 0 8) a) dst rows rb rb rb d bars)

/-- 08 R179 to R181, R183: the copy instructions. Conventions of the model that it meets: log 26 (DEDUCED), 27 (DEDUCED), 37 (DEDUCED). -/
def Obligations.Copies : Prop := Claims.ContiguousCopies ∧ Claims.MulticastCopy ∧ Claims.DescriptorCopies

/-! ## Streams, pages and system registers -/

/-- A new binding of a stream register (08 R189; 21 R385). -/
def Sys2Proof.Claims.newStream (g : Group) (n : Node) (src : SSrc) (vec out : Bool) : Stream :=
  { src := src, vec := vec, out := out, lanes := g.shape.lanes, fetched := 0, moved := 0, buf := [], ended := false,
    fm := (n.word.extractLsb' 0 27).toNat, tl := (n.l.getD .void).word, tr := (n.r.getD .void).word, part := [] }

/-- 08 R189: SBIND binds a free stream register at its block's commit: to memory (base, stride, element count), to a task edge
of the group's record that is of its kind, or to a rein stream in the group's own scratch. -/
def Sys2Proof.Claims.StreamBinding : Prop :=
  ∀ (s : State) (c : Ctl) (lsid : BitVec 5) (q : BitVec 3) (kind : SKind) (g : Group) (r : BlockRun) (n : Node) (ls : List Nat),
    let i : Instr := .sbind c lsid q kind
    let E := Claims.env s i g r n ls
    let l := (n.l.getD .void).word
    let rr := (n.r.getD .void).word
    Claims.Fires s i g r n ls → E.streamPending q.toNat = false → E.stream q.toNat = none →
    (∀ v out stride, kind = .mem v out stride → l.toNat < 2 ^ 56 → l.toNat % (if v then 128 else 8) = 0 →
      0 < rr.toNat → rr.toNat < 2 ^ 32 →
      Claims.Gives s i g { s := s, eff := .sbind q.toNat (Claims.newStream g n
        (.mem l.toNat (if stride = 0 then (if v then 128 * g.shape.lanes else 8) else 16 * stride.toNat) rr.toNat) v out) }) ∧
    (∀ v b rec', kind = .edge v b → s.recOf g = some rec' → bMode (rec'.binding b.toNat).2 = 2 →
      bVec (rec'.binding b.toNat).2 = v →
      (bOut (rec'.binding b.toNat).2 = true → s.edgeAgrees rec' b.toNat g.shape.lanes = true) →
      Claims.Gives s i g
        { s := s, eff := .sbind q.toNat (Claims.newStream g n (.edge b.toNat) v (bOut (rec'.binding b.toNat).2)) }) ∧
    (∀ v a, kind = .rein v → s.saddr g false l 0 1 1 = .ok a →
      Claims.Gives s i g { s := s, eff := .sbind q.toNat (Claims.newStream g n
        (.rein a (rr.extractLsb' 0 12).toNat (rr.extractLsb' 12 4).toNat) v false) })

/-- The bytes of an element (08 R189): 8 of an S token, 128 of each lane of a V token. -/
def Sys2Proof.Claims.element (st : Stream) (t : Token) : List Byte :=
  if st.vec then (List.range st.lanes).flatMap fun l => bytesOf (t.vLane l).toNat 128 else bytesOf t.word.toNat 8

/-- The word of SST of a bound register (08 R192): bound, exhausted, output, kind, shape, elements buffered, elements moved. -/
def Sys2Proof.Claims.sst (st : Stream) (done : Bool) (kind held : Nat) : Word :=
  BitVec.ofNat 64 (1 + 2 * done.toNat + 4 * st.out.toNat + 8 * kind + 32 * st.vec.toNat + 2 ^ 16 * min held 65535 +
    2 ^ 32 * (st.moved % 2 ^ 32))

/-- 08 R191, R192; 10 R201: SEMIT holds one element for the commit: to memory at the binding's next place, as one store for each
line that it touches, or to its task edge while the far end has room; it is nullified where a lane of its token is void, and faults with
0x0CA where the register is no output of its shape or its count is used. SUNBIND holds its unbinding; SST delivers the state
word of its register, as of the block's start (log 30, DEDUCED). -/
def Sys2Proof.Claims.StreamEmission : Prop :=
  ∀ (s : State) (c : Ctl) (t : ITy) (lsid : BitVec 5) (q : BitVec 3) (g : Group) (r : BlockRun) (n : Node) (ls : List Nat)
    (st : Stream),
    let x := n.l.getD .void
    (Claims.Fires s (.semit c t lsid q) g r n ls →
      let E := Claims.env s (.semit c t lsid q) g r n ls
      let bs := Claims.element st x
      E.streamPending q.toNat = false → E.stream q.toNat = some st → st.out = true →
      x.shape = some (if st.vec then .v else .s) →
      (∀ l < g.shape.lanes, x.voidAt l = false ∧ (st.vec = true → l ∈ ls)) →
      (∀ base stride count (pa : Nat → Nat), st.src = .mem base stride count → st.moved + E.emitted q.toNat < count →
        let va := base + (st.moved + E.emitted q.toNat) * stride
        let lines := if bs.length = 0 then 0 else (va + bs.length - 1) / 128 - va / 128 + 1
        let cut : Nat → Nat := fun i => if i = 0 then va else 128 * (va / 128 + i)
        (∀ i < lines, cut i < 2 ^ 56 ∧ s.translate g.ctx (cut i) .store = .ok (pa i)) →
        Claims.Gives s (.semit c t lsid q) g { s := s, pages := (List.range lines).map cut, eff := (.semit q.toNat bs
          ((List.range lines).map fun i => ⟨cut i, pa i, (bs.drop (cut i - va)).take (128 - cut i % 128)⟩)) }) ∧
      (∀ b m, st.src = .edge b → s.edgeEnd g b = .room m → E.emittedAll q.toNat < m →
        Claims.Gives s (.semit c t lsid q) g { s := s, eff := .semit q.toNat bs [] })) ∧
    (Claims.Fires s (.semit c t lsid q) g r n ls → (∃ l < g.shape.lanes, x.voidAt l = true) →
      Claims.Gives s (.semit c t lsid q) g { s := s, null := true }) ∧
    (Claims.Fires s (.semit c t lsid q) g r n ls →
      let E := Claims.env s (.semit c t lsid q) g r n ls
      E.streamPending q.toNat = false → (∀ l < g.shape.lanes, x.voidAt l = false ∧ l ∈ ls) →
      (E.stream q.toNat = none ∨ (E.stream q.toNat = some st ∧ (st.out = false ∨ x.shape ≠ some (if st.vec then .v else .s) ∨
        ∃ base stride count, st.src = .mem base stride count ∧ count ≤ st.moved + E.emitted q.toNat))) →
      exec (.semit c t lsid q) s = .next (s.resolveFault g.place (.faulted ⟨0x0CA, 0, .none⟩))) ∧
    (Claims.Fires s (.sunbind c lsid q) g r n ls →
      Claims.Gives s (.sunbind c lsid q) g { s := s, eff := .sunbind q.toNat }) ∧
    (Claims.Fires s (.sst c lsid q) g r n ls → (Claims.env s (.sst c lsid q) g r n ls).loadReady = true →
      (g.s.getD q.toNat none = none → Claims.Delivers s (.sst c lsid q) g (.s 0)) ∧
      (g.s.getD q.toNat none = some st →
        (st.out = true → ∀ kind, ((∃ a b m, st.src = .mem a b m ∧ kind = 0) ∨ (∃ b, st.src = .edge b ∧ kind = 1)) →
          Claims.Delivers s (.sst c lsid q) g (.s (Claims.sst st false kind 0))) ∧
        (st.out = false →
          (∀ a b m, st.src = .mem a b m → Claims.Delivers s (.sst c lsid q) g
            (.s (Claims.sst st (st.buf.isEmpty && decide (m ≤ st.moved)) 0 st.buf.length))) ∧
          (∀ b x, st.src = .edge b → (g.edges.find? fun x => x.bind == b) = some x → Claims.Delivers s (.sst c lsid q) g
            (.s (Claims.sst st (x.buf.isEmpty && x.ended) 1 x.buf.length))) ∧
          (∀ d id k, st.src = .rein d id k → Claims.Delivers s (.sst c lsid q) g
            (.s (Claims.sst st (st.buf.isEmpty && st.ended) 2 st.buf.length))))))

/-- 12 R243, R244, R245; 11 R221, R233: ALLOC delivers the start of a range of the context's heap that is aligned and overlaps no
range allocated or held, and holds it, wherever the device finds one, as an acquire of scope .pkg at which the die's foreign
lines are written back and dropped, and 0 where it finds none; FREE holds the freeing of its address, whatever its top byte (log
122, DEDUCED), and a FREE of 0 has no effect. -/
def Sys2Proof.Claims.HeapInstructions : Prop :=
  ∀ (s : State) (c : Ctl) (lsid : BitVec 5) (place : APlace) (j : BitVec 6) (g : Group) (r : BlockRun) (n : Node)
    (ls : List Nat),
    let l := (n.l.getD .void).word
    let size := (l.toNat + 63) / 64 * 64
    (Claims.Fires s (.alloc c lsid place j) g r n ls → 0 < l.toNat → l.toNat ≤ 2 ^ 40 →
      (s.heapFits g.ctx [] size (2 ^ j.toNat) = [] → Claims.Delivers s (.alloc c lsid place j) g (.s 0)) ∧
      (s.heapFits g.ctx [] size (2 ^ j.toNat) ≠ [] → s.backBlocked (some g.place) g.place.die = false → ∃ b x, s.ctx? g.ctx = some x ∧ b % 2 ^ j.toNat = 0 ∧ x.heapBase ≤ b ∧
        b + size ≤ x.heapBase + x.heapSize ∧ (∀ k ∈ s.taken g.ctx, b + size ≤ k.1 ∨ k.1 + k.2 ≤ b) ∧
        Claims.Gives s (.alloc c lsid place j) g
          { s := (s.dropForeign g.place.die).draw, res := .s (BitVec.ofNat 64 b), eff := .alloc b size place })) ∧
    (Claims.Fires s (.free c lsid) g r n ls →
      Claims.Gives s (.free c lsid) g { s := s, eff := if l = 0 then .none else .page .free l.toNat })

/-- Address and count of a page command (12 R246): aligned to the page size, 1 to 4,096 pages. -/
def Sys2Proof.Claims.PageRange (sz : PgSize) (n : Node) : Prop :=
  (n.l.getD .void).word.toNat < 2 ^ 56 ∧ (n.l.getD .void).word.toNat % pgBytes sz = 0 ∧
    1 ≤ (n.r.getD .void).word.toNat ∧ (n.r.getD .void).word.toNat ≤ 4096

/-- The pages of a page command. -/
def Sys2Proof.Claims.pages (sz : PgSize) (n : Node) : List Nat :=
  (List.range (n.r.getD .void).word.toNat).map fun k => (n.l.getD .void).word.toNat + k * pgBytes sz

/-- A barrier of the group or of a gang peer on a slot, where the instruction has one (08 R161, R188). -/
def Sys2Proof.Claims.PeerBarOf (e : Env) (on : Bool) (tok : Word) (bar : Option ScrAt) : Prop :=
  if on then ∃ a, e.s.saddr e.g true tok 0 16 16 = .ok a ∧ bar = some a else bar = none

/-- 12 R246 to R248, R250: where every page of the range is a leaf of the size, VCOMMIT and PIN deliver 65,536 times the count
of pages that were not committed and hold the commit with the frames taken; where some page is not, they deliver 2; else PIN
delivers 3 where a pin count with the holds of other PINs would pass 255; else they deliver 1 where the pool is short; a status
other than 0 changes nothing. A malformed entry raises 0x08E before any status (log 36, DEDUCED). VDECOMMIT, UNPIN and VMIGRATE
hold their page command; VMIGRATE's barrier may be a gang peer's (log 125, DEDUCED). -/
def Sys2Proof.Claims.PageCommands : Prop :=
  ∀ (s : State) (c : Ctl) (lsid : BitVec 5) (sz : PgSize) (g : Group) (r : BlockRun) (n : Node) (ls : List Nat),
    let l := (n.l.getD .void).word
    let count := (n.r.getD .void).word.toNat
    Claims.PageRange sz n →
    (∀ (pin : Bool) (i : Instr), i = (if pin then .pin c lsid sz else .vcommit c lsid sz) → Claims.Fires s i g r n ls →
      (∀ va, (Claims.pages sz n).find? (fun va => s.walkOf g.ctx va == .malformed) = some va →
        exec i s = .next (s.resolveFault g.place (.faulted ⟨0x08E, va, .pageCommand⟩))) ∧
      ((∀ va ∈ Claims.pages sz n, s.walkOf g.ctx va ≠ .malformed) →
        ((∃ va ∈ Claims.pages sz n, s.leafOf g.ctx va sz = none) → Claims.Delivers s i g (.s 2)) ∧
        (∀ (found : List (Nat × Word)), found.map Prod.fst = Claims.pages sz n →
          (∀ x ∈ found, s.leafOf g.ctx x.1 sz = some x.2 ∧ (pin = true → leafState x.2 ≠ 3)) →
          (pin = true → (∃ x ∈ found, 255 ≤ leafPins x.2 + s.pinHolds g.ctx x.1) → Claims.Delivers s i g (.s 3)) ∧
          ((pin = true → ∀ x ∈ found, leafPins x.2 + s.pinHolds g.ctx x.1 < 255) →
            (reserveRuns (pgFrames sz) found (s.freeFrames g.ctx) s = none → Claims.Delivers s i g (.s 1)) ∧
            (∀ holds s', reserveRuns (pgFrames sz) found (s.freeFrames g.ctx) s = some (holds, s') →
              Claims.Gives s i g { s := s', eff := .commit sz pin holds
                                   res := .s (BitVec.ofNat 64 (65536 * found.countP fun x => !leafCommitted x.2)) }))))) ∧
    (Claims.Fires s (.vdecommit c lsid sz) g r n ls →
      Claims.Gives s (.vdecommit c lsid sz) g { s := s, eff := .page (.decommit sz count) l.toNat }) ∧
    (Claims.Fires s (.unpin c lsid sz) g r n ls →
      Claims.Gives s (.unpin c lsid sz) g { s := s, eff := .page (.unpin sz count) l.toNat }) ∧
    (∀ t1 pl arrive bar, Claims.Fires s (.vmigrate c lsid t1 pl arrive sz) g r n ls →
      Claims.PeerBarOf (Claims.env s (.vmigrate c lsid t1 pl arrive sz) g r n ls) arrive (n.t.getD .void).word bar →
      Claims.Gives s (.vmigrate c lsid t1 pl arrive sz) g
        { s := s, eff := .page (.migrate sz count t1 pl.toNat bar) l.toNat })

/-- 12 R249: VQUERY of a mapped page delivers its state, touch bit, size, tier, home die or port, package and pins, its package
zero unless it is committed; of a page of another package, tier 2 and that package; of an unmapped page, 0. What the die of a page
of another package reads as is log 35 (DESIGN CHOICE). -/
def Sys2Proof.Claims.PageQuery : Prop :=
  ∀ (s : State) (c : Ctl) (lsid : BitVec 5) (g : Group) (r : BlockRun) (n : Node) (ls : List Nat),
    let l := (n.l.getD .void).word.toNat
    Claims.Fires s (.vquery c lsid) g r n ls → (Claims.env s (.vquery c lsid) g r n ls).loadReady = true → l < 2 ^ 56 →
    ((∀ e, s.walkOf g.ctx l ≠ .leaf e) → Claims.Delivers s (.vquery c lsid) g (.s 0)) ∧
    (∀ e, s.walkOf g.ctx l = .leaf e → ∃ w, Claims.Gives s (.vquery c lsid) g { s := s.draw, res := .s w } ∧
      let spot := frameSpot (leafPa e / 65536)
      let there := leafCommitted e = true ∧ paPkg (leafPa e) ≠ s.pkgNum
      (w.extractLsb' 0 2).toNat = (if leafCommitted e = true then leafState e else 1) ∧ w.getLsbD 2 = false ∧
      w.getLsbD 3 = leafTouch e ∧ (w.extractLsb' 4 2).toNat = leafSize e ∧
      (there → (w.extractLsb' 6 2).toNat = 2) ∧
      (¬ there → (w.extractLsb' 6 2).toNat = spot.1 ∧ (w.extractLsb' 8 2).toNat = spot.2 % 4) ∧
      (w.extractLsb' 10 10).toNat = (if leafCommitted e = true then paPkg (leafPa e) else 0) ∧
      (w.extractLsb' 20 8).toNat = leafPins e ∧ w.extractLsb' 28 36 = 0)

/-- 12 R252 to R254: SRD delivers each of the twelve system registers; SWR holds its register and its token for the commit. -/
def Obligations.SystemRegisters : Prop :=
  ∀ (s : State) (c : Ctl) (lsid : BitVec 5) (reg : SwReg) (g : Group) (r : BlockRun) (n : Node) (ls : List Nat),
    let p := g.place
    let out : List (SysReg × Word) :=
      [(.tile, BitVec.ofNat 64 (p.tile + 64 * p.die + 256 * s.pkgNum + if p.tile < 40 then 0 else 2 ^ 18)),
       (.slot, BitVec.ofNat 64 p.slot),
       (.lanes, BitVec.ofNat 64 (g.shape.lanes + 256 * (2 ^ g.shape.lanes - 1))),
       (.gang, BitVec.ofNat 64 (g.gang.length + 256 * g.rank)),
       (.task, g.task), (.ctx, BitVec.ofNat 64 (g.ctx + 65536 * g.gen)), (.cycle, BitVec.ofNat 64 s.cycle),
       (.cause, g.cause), (.faultva, g.faultva), (.fpflags, g.fpflags), (.fptrap, g.fptrap), (.seed, g.seed)]
    (∀ x ∈ out, Claims.Fires s (.srd c x.1) g r n ls → Claims.Delivers s (.srd c x.1) g (.s x.2)) ∧
    (Claims.Fires s (.swr c lsid reg) g r n ls →
      Claims.Gives s (.swr c lsid reg) g { s := s, eff := .swr reg (n.l.getD .void).word })

/-- 08 R189 to R192: SBIND, SEMIT, SUNBIND and SST. Conventions of the model that it meets: log 24 (DEDUCED), 30 (DEDUCED), 49
(DEDUCED), 50 (DEDUCED), 67 (DEDUCED), 117 (DESIGN CHOICE), 118 (DESIGN CHOICE), 119 (DESIGN CHOICE). -/
def Obligations.Streams : Prop := Claims.StreamBinding ∧ Claims.StreamEmission

/-- 12 R243 to R251: ALLOC, FREE and the page instructions. Conventions of the model that it meets: log 34 (DESIGN CHOICE), 35
(DESIGN CHOICE), 36 (DEDUCED), 76 (DEDUCED), 122 (DEDUCED), 125 (DEDUCED). -/
def Obligations.Pages : Prop := Claims.HeapInstructions ∧ Claims.PageCommands ∧ Claims.PageQuery

/-! ## Tasks, relays and rein commands -/

/-- A handle's fields (15 R283). -/
def Sys2Proof.Claims.handle (pkg die idx gen : Nat) : Word :=
  BitVec.ofNat 64 (pkg * 2 ^ 54 + die * 2 ^ 52 + idx * 2 ^ 35 + gen % 65536 * 2 ^ 19)

/-- A handle that passes 15 R283 and R284 for a job: zero low bits, a package of the pod, and, unless it is stale, a
record of a context with the job's tag. -/
def Sys2Proof.Claims.Checked (s : State) (tag : Nat) (h : Word) : Prop :=
  h.extractLsb' 0 19 = 0 ∧ (h.extractLsb' 54 10).toNat ∈ s.pod ∧ ∀ r, s.target h = some r → s.tagOf r.ctx = tag

/-- 15 R287: TSPAWN reads its image from the group's own scratch, with the overflow list that it may name, takes a free record of
the die it chose, delivers the record's handle and holds the record's creation from the image, with the device's own fields in
place of the image's; it keeps the translations of its kernel's page and of the list's pages. What it read of memory stands in its
die's caches as a tile's reads do, which is log 140 (DEDUCED). -/
def Sys2Proof.Claims.TaskCreation : Prop :=
  ∀ (s : State) (c : Ctl) (lsid : BitVec 5) (given : Bool) (d : BitVec 2) (g : Group) (r : BlockRun) (n : Node) (ls : List Nat)
    (a : ScrAt) (bs ds : List Byte) (kd : KDesc) (idx : Nat),
    let i : Instr := .tspawn c lsid given d
    let E := Claims.env s i g r n ls
    let die := if given then d.toNat else g.place.die
    let ws := bytesWords 32 bs
    let list := (ws.getD 2 0).toNat
    let count := ((ws.getD 3 0).extractLsb' 0 13).toNat
    Claims.Fires s i g r n ls → n.answered = some 0 → s.saddr g false (n.l.getD .void).word 0 256 64 = .ok a →
    E.loadReady = true → E.readScr a 256 = (bs, none) → s.imageCauses E.handleCause ws = [] →
    (list = 0 ∨ (0 < count ∧ count ≤ 4096 ∧ list % 64 = 0 ∧ list < 2 ^ 56 ∧ ∃ os, E.loadUnits list count = .ok os ∧
      ∀ h ∈ bytesWords count os, E.handleCause h = none)) →
    E.loadUnits (ws.getD 0 0).toNat 8 = .ok ds → parseDesc (bytesWords 8 ds) = some kd →
    s.shapeCauses kd.shape ws = [] → s.takeRec die g.ctx [] = some idx →
    ∃ words, Claims.Gives s i g { s := E.bring (ws.getD 0 0).toNat 8 (if list = 0 then s.draw else E.bring list count s.draw)
                                  res := .s (Claims.handle s.pkgNum die idx g.gen), eff := .tspawn ⟨die, idx, words⟩
                                  pages := (ws.getD 0 0).toNat :: if list = 0 then [] else [list, list + 8 * count - 1] } ∧
      words.length = 32 ∧ (∀ k < 32, k ≠ 13 → k ≠ 14 → words.getD k 0 = ws.getD k 0) ∧ words.getD 14 0 = 0 ∧
      (words.getD 13 0).extractLsb' 0 3 = (if (ws.getD 1 0).extractLsb' 0 32 = 0 then 1 else 0) ∧
      (words.getD 13 0).extractLsb' 3 13 = 0 ∧ (words.getD 13 0).extractLsb' 16 16 = BitVec.ofNat 16 g.gen ∧
      (words.getD 13 0).extractLsb' 32 24 = 0 ∧ (words.getD 13 0).extractLsb' 56 8 = BitVec.ofNat 8 g.ctx

/-- 15 R289: TDEC of a task whose counter, less what is held on it, covers n holds n for the commit; of a stale handle it
holds a decrement that is dropped; where the counter does not cover n it faults with 0x102. -/
def Sys2Proof.Claims.CountingDown : Prop :=
  ∀ (s : State) (c : Ctl) (lsid : BitVec 5) (k : BitVec 16) (g : Group) (r : BlockRun) (n : Node) (ls : List Nat),
    let i : Instr := .tdec c lsid k
    let E := Claims.env s i g r n ls
    let h := (n.l.getD .void).word
    Claims.Fires s i g r n ls → n.answered = some 0 → Claims.Checked s (s.tagOf g.ctx) h →
    (h.extractLsb' 54 10).toNat = s.pkgNum → (∀ m ∈ E.lower, m.eff.recHolds = []) →
    (s.target h = none → Claims.Gives s i g { s := s, eff := .tdec h (k.toNat + 1) true }) ∧
    (∀ t, s.target h = some t → k.toNat + 1 + s.decHolds h ≤ t.counter →
      Claims.Gives s i g { s := s, eff := .tdec h (k.toNat + 1) false }) ∧
    (∀ t, s.target h = some t → t.counter < k.toNat + 1 + s.decHolds h →
      exec i s = .next (s.resolveFault g.place (.faulted ⟨0x102, 0, .none⟩)))

/-- 15 R286, R289, R297: of a record of another package, the answer of its dispatcher decides: TDEC, GRESUME and GKILL hold what
they do there where it names no cause, and fault with the cause that it names, one of 0x101 and 0x102, or 0x101 and 0x10B. What
another package answers is log 46 (DESIGN CHOICE) and 113 (DESIGN CHOICE). -/
def Sys2Proof.Claims.FarRecords : Prop :=
  ∀ (s : State) (c : Ctl) (lsid : BitVec 5) (k : BitVec 16) (rank : BitVec 4) (g : Group) (r : BlockRun) (n : Node) (ls : List Nat)
    (i : Instr) (eff : Effect) (cause : Nat),
    let h := (n.l.getD .void).word
    (i, eff, cause) ∈ [(.tdec c lsid k, .tdec h (k.toNat + 1) false, 0x102), (.gresume c lsid rank, .remote h rank.toNat false, 0x10B),
      (.gkill c lsid rank, .remote h rank.toNat true, 0x10B)] →
    Claims.Fires s i g r n ls → h.extractLsb' 0 19 = 0 → (h.extractLsb' 54 10).toNat ∈ s.pod →
    (h.extractLsb' 54 10).toNat ≠ s.pkgNum → (∀ m ∈ (Claims.env s i g r n ls).lower, m.eff.recHolds = []) →
    (n.answered = some 0 → Claims.Gives s i g { s := s, eff := eff }) ∧
    (∀ x, n.answered = some x → (x = 0x101 ∨ x = cause) → exec i s = .next (s.resolveFault g.place (.faulted ⟨x, 0, .none⟩)))

/-- A word of a member's image that names a member becomes its handle (17 R318). -/
def Sys2Proof.Claims.renamed (hs : List Word) (w : Word) : Word :=
  if w.extractLsb' 12 52 = 64 then hs.getD (w.extractLsb' 0 12).toNat w else w

/-- What a word that names a buffer slot becomes (17 R318); `slots` gives the slots' bases and sizes. -/
def Sys2Proof.Claims.slotted (slots : List (Nat × Nat)) (w : Word) : Option Word :=
  match slots[(w.extractLsb' 56 7).toNat]? with
  | some b =>
    if w.getLsbD 63 = true ∧ w.extractLsb' 40 16 = 0 ∧ (w.extractLsb' 0 40).toNat < b.2 then
      some (BitVec.ofNat 64 (b.1 + (w.extractLsb' 0 40).toNat))
    else none
  | none => none

/-- 15 R290, R291; 17 R304, R318: TINST of a registered template, with records and heap ranges to be had, delivers the handle of its
instance, the handle of the first record with bit 18 and the instance number, and holds the ranges and the records: each member's
image with its members' handles and its slots' places in place of their names, the argument where its word names no slot, and the
device's own words. -/
def Sys2Proof.Claims.GraphInstances : Prop :=
  ∀ (s : State) (c : Ctl) (lsid : BitVec 5) (id : BitVec 12) (g : Group) (r : BlockRun) (n : Node) (ls : List Nat)
    (x : Ctx) (t : Template) (at' bufs : List (Nat × Nat)),
    let i : Instr := .tinst c lsid id
    let done := (n.l.getD .void).word
    Claims.Fires s i g r n ls → n.answered = some 0 → s.ctx? g.ctx = some x →
    x.templates.find? (fun y => y.id == id.toNat) = some t →
    (done = 0 ∨ (Claims.Checked s (s.tagOf g.ctx) done ∧ ∀ m ∈ (Claims.env s i g r n ls).lower, m.eff.recHolds = [])) →
    s.takeMembers g.ctx g.place.die t.members [] = some at' → at'.length = t.members.length → at' ≠ [] →
    s.takeBufs g.ctx t.bufs [] = some bufs →
    ∃ num recs, Claims.Gives s i g
        { s := s.draw, eff := .tinst id.toNat num recs bufs done
          res := .s (Claims.handle s.pkgNum (at'.headD (0, 0)).1 (at'.headD (0, 0)).2 g.gen |||
            BitVec.ofNat 64 (2 ^ 18 + num % 65536)) } ∧
      recs.map (fun y => (y.die, y.idx)) = at' ∧ t.next ≤ num ∧
      (let hs := at'.map fun y => Claims.handle s.pkgNum y.1 y.2 g.gen
       let slots := bufs.zipWith (fun b y => (b.1, y.1.toNat)) t.bufs
       ∀ k y m, recs[k]? = some y → t.members[k]? = some m →
        let was : Nat → Word := fun j => m.getD j 0
        let now : Nat → Word := fun j => y.words.getD j 0
        y.words.length = 32 ∧ (∀ j, j < 4 ∨ j = 15 → now j = was j) ∧
        now 4 = (Claims.slotted slots (was 4)).getD (n.r.getD .void).word ∧
        (∀ j, 5 ≤ j → j ≤ 12 → now j = Claims.renamed hs (was j)) ∧
        (∀ b < 8, now (17 + 2 * b) = was (17 + 2 * b) ∧ now (16 + 2 * b) =
          if bMode (was (17 + 2 * b)) = 1 then (Claims.slotted slots (was (16 + 2 * b))).getD (was (16 + 2 * b))
          else if bMode (was (17 + 2 * b)) = 2 then Claims.renamed hs (was (16 + 2 * b)) else was (16 + 2 * b)) ∧
        (now 13).extractLsb' 0 3 = (if (was 1).extractLsb' 0 32 = 0 then 1 else 0) ∧ (now 13).extractLsb' 3 13 = 0 ∧
        (now 13).extractLsb' 16 16 = BitVec.ofNat 16 g.gen ∧ (now 13).extractLsb' 32 16 = BitVec.ofNat 16 num ∧
        (now 13).extractLsb' 48 8 = 0 ∧ (now 13).extractLsb' 56 8 = BitVec.ofNat 8 g.ctx ∧
        now 14 = BitVec.ofNat 64 (id.toNat + 2 ^ 12 + if k = 0 then t.members.length * 2 ^ 32 else 0))

/-- 15 R292: TSTAT delivers a task's state, counter, relay count and signalled bit, and the stale word for a stale handle. -/
def Sys2Proof.Claims.TaskStatus : Prop :=
  ∀ (s : State) (c : Ctl) (lsid : BitVec 5) (g : Group) (r : BlockRun) (n : Node) (ls : List Nat),
    let i : Instr := .tstat c lsid
    let E := Claims.env s i g r n ls
    let h := (n.l.getD .void).word
    Claims.Fires s i g r n ls → n.answered = some 0 → E.loadReady = true → Claims.Checked s (s.tagOf g.ctx) h →
    (h.extractLsb' 54 10).toNat = s.pkgNum → (∀ m ∈ E.lower, m.eff.recHolds = []) →
    (s.target h = none → Claims.Delivers s i g (.s 8)) ∧
    (∀ t, s.target h = some t → ∃ w, Claims.Delivers s i g (.s w) ∧ w.extractLsb' 0 3 = (t.w 13).extractLsb' 0 3 ∧
      w.getLsbD 3 = false ∧ w.getLsbD 4 = (t.w 13).getLsbD 3 ∧ w.extractLsb' 5 3 = 0 ∧
      w.extractLsb' 8 8 = (t.w 13).extractLsb' 48 8 ∧ w.extractLsb' 16 32 = (t.w 1).extractLsb' 0 32 ∧ w.extractLsb' 48 16 = 0)

/-- 15 R291, R292: TSTAT of an instance handle delivers its live tasks and whether it is live, complete or complete with a failed
task, and the stale word once its first record is gone or holds a task of another instance. -/
def Sys2Proof.Claims.InstanceStatus : Prop :=
  ∀ (s : State) (c : Ctl) (lsid : BitVec 5) (g : Group) (r : BlockRun) (n : Node) (ls : List Nat),
    let i : Instr := .tstat c lsid
    let E := Claims.env s i g r n ls
    let h := (n.l.getD .void).word
    let first : Word := h.extractLsb' 19 45 ++ (0 : BitVec 19)
    Claims.Fires s i g r n ls → n.answered = some 0 → E.loadReady = true → h.extractLsb' 16 3 = 4 →
    Claims.Checked s (s.tagOf g.ctx) first → (h.extractLsb' 54 10).toNat = s.pkgNum → (∀ m ∈ E.lower, m.eff.recHolds = []) →
    (s.target first = none → Claims.Delivers s i g (.s 8)) ∧
    (∀ t, s.target first = some t →
      ((t.w 14).getLsbD 12 = false ∨ (t.w 13).extractLsb' 32 16 ≠ h.extractLsb' 0 16 → Claims.Delivers s i g (.s 8)) ∧
      (∀ x gi, (t.w 14).getLsbD 12 = true → (t.w 13).extractLsb' 32 16 = h.extractLsb' 0 16 → s.ctx? t.ctx = some x →
        (x.ginsts.find? fun y => y.tid == t.tid && y.num == t.num) = some gi → gi.first = first →
        ∃ w, Claims.Delivers s i g (.s w) ∧ w.extractLsb' 16 32 = (t.w 14).extractLsb' 32 32 ∧ w.extractLsb' 3 13 = 0 ∧
          w.extractLsb' 48 16 = 0 ∧
          w.extractLsb' 0 3 = if (t.w 14).extractLsb' 32 32 ≠ 0 then 4 else if gi.failed = true then 7 else 6))

/-- 15 R293: RELAY and RELAY.SIG, of a well-formed descriptor and a mask within its shape, leave the relay as their exit where the
tile's accumulators are to be had, and fault with 0x109 where they are not; 15 R296: RELAY.PREP holds the preparation of its
bindings. Which accumulators an overdue task keeps from a relay is log 52 (DESIGN CHOICE); which streams of its own block it sees
is log 139 (DEDUCED). The descriptor that they read stands in their die's caches as a tile's reads do, log 140 (DEDUCED). -/
def Obligations.Relays : Prop :=
  ∀ (s : State) (c : Ctl) (lsid : BitVec 5) (g : Group) (r : BlockRun) (n : Node) (ls : List Nat) (ds : List Byte) (kd : KDesc),
    let l := (n.l.getD .void).word
    let mask := (n.r.getD .void).word
    l.toNat < 2 ^ 56 → l.toNat % 64 = 0 → parseDesc (bytesWords 8 ds) = some kd →
    (∀ (sig : Bool) (i : Instr), i = (if sig then .relaySig c lsid else .relay c lsid) → Claims.Fires s i g r n ls →
      let E := Claims.env s i g r n ls
      E.loadReady = true → E.loadUnits l.toNat 8 = .ok ds → mask.extractLsb' 57 7 = 0 →
      (∀ k < 8, mask.getLsbD (16 + k) = true → k < kd.shape.windows) →
      (∀ k < 16, mask.getLsbD (40 + k) = true → k < kd.shape.acc) →
      (∀ k < 8, mask.getLsbD (24 + k) = true → k < kd.shape.rings) →
      (∀ k < 8, mask.getLsbD (32 + k) = true → k < kd.shape.streams ∧
        ∀ st, E.stream k = some st → st.vec = true → kd.shape.lanes = g.shape.lanes) →
      if (g.place.tile < 40 ∨ kd.shape.acc ≤ 4) ∧ kd.shape.acc - g.shape.acc ≤
          s.accFree g.place.die g.place.tile - s.accOverdue g.ctx g.place.die g.place.tile then
        Claims.Gives s i g { s := E.bring l.toNat 8 s, eff := .relay, exit := some (.relay sig l mask kd), pages := [l.toNat] }
      else exec i s = .next (s.resolveFault g.place (.faulted ⟨0x109, 0, .none⟩))) ∧
    (∀ (m : BitVec 3) (a : ScrAt) (bs : List Byte), Claims.Fires s (.relayPrep c lsid m) g r n ls →
      let E := Claims.env s (.relayPrep c lsid m) g r n ls
      let binds := pairsOf (bytesWords (2 * (m.toNat + 1)) bs)
      E.loadReady = true → E.loadUnits l.toNat 8 = .ok ds → s.saddr g false mask 0 (16 * (m.toNat + 1)) 16 = .ok a →
      E.readScr a (16 * (m.toNat + 1)) = (bs, none) → prepCauses kd.shape binds = [] →
      Claims.Gives s (.relayPrep c lsid m) g { s := E.bring l.toNat 8 s, eff := .prep l kd binds, pages := [l.toNat] })

/-- 15 R297: GRESUME and GKILL of a parked group, its record written and not claimed by another block or package, claim it; of a
rank at or beyond the gang size, a stale handle or a group that is not parked, they fault with 0x10B. Conventions of the model
that it meets: log 47 (DEDUCED), 53 (DEDUCED). -/
def Obligations.ResumeAndKill : Prop :=
  ∀ (s : State) (c : Ctl) (lsid : BitVec 5) (rank : BitVec 4) (kill : Bool) (i : Instr) (g : Group) (r : BlockRun) (n : Node)
    (ls : List Nat),
    let E := Claims.env s i g r n ls
    let h := (n.l.getD .void).word
    i = (if kill then .gkill c lsid rank else .gresume c lsid rank) → Claims.Fires s i g r n ls → n.answered = some 0 →
    Claims.Checked s (s.tagOf g.ctx) h → (h.extractLsb' 54 10).toNat = s.pkgNum → (∀ m ∈ E.lower, m.eff.recHolds = []) →
    (s.target h = none → exec i s = .next (s.resolveFault g.place (.faulted ⟨0x10B, 0, .none⟩))) ∧
    (∀ t, s.target h = some t → (∀ x, s.ctx? t.ctx = some x → x.st = .live) →
      (t.gang ≤ rank.toNat → exec i s = .next (s.resolveFault g.place (.faulted ⟨0x10B, 0, .none⟩))) ∧
      (∀ q, rank.toNat < t.gang → s.groups.find? (fun y => y.task == h && y.rank == rank.toNat) = some q →
        (∀ e ∈ s.heldEffects, ∀ b, e.2 ≠ .gresume h rank.toNat b) →
        (∀ x ∈ s.podHolds, x.handle = h → ∀ b, x.claim ≠ some (rank.toNat, b)) →
        (∀ rs, q.phase = .parked rs true → Claims.Gives s i g { s := s, eff := .gresume h rank.toNat kill }) ∧
        ((∀ rs b, q.phase ≠ .parked rs b) → exec i s = .next (s.resolveFault g.place (.faulted ⟨0x10B, 0, .none⟩)))))

/-- 19 R344, R358; 10 R209: RLOAD reads its table as a load of its group and its image without the stores of its group that are
not performed, which is log 121 (DEDUCED), and what it read stands in its die's caches as a tile's reads do, which is log 140
(DEDUCED); of an image and a table without a defect it holds the registration of the image's id, with P and S; an id that the job
holds on the die is 0x143 where nothing lower applies. -/
def Sys2Proof.Claims.ReinLoading : Prop :=
  ∀ (s : State) (c : Ctl) (lsid : BitVec 5) (stage parity : BitVec 12) (g : Group) (r : BlockRun) (n : Node) (ls : List Nat)
    (hb cb tb rb : List Byte),
    let i : Instr := .rload c lsid stage parity
    let E := Claims.env s i g r n ls
    let img := (n.l.getD .void).word.toNat
    let tab := (n.r.getD .void).word.toNat
    let h := bytesWords 4 hb
    let count := ((h.getD 1 0).extractLsb' 0 13).toNat
    let id := ((h.getD 1 0).extractLsb' 44 12).toNat
    let code := bytesWords count cb
    let k := ((bytesWords 1 tb).getD 0 0).extractLsb' 0 13
    let t := bytesWords 1 tb ++ bytesWords ((k.toNat + 3) / 4) rb
    let F : Env := { E with g := { g with sb := [] }, r := { r with nodes := [] } }
    Claims.Fires s i g r n ls → E.loadReady = true → E.pendingLower isRein = false →
    img < 2 ^ 56 → img % 16 = 0 → tab < 2 ^ 56 → tab % 8 = 0 → F.loadUnits img 4 = .ok hb → reinHeaderBad h = false →
    (stage = 0 ∨ (h.getD 1 0).getLsbD 56 = true) → F.loadUnits (img + 32) count = .ok cb → E.loadUnits tab 1 = .ok tb →
    tabHeadOk ((bytesWords 1 tb).getD 0 0) = true → E.loadUnits (tab + 8) ((k.toNat + 3) / 4) = .ok rb →
    (E.rloadCauses stage.toNat parity.toNat h code t = [] → s.loadHeld g.place (s.tagOf g.ctx) id = false →
      ∃ pages, Claims.Gives s i g { s := E.bring tab t.length (E.bring img (4 + count) s), pages := pages
                                    eff := .rload id (h ++ code) t stage.toNat parity.toNat img }) ∧
    (E.rloadCauses stage.toNat parity.toNat h code t = [0x143] →
      exec i s = .next (s.resolveFault g.place (.faulted ⟨0x143, 0, .none⟩)))

/-- 19 R357, R359 to R361: RSTART of a registered id, of the next number, with fewer than two of its instances live and a free
instance of the die, holds the start with its arguments and barrier; RABORT of a live number holds the abort; RSTAT delivers
the next number and, of one of the two last started, its state, wait and index. Of an id that no committed RLOAD has registered,
also where the block itself holds one, RSTART and RABORT fault with 0x144; of a number that is not live and was not the last
started, also where the block itself holds its start, RABORT faults with 0x145. -/
def Sys2Proof.Claims.ReinCommands : Prop :=
  ∀ (s : State) (c : Ctl) (lsid : BitVec 5) (id : BitVec 12) (g : Group) (r : BlockRun) (n : Node) (ls : List Nat) (p : Prog),
    let num := ((n.l.getD .void).word.extractLsb' 0 16).toNat
    (s.prog? g.place.die g.ctx id.toNat = none →
      (∀ arrive credit rerun a bar bs, Claims.Fires s (.rstart c lsid arrive credit rerun id) g r n ls →
        let E := Claims.env s (.rstart c lsid arrive credit rerun id) g r n ls
        E.pendingLower isRein = false → s.saddr g false (n.l.getD .void).word 0 64 64 = .ok a →
        s.saddr g false (n.t.getD .void).word 0 16 16 = .ok bar → E.loadReady = true → E.readScr a 64 = (bs, none) →
        exec (.rstart c lsid arrive credit rerun id) s = .next (s.resolveFault g.place (.faulted ⟨0x144, 0, .none⟩))) ∧
      (Claims.Fires s (.rabort c lsid id) g r n ls → (Claims.env s (.rabort c lsid id) g r n ls).pendingLower isRein = false →
        exec (.rabort c lsid id) s = .next (s.resolveFault g.place (.faulted ⟨0x144, 0, .none⟩)))) ∧
    (s.prog? g.place.die g.ctx id.toNat = some p →
    (∀ arrive credit rerun a bar bs, Claims.Fires s (.rstart c lsid arrive credit rerun id) g r n ls →
      let E := Claims.env s (.rstart c lsid arrive credit rerun id) g r n ls
      let m := ((n.r.getD .void).word.extractLsb' 0 16).toNat
      E.pendingLower isRein = false → s.saddr g false (n.l.getD .void).word 0 64 64 = .ok a →
      s.saddr g false (n.t.getD .void).word 0 16 16 = .ok bar → E.loadReady = true → E.readScr a 64 = (bs, none) →
      E.started id.toNat = [] → s.startHeld g id.toNat = false → (p.next = none ∨ p.next = some m) →
      ((s.instsOf g.place.die g.ctx id.toNat).filter fun x => x.st = .live ∨ x.st = .stopped).length < 2 →
      s.inUse g.place.die < 32 →
      Claims.Gives s (.rstart c lsid arrive credit rerun id) g
        { s := s, eff := .rstart id.toNat m (bytesWords 8 bs) bar arrive credit rerun }) ∧
    (∀ x, Claims.Fires s (.rabort c lsid id) g r n ls → (Claims.env s (.rabort c lsid id) g r n ls).pendingLower isRein = false →
      x ∈ s.insts → x.die = g.place.die → x.ctx = g.ctx → x.id = id.toNat → x.n = num → (x.st = .live ∨ x.st = .stopped) →
      Claims.Gives s (.rabort c lsid id) g { s := s, eff := .rabort id.toNat num }) ∧
    (Claims.Fires s (.rabort c lsid id) g r n ls → (Claims.env s (.rabort c lsid id) g r n ls).pendingLower isRein = false →
      (∀ x ∈ s.insts, x.die = g.place.die → x.ctx = g.ctx → x.id = id.toNat → x.n = num → x.st = .done ∨ x.st = .aborted) →
      p.next ≠ some ((num + 1) % 65536) →
      exec (.rabort c lsid id) s = .next (s.resolveFault g.place (.faulted ⟨0x145, 0, .none⟩))) ∧
    (∀ next, Claims.Fires s (.rstat c lsid id) g r n ls → (Claims.env s (.rstat c lsid id) g r n ls).loadReady = true →
      p.next = some next → next < 65536 → ∃ w, Claims.Gives s (.rstat c lsid id) g { s := s.draw, res := .s w } ∧
        (w.extractLsb' 48 16).toNat = next ∧
        (∀ x, (s.instsOf g.place.die g.ctx id.toNat).find? (fun y => y.n == num) = some x →
          ((num + 1) % 65536 = next ∨ (num + 2) % 65536 = next) →
          (x.st = .live → x.wait < 16 → x.idx < 4096 → w.extractLsb' 0 3 = 1 ∧ (w.extractLsb' 3 4).toNat = x.wait ∧
            (w.extractLsb' 20 12).toNat = x.idx) ∧
          (x.st = .done → w.extractLsb' 0 32 = 2) ∧ (x.st = .aborted → w.extractLsb' 0 32 = 3))))

/-- 15 R286 to R291: TSPAWN and TINST. Conventions of the model that it meets: log 42 (DEDUCED), 43 (DEDUCED), 44 (DEDUCED), 45
(DEDUCED), 47 (DEDUCED), 113 (DESIGN CHOICE). -/
def Obligations.TasksAndGraphs : Prop := Claims.TaskCreation ∧ Claims.GraphInstances

/-- 15 R286, R289, R291, R292, R297: TDEC, TSTAT of tasks and of instances, and TDEC, GRESUME and GKILL of records of another
package. Conventions of the model that it meets: log 46 (DESIGN CHOICE), 47 (DEDUCED), 113 (DESIGN CHOICE). -/
def Obligations.CountersAndStatus : Prop :=
  Claims.CountingDown ∧ Claims.FarRecords ∧ Claims.TaskStatus ∧ Claims.InstanceStatus

/-- 19 R344, R358 to R361: RLOAD, RSTART, RABORT and RSTAT. Conventions of the model that it meets: log 26 (DEDUCED), 48 (DESIGN
CHOICE), 51 (DEDUCED), 65 (DEDUCED), 121 (DEDUCED). -/
def Obligations.ReinUnit : Prop := Claims.ReinLoading ∧ Claims.ReinCommands

/-! ## Rein programs -/

/-- The turn stands at a live instance of a registered program, the first of its key (19 R336, R345). -/
def Sys2Proof.Claims.Runs (s : State) (i : Inst) (p : Prog) : Prop :=
  s.turn = .inst i.die i.key ∧ s.insts.find? (fun y => y.key == i.key) = some i ∧ i.st = .live ∧
    s.prog? i.die i.ctx i.id = some p

/-- The instruction completes: `t` with the instance changed by `f`, at its next place, its turn over. -/
def Sys2Proof.Claims.GoesOn (s : State) (ins : Instr) (i : Inst) (t : State) (idx : Nat) (f : Inst → Inst) : Prop :=
  exec ins s = .next { t with
    turn := .idle, insts := updFirst (fun y => y.key == i.key) (fun y => { f y with idx := idx, wait := 0 }) t.insts }

/-- A cause of an instance goes to the group that started it (19 R356): a group that runs gets a report of it, one that waits in its
block or has ended parks with it; where that group has retired, a record names the task. -/
def Sys2Proof.Claims.Told (s t : State) (i : Inst) (cause : Nat) : Prop :=
  (∀ g, s.group? i.who = some g → g.task = i.task → g.ctx = i.ctx →
    (∀ b, g.phase = .running → g.run = some b → b.isWaiting = false → t.group? i.who =
      some { g with reports := g.reports ++ [⟨cause, 0, 0, .none, i.tag.blk, i.tag.idx, i.tag.lsid⟩] }) ∧
    (g.reports = [] → (g.phase = .ended ∨ (g.phase = .running ∧ ∃ b, g.run = some b ∧ b.isWaiting = true)) → ∃ q,
      t.group? i.who = some q ∧ (∃ rs, q.phase = .parked rs false) ∧ q.cause = BitVec.ofNat 64 (cause + i.tag.idx * 2 ^ 16))) ∧
  (∀ x, (∀ g, s.group? i.who = some g → g.task ≠ i.task ∨ g.ctx ≠ i.ctx) → s.ctx? i.ctx = some x → ∃ y h,
    t.ctx? i.ctx = some y ∧ y.held = x.held ++ [h] ∧ h.who = none ∧ h.words.getD 2 0 = i.task ∧
    (h.words.getD 3 0).extractLsb' 0 16 = BitVec.ofNat 16 cause)

/-- An instance stops with a cause (19 R356): what the instruction did before, `t`, stands, the instance keeps its live place, and
the cause goes to the group that started it. -/
def Sys2Proof.Claims.Stops (s : State) (ins : Instr) (i : Inst) (t : State) (cause : Nat) (f : Inst → Inst) : Prop :=
  ∃ u, exec ins s = .next u ∧ u.mem = t.mem ∧ (∀ o ∈ t.outbox, o ∈ u.outbox) ∧ (∀ e ∈ t.agenda, e ∈ u.agenda) ∧
    u.signals = t.signals ∧ u.turn = .idle ∧ Claims.Told t u i cause ∧
    u.insts = updFirst (fun y => y.key == i.key) (fun y => { f y with st := .stopped, wait := 0 }) t.insts

/-- The instruction completes and the instance continues at the next index; at its program's end it stops with 0x14B, whatever the
instruction, whose effect stands (19 R345). -/
def Sys2Proof.Claims.Onward (s : State) (ins : Instr) (i : Inst) (p : Prog) (t : State) (f : Inst → Inst) : Prop :=
  if i.idx + 1 < p.words.length - 4 then Claims.GoesOn s ins i t (i.idx + 1) f
  else Claims.Stops s ins i t 0x14B fun y => { f y with idx := i.idx + 1 }

/-- The instance waits with a code of 19 R361. -/
def Sys2Proof.Claims.Waits (s : State) (ins : Instr) (i : Inst) (code : Nat) : Prop :=
  exec ins s = .next { s with
    turn := .idle, insts := updFirst (fun y => y.key == i.key) (fun y => { y with wait := code }) s.insts }

/-- A register of an instance. -/
def Sys2Proof.Claims.gr (i : Inst) (r : BitVec 4) : Word := i.g.getD r.toNat 0

/-- A descriptor of an instance. -/
def Sys2Proof.Claims.cr (i : Inst) (r : BitVec 3) : ChunkDesc := i.c.getD r.toNat ⟨0, 0, 0⟩

/-- 19 R346: the register instructions write gA alone, with the 64-bit result, and continue at the next index; NOP writes none. -/
def Sys2Proof.Claims.ReinRegisters : Prop :=
  ∀ (s : State) (a b c : BitVec 4) (imm : BitVec 32) (i : Inst) (p : Prog),
    let x := Claims.gr i b
    let y := Claims.gr i c
    Claims.Runs s i p →
    Claims.Onward s .nop i p s id ∧
    ∀ e ∈ ([(.movg a b, x), (.reinMovi a imm, imm.signExtend 64), (.addg a b c, x + y), (.addi a b imm, x + imm.signExtend 64),
        (.subg a b c, x - y), (.mulg a b c, x * y), (.modg a b c, if y = 0 then x else x.umod y), (.andg a b c, x &&& y),
        (.shrg a b c, x >>> (y.toNat % 64))] : List (Instr × Word)),
      Claims.Onward s e.1 i p s fun z => { z with g := z.g.set a.toNat e.2 }

/-- 19 R347: JMP branches always, BNZ and BZ on gA, LOOP on gA − 1, which it writes; a taken branch continues at this index +
imm, whichever place it stands at, another at the next; at the program's end that one stops the instance with 0x14B (19 R345). -/
def Sys2Proof.Claims.ReinBranches : Prop :=
  ∀ (s : State) (a : BitVec 4) (imm : BitVec 32) (i : Inst) (p : Prog) (dst : Nat),
    let x := Claims.gr i a
    Claims.Runs s i p →
    ((dst : Int) = i.idx + imm.toInt → dst < p.words.length - 4 →
      Claims.GoesOn s (.jmp imm) i s dst id ∧
      (x ≠ 0 → Claims.GoesOn s (.bnz a imm) i s dst id) ∧
      (x = 0 → Claims.GoesOn s (.bz a imm) i s dst id) ∧
      (x ≠ 1 → Claims.GoesOn s (.loop a imm) i s dst fun z => { z with g := z.g.set a.toNat (x - 1) })) ∧
    (x = 0 → Claims.Onward s (.bnz a imm) i p s id) ∧
    (x ≠ 0 → Claims.Onward s (.bz a imm) i p s id) ∧
    (x = 1 → Claims.Onward s (.loop a imm) i p s fun z => { z with g := z.g.set a.toNat 0 })

/-- 19 R348: SETCHUNK sets space, address and bytes of a descriptor, ADDC adds to its address, and PEER computes a rank from the
instance's rank and size, all ones where there is none. -/
def Sys2Proof.Claims.ReinDescriptorsAndPeers : Prop :=
  ∀ (s : State) (a3 : BitVec 3) (a b c : BitVec 4) (sp : BitVec 2) (i : Inst) (p : Prog),
    let x := Claims.gr i b
    let k := Claims.gr i c
    let none' : Word := BitVec.allOnes 64
    let peer (kind : PeerKind) (v : Word) : Prop :=
      Claims.Onward s (.peer a b kind) i p s fun z => { z with g := z.g.set a.toNat v }
    Claims.Runs s i p →
    Claims.Onward s (.setchunk a3 b c sp) i p s
      (fun z => { z with c := z.c.set a3.toNat ⟨sp.toNat, x, (k.extractLsb' 0 17).toNat⟩ }) ∧
    Claims.Onward s (.addc a3 b) i p s
      (fun z => { z with c := z.c.set a3.toNat { Claims.cr i a3 with addr := (Claims.cr i a3).addr + x } }) ∧
    (0 < i.size → peer .ring (BitVec.ofInt 64 (((i.rank : Int) + x.toInt) % i.size))) ∧
    peer .xor (if i.rank ^^^ x.toNat < i.size then BitVec.ofNat 64 (i.rank ^^^ x.toNat) else none') ∧
    peer .parent (if 0 < i.rank ∧ 1 ≤ x.toNat then BitVec.ofNat 64 ((i.rank - 1) / x.toNat) else none') ∧
    peer (.child c) (if 1 ≤ x.toNat ∧ k.toNat < x.toNat ∧ i.rank * x.toNat + 1 + k.toNat < i.size then
      BitVec.ofNat 64 (i.rank * x.toNat + 1 + k.toNat) else none')

/-- A valid descriptor in space 00, 01 or 10 (19 R338). -/
def Sys2Proof.Claims.Chunked (p : Prog) (d : ChunkDesc) : Prop :=
  d.bytes % 16 = 0 ∧ 16 ≤ d.bytes ∧ d.bytes ≤ 65536 ∧ d.addr.toNat % 16 = 0 ∧
    ((d.space = 0 ∧ d.addr.toNat < 2 ^ 56) ∨ (d.space = 1 ∧ d.addr.toNat + d.bytes ≤ p.p * 65536) ∨
      (d.space = 2 ∧ d.addr.toNat + d.bytes ≤ p.s * 65536))

/-- Package and die of a rank (19 R339). -/
def Sys2Proof.Claims.rankSpot (p : Prog) (r : Nat) : Nat × Nat :=
  let e := ((p.tab.getD (1 + r / 4) 0).extractLsb' (16 * (r % 4)) 16).toNat
  (e % 1024, e / 1024 % 4)

/-- 19 R349, R351; 21 R371: SEND, with fewer than 16 unacknowledged, sends its source's bytes to the rank with the next sequence
number and the tag of header and bytes, and counts it outstanding; with 16 it waits. SIGNAL sends a signal with job tag, id,
instance and own rank, under a number of its own (log 60, DEDUCED), and keeps it until it is answered. What goes to a rank of this
package goes on its way here, the rest to the pod. -/
def Sys2Proof.Claims.ReinSending : Prop :=
  ∀ (s : State) (a c : BitVec 3) (b : BitVec 4) (i : Inst) (p : Prog),
    let peer := (Claims.gr i b).toNat
    let src := Claims.cr i a
    let off := (Claims.cr i c).addr.toNat
    let seq := countOf i.sendSeq peer
    let dst := Claims.rankSpot p peer
    let sent : State → Instr → Out → State := fun t here away =>
      if dst.1 = t.pkgNum then { t with agenda := t.agenda ++ [here] } else { t with outbox := t.outbox ++ [away] }
    Claims.Runs s i p → peer < i.size →
    (Claims.Chunked p src → Claims.Chunked p { Claims.cr i c with space := 1 } → src.bytes = (Claims.cr i c).bytes →
      (16 ≤ i.out.length → Claims.Waits s (.send a b c) i 4) ∧
      (∀ xs s1, i.out.length < 16 → s.readChunk p i src = .ok (xs, s1) → ∃ bad,
        let bs := xs.map Prod.fst
        let head := [i.id, i.n, i.rank, seq, off, bs.length].flatMap fun v => bytesOf v 4
        let ch : Chunk := ⟨s1.tagOf i.ctx, i.id, i.n, i.rank, seq, off, bs, bad, crc32c (head ++ bs), s1.pkgNum, i.die, peer⟩
        Claims.Onward s (.send a b c) i p (sent s1 (.chunkArrival dst.2 ch) (.chunk dst.1 dst.2 ch)) fun z =>
          { z with out := z.out ++ [⟨peer, seq, src, off, 0, false⟩]
                   sendSeq := setCount z.sendSeq peer ((seq + 1) % 2 ^ 32) })) ∧
    let m : SignalMsg := ⟨dst.2, s.tagOf i.ctx, i.id, i.n, i.rank, s.keys, s.pkgNum, i.die, peer⟩
    Claims.Onward s (.reinSignal b) i p
      (sent { s with signals := s.signals ++ [⟨m, i.ctx, dst.1, false⟩], keys := s.keys + 1 } (.signalArrival m) (.signal dst.1 m)) id

/-- 19 R350, R351, R355: RECV takes the verified chunk whose sequence number is the receive count from its rank, whatever verified
before it, and waits while there is none; it leaves memory and every copy of it as they are, since the landing itself brought the
die's copies up to date (log 62, DEDUCED). WAIT takes one signal, and waits while the count is zero. -/
def Sys2Proof.Claims.ReinReceiving : Prop :=
  ∀ (s : State) (a : BitVec 3) (b : BitVec 4) (i : Inst) (p : Prog),
    let peer := (Claims.gr i b).toNat
    let k := countOf i.recvSeq peer
    let seen := i.verified.find? fun v => v.1 == peer && v.2.1 == k
    Claims.Runs s i p → peer < i.size →
    (seen = none → Claims.Waits s (.recv a b) i 1) ∧
    (∀ v, seen = some v →
      Claims.Onward s (.recv a b) i p s fun z =>
        { z with c := z.c.set a.toNat ⟨1, BitVec.ofNat 64 v.2.2.1, v.2.2.2⟩
                 recvSeq := setCount z.recvSeq peer ((k + 1) % 2 ^ 32) }) ∧
    (countOf i.sigs peer = 0 → Claims.Waits s (.wait b) i 2) ∧
    (0 < countOf i.sigs peer → Claims.Onward s (.wait b) i p s fun z =>
      { z with sigs := setCount z.sigs peer (countOf i.sigs peer - 1) })

/-- The element at a place of bytes. -/
def Sys2Proof.Claims.at (w : Nat) (bs : List Byte) (k : Nat) : BitVec w := BitVec.ofNat w (ofBytes bs / 2 ^ (w * k))

/-- A descriptor's bytes are written, `zs`, and give `t`: in space 00 at the die, in an area at the homes and in the die's copies
(19 R355; log 62, DEDUCED). -/
def Sys2Proof.Claims.Written (s : State) (p : Prog) (i : Inst) (d : ChunkDesc) (zs : List XByte) (t : State) : Prop :=
  let va := (p.place i d).2
  if d.space = 0 then s.xwrite (some i.die) i.ctx va zs .engineWrite = .ok t else s.areaWrite i.die i.ctx va zs = .ok t

/-- A descriptor's bytes may be written: no lease of another party on them, and their pages translate. -/
def Sys2Proof.Claims.Writable (s : State) (p : Prog) (i : Inst) (d : ChunkDesc) : Prop :=
  let va := (p.place i d).2
  (if d.space = 0 then s.xblocked none (some i.die) i.ctx va d.bytes .engineWrite = false
    else s.areaBlocked i.die i.ctx va d.bytes = false) ∧
    ∃ pas s', s.reach .engineWrite i.ctx (va / 16 * 16) (units (va % 16 + d.bytes)) = .ok (pas, s')

/-- 19 R352, R353, R355; 17 R316, R322: REDUCE writes into each element of cA the sum, least or greatest of the elements of cB and
cC, a floating sum rounded once, saturating for .e4m3 alone; COPY writes the bytes of cB to cA, or appends them as elements to the
landing stream while its 16 KiB (log 66, DESIGN CHOICE) have room, its descriptor of any alignment (log 63, DEDUCED), and leaves
scratch as it is (log 135, DESIGN CHOICE); both restart
the context's stall timer; TAGCHK sets gA to the CRC-32C of cB's bytes. -/
def Obligations.ReinData : Prop :=
  ∀ (s : State) (a b c : BitVec 3) (ga : BitVec 4) (op : Red) (t : ETy) (i : Inst) (p : Prog) (xs : List XByte) (s1 : State),
    let dst := Claims.cr i a
    let x := Claims.cr i b
    Claims.Runs s i p → Claims.Chunked p x → s.readChunk p i x = .ok (xs, s1) →
    (∀ ys s2, Claims.Chunked p dst → Claims.Chunked p (Claims.cr i c) → x.bytes = dst.bytes → (Claims.cr i c).bytes = dst.bytes →
      Instr.wf (.reduce a b c op t) = true → s1.readChunk p i (Claims.cr i c) = .ok (ys, s2) → Claims.Writable s2 p i dst →
      ∃ zs s3, Claims.Written s2 p i dst zs s3 ∧ zs.length = dst.bytes ∧
        Claims.Onward s (.reduce a b c op t) i p (s3.progress i.ctx) id ∧ ∀ k < 8 * dst.bytes / eWidth t,
          Claims.at (eWidth t) (zs.map Prod.fst) k = Claims.reduced op ⟨.rne, t = .f .e4m3, 0⟩ t
            [Claims.at (eWidth t) (xs.map Prod.fst) k, Claims.at (eWidth t) (ys.map Prod.fst) k]) ∧
    (Claims.Chunked p dst → x.bytes = dst.bytes → Claims.Writable s1 p i dst →
      ∃ s2, Claims.Written s1 p i dst xs s2 ∧ Claims.Onward s (.copy a b) i p (s2.progress i.ctx) id) ∧
    (∀ q r st, dst.space = 3 → x.bytes = dst.bytes → s.landingStream i (dst.addr.extractLsb' 0 4).toNat = some (q, r, st) →
      let size := if st.vec then 128 * st.lanes else 8
      x.bytes % size = 0 → st.buf.length * size + x.bytes ≤ 16384 → ∃ es : List SElem, es.length = x.bytes / size ∧
        (∀ k < es.length, ∃ f, es[k]? = some (.data (((xs.map Prod.fst).drop (k * size)).take size) f)) ∧
        Claims.Onward s (.copy a b) i p ((s1.progress i.ctx).setGroup q fun g => { g with
          s := updAt g.s r fun o => o.map fun y => { y with buf := y.buf ++ es, fetched := y.fetched + es.length } }) id) ∧
    Claims.Onward s (.tagchk ga b) i p s1 fun z =>
      { z with g := z.g.set ga.toNat ((crc32c (xs.map Prod.fst)).setWidth 64) }

/-- 19 R345: an instruction at the program's last place that takes the instance beyond it does its work and stops the instance with
0x14B: NOP, the register instructions, an untaken branch, SETCHUNK, ADDC and PEER, and FENCE, WAIT, SIGNAL, RECV, SEND, TAGCHK,
REDUCE and COPY where they go on. -/
def Sys2Proof.Claims.LastPlace : Prop :=
  ∀ (s : State) (a c m : BitVec 3) (b d e : BitVec 4) (imm : BitVec 32) (sp : BitVec 2) (kind : PeerKind) (op : Red) (t : ETy)
      (i : Inst) (p : Prog),
    let ends : Instr → State → (Inst → Inst) → Prop := fun ins t f => Claims.Stops s ins i t 0x14B fun y => { f y with idx := i.idx + 1 }
    let x := Claims.gr i d
    let y := Claims.gr i e
    let peer := (Claims.gr i b).toNat
    let src := Claims.cr i a
    let dst := Claims.cr i c
    Claims.Runs s i p → i.idx + 1 = p.words.length - 4 →
    ends .nop s id ∧
    (∀ o ∈ ([(.movg b d, x), (.reinMovi b imm, imm.signExtend 64), (.addg b d e, x + y), (.addi b d imm, x + imm.signExtend 64),
        (.subg b d e, x - y), (.mulg b d e, x * y), (.modg b d e, if y = 0 then x else x.umod y), (.andg b d e, x &&& y),
        (.shrg b d e, x >>> (y.toNat % 64))] : List (Instr × Word)),
      ends o.1 s fun z => { z with g := z.g.set b.toNat o.2 }) ∧
    (∃ v, ends (.peer b d kind) s fun z => { z with g := z.g.set b.toNat v }) ∧
    (Claims.gr i b = 0 → ends (.bnz b imm) s id) ∧ (Claims.gr i b ≠ 0 → ends (.bz b imm) s id) ∧
    (Claims.gr i b = 1 → ends (.loop b imm) s fun z => { z with g := z.g.set b.toNat 0 }) ∧
    ends (.setchunk a d e sp) s (fun z => { z with c := z.c.set a.toNat ⟨sp.toNat, x, (y.extractLsb' 0 17).toNat⟩ }) ∧
    ends (.addc a d) s (fun z => { z with c := z.c.set a.toNat { src with addr := src.addr + x } }) ∧
    (i.out = [] → ends .reinFence s id) ∧
    (peer < i.size →
      (0 < countOf i.sigs peer → ends (.wait b) s fun z => { z with sigs := setCount z.sigs peer (countOf i.sigs peer - 1) }) ∧
      (∃ t, t.insts = s.insts ∧ (t.outbox ≠ s.outbox ∨ t.agenda ≠ s.agenda) ∧ ends (.reinSignal b) t id) ∧
      (∀ v, i.verified.find? (fun v => v.1 == peer && v.2.1 == countOf i.recvSeq peer) = some v → ends (.recv a b) s fun z =>
        { z with c := z.c.set a.toNat ⟨1, BitVec.ofNat 64 v.2.2.1, v.2.2.2⟩
                 recvSeq := setCount z.recvSeq peer ((countOf i.recvSeq peer + 1) % 2 ^ 32) })) ∧
    ∀ xs s1, Claims.Chunked p src → s.readChunk p i src = .ok (xs, s1) →
      (∃ w, ends (.tagchk b a) s1 fun z => { z with g := z.g.set b.toNat w }) ∧
      (peer < i.size → i.out.length < 16 → Claims.Chunked p { dst with space := 1 } → src.bytes = dst.bytes →
        ∃ t o, t.insts = s1.insts ∧ o.peer = peer ∧ o.src = src ∧ (t.outbox ≠ s1.outbox ∨ t.agenda ≠ s1.agenda) ∧ ends (.send a b c) t fun z =>
          { z with out := z.out ++ [o], sendSeq := setCount z.sendSeq peer ((o.seq + 1) % 2 ^ 32) }) ∧
      (Claims.Chunked p dst → src.bytes = dst.bytes →
        (Claims.Writable s1 p i dst → ∃ s2, Claims.Written s1 p i dst xs s2 ∧ ends (.copy c a) (s2.progress i.ctx) id) ∧
        ∀ ys s2, Claims.Chunked p (Claims.cr i m) → (Claims.cr i m).bytes = dst.bytes → Instr.wf (.reduce c a m op t) = true →
          s1.readChunk p i (Claims.cr i m) = .ok (ys, s2) → Claims.Writable s2 p i dst →
          ∃ zs s3, Claims.Written s2 p i dst zs s3 ∧ ends (.reduce c a m op t) (s3.progress i.ctx) id)

/-- A credit or arrival of a command or an instance on its barrier, whose error is reported to its group (08 R182, R186, R187; 19
R354; 21 R370). -/
def Sys2Proof.Claims.credit (g : Group) (t : Tag) (db : Int) (da : Nat) (s : State) (a : ScrAt) : State :=
  let x := (s.bar g a).update db da
  match x.2 with
  | none => s.setBar g a x.1
  | some k => (s.setBar g a x.1).tell g.place t ⟨k, 0, 0, .none, true⟩

/-- 19 R354: FENCE goes on, and DONE completes the instance, once every SEND is acknowledged; until then they wait. DONE makes one
arrival on the barrier where RSTART asked for one, and without it changes no byte of memory or scratch. 19 R345, R351, R356: an
instance whose index reaches its program's end without a DONE stops with 0x14B, whichever instruction takes it there, and one whose
operand names a rank at or beyond S with 0x147; it keeps its live place, and the cause goes to the group that started it.
Conventions of the model that it meets: log 39 (DEDUCED), 64 (DEDUCED). -/
def Obligations.ReinEnds : Prop := Claims.LastPlace ∧
  ∀ (s : State) (a c : BitVec 3) (b : BitVec 4) (i : Inst) (p : Prog),
    let beyond : Instr → Prop := fun ins => Claims.Stops s ins i s 0x147 id
    let done (f : Inst → Inst) : Inst → Inst := fun y => { f y with st := .done, wait := 0, out := [] }
    Claims.Runs s i p →
    (i.out ≠ [] → Claims.Waits s .reinFence i 3 ∧ Claims.Waits s .done i 3) ∧
    (i.out = [] → Claims.Onward s .reinFence i p s id ∧
      ∃ t, exec .done s = .next t ∧ t.mem = s.mem ∧ t.turn = .idle ∧
        t.insts = updFirst (fun y => y.key == i.key) (done id) s.insts ∧
        (i.arrive = false → t.groups.map Group.win = s.groups.map Group.win) ∧
        (i.arrive = true → ∀ g, s.group? i.who = some g → g.task = i.task → g.ctx = i.ctx →
          let u := Claims.credit g i.tag 0 1 s i.bar
          t.groups.map Group.win = u.groups.map Group.win ∧ t.ctxs = u.ctxs)) ∧
    (i.size ≤ (Claims.gr i b).toNat → beyond (.send a b c) ∧ beyond (.recv a b) ∧ beyond (.wait b) ∧ beyond (.reinSignal b))

/-- 19 R346 to R348: the register, branch, descriptor and peer instructions of a Rein program. -/
def Obligations.ReinScalars : Prop := Claims.ReinRegisters ∧ Claims.ReinBranches ∧ Claims.ReinDescriptorsAndPeers

/-- 19 R349 to R351: SEND, SIGNAL, RECV and WAIT. Conventions of the model that it meets: log 58 (DEDUCED), 60 (DEDUCED), 61
(DESIGN CHOICE), 62 (DEDUCED). -/
def Obligations.ReinTransfers : Prop := Claims.ReinSending ∧ Claims.ReinReceiving

/-! ## Steps of the tile core, memory and the engines (95) -/

/-- A block as fetched and decoded: nothing has fired, no slot is full. -/
def Sys2Proof.Claims.Fetched (a : Word) (n l : Nat) (ws : List Word) (is : List Instr) (r : BlockRun) : Prop :=
  r.addr = a ∧ r.n = n ∧ r.l = l ∧ r.lits = ws.drop n ∧ r.nodes.map Node.word = ws.take n ∧ r.nodes.map Node.ins = is ∧
    ∀ x ∈ r.nodes, x.st = .pending ∧ x.l = none ∧ x.r = none ∧ x.t = none ∧ x.g = none ∧ x.eff = .none ∧ x.exit = none ∧
      x.wr = none

/-- The node may be its block's exit to `a`: a BRI or CALL to it, a RET while the link stack's top is it, a BR that has fired
with it (07 R152). -/
def Sys2Proof.Claims.LeadsTo (g : Group) (r : BlockRun) (n : Node) (a : Word) : Prop :=
  (∃ c off, (n.ins = .bri c off ∨ n.ins = .call c off) ∧ a = r.addr + off.signExtend 64 * 16) ∨
    (∃ c, n.ins = .ret c ∧ g.link.head? = some a) ∨ (∃ c, n.ins = .br c ∧ n.exit = some (.br a))

/-- A tile may start the block at `a` ahead (07 R152): the older block's flags allow it, no END, TRAP or relay may still be its
exit, and an exit that may be taken leads to `a`, as the one that has fired does. A block that may still bind or unbind a stream
register is not run past (log 116, DEDUCED). -/
def Sys2Proof.Claims.MayRunAhead (g : Group) (r : BlockRun) (a : Word) : Prop :=
  r.relay = false ∧ r.nospec = false ∧
    (∀ n ∈ r.nodes, n.st ≠ .nulled → isRelay n.ins = false ∧ (∀ c k, n.ins ≠ .endg c ∧ n.ins ≠ .trap c k) ∧
      (∀ c l q k, n.ins ≠ .sbind c l q k ∧ n.ins ≠ .sunbind c l q) ∧ (n.exit = none ∨ Claims.LeadsTo g r n a)) ∧
    ∃ n ∈ r.nodes, n.st ≠ .nulled ∧ Claims.LeadsTo g r n a

/-- 02 R53; 07 R147, R152, R158, R159; 11 R227; 15 R286: a running group without a block fetches and decodes the one at its next
address, which must be 16-byte aligned; a tile starts the one block ahead that it predicts, where it may, and no other; a waiting
group is roused; a waiting block that runs again after a failed comparison drops its leases, at any time (log 12, DESIGN CHOICE);
with nothing left to fire, the lowest-index fault discards the block and parks the group at its start; the grace of a cut ends
with the block's discard, and the starts that it waits for are remembered; a task instruction's probe is answered, and leaves for
each other package that it asks for a handle, a TDEC's for a hold there, GRESUME's and GKILL's for a claim; a discarded block
gives up what it holds there. Conventions of the model that it meets: log 12 (DESIGN CHOICE), 39 (DEDUCED), 47 (DEDUCED), 113
(DESIGN CHOICE), 116 (DEDUCED). -/
def Obligations.TileCoreSteps : Prop :=
  ∀ (s : State) (p : Place) (g : Group), s.group? p = some g →
    (g.phase = .running → g.run = none → s.ctxLive g.ctx = true →
      (g.next.toNat % 16 ≠ 0 → s.ctx? g.ctx ≠ none → ∃ t g', exec (.blockFetchDecode p) s = .next t ∧ t.group? p = some g' ∧
        g'.phase = .parked (.rerun g.next) false ∧ g'.run = none ∧ g'.cause = 0x3F0001) ∧
      (∀ hw s1 ws s2 is, g.next.toNat % 16 = 0 → s.fetchWords g g.next.toNat 2 = .ok (hw, s1) →
        let h := headerOf (hw.getD 0 0) (hw.getD 1 0)
        h.kind = 0xB → 1 ≤ h.n → h.n ≤ 32 → s1.fetchWords g (g.next.toNat + 16) (h.n + h.l) = .ok (ws, s2) →
        ws.length = h.n + h.l → is.length = h.n → g.decodeBlock h (ws.take h.n) = .ok is →
        ∃ r, Claims.Fetched g.next h.n h.l ws is r ∧ exec (.blockFetchDecode p) s =
          .next (s2.setGroup p fun g => { g with ahead := none, run := some r }))) ∧
    (∀ r, g.run = some r →
      (∀ a, Claims.MayRunAhead g r a → g.phase = .running → g.ahead = none → g.grace = false → s.ctxLive g.ctx = true →
        (∀ b t, s.loadBlock g a = .ok b t → exec (.runAhead p a) s = .next (t.setGroup p fun g => { g with ahead := some b })) ∧
        ((∀ b t, s.loadBlock g a ≠ .ok b t) → exec (.runAhead p a) s = .next s)) ∧
      (∀ a, ¬ Claims.MayRunAhead g r a → exec (.runAhead p a) s = .next s) ∧
      (r.isWaiting = true → exec (.awaitedTokenArrives p) s = .next { s.setRun p fun r => { r with
          nodes := r.nodes.map fun n => { n with st := if n.st = .waiting then .pending else n.st } } with turn := .group p }) ∧
      (r.isWaiting = true → g.fails ≠ 0 → exec (.leaseWaitExpiry p) s = .next (s.setRun p fun r => { r with
          nodes := r.nodes.map fun n => if n.leased then { n with leased := false, dropped := true } else n }).release) ∧
      (∀ k n f, r.nodes.any Node.fireable = false → r.nodes[k]? = some n → n.st = .faulted f →
        (∀ j < k, ∀ m, r.nodes[j]? = some m → ∀ e va acc, m.st ≠ .faulted e ∧ m.st ≠ .touched va acc) →
        f.cause ∉ [0x140, 0x141, 0x142, 0x143, 0x14A] → exec (.runtimeFaultDiscard p) s = .next (((s.discard p).takeTrap p
          ⟨f.cause, k, lsidOf n.ins, r.addr, f.va, f.acc, 0⟩ (.rerun r.addr)).endTurn p)) ∧
      ((∀ n ∈ r.nodes, n.resolved = true) → exec (.cutGraceExpiry p) s = .next s) ∧
      (∀ x, g.grace = true → (∃ n ∈ r.nodes, n.resolved = false) → s.ctx? g.ctx = some x →
        (x.cutAt + 256 ≤ s.cycle ∨ r.isWaiting = true) → exec (.cutGraceExpiry p) s = .next (((s.setCtx g.ctx fun y => { y with
          waits := y.waits ++ if r.isWaiting = true then r.waitingStarts.map fun q => (p.die, q) else [] }).discard p).endTurn p)) ∧
      (∀ j n, r.nodes[j]? = some n → isProbe n.ins = true → n.ready = true → n.resolved = false →
        let e : Env := ⟨s, g, r, n, n.ins, []⟩
        let pkg (h : Word) : Nat := (h.extractLsb' 54 10).toNat
        let handles : List Word := match n.ins with
          | .tspawn _ _ _ _ => e.probeHandles
          | _ => [(n.l.getD .void).word]
        let ask : PodAsk := match n.ins with
          | .tdec _ _ k => .hold (k.toNat + 1)
          | .gresume _ _ rank => .claim rank.toNat false
          | .gkill _ _ rank => .claim rank.toNat true
          | _ => .check
        let away (h : Word) : Prop := h ≠ 0 ∧ pkg h ≠ s.pkgNum
        let probe (t : State) (h : Word) : State :=
          let o : Out := .probe t.keys h (s.tagOf g.ctx) ask
          if h = 0 ∨ pkg h = s.pkgNum then t
          else if pkg h ∈ s.failedPkgs then { t with stalled := t.stalled ++ [(pkg h, o)], keys := t.keys + 1 }
          else { t with outbox := t.outbox ++ [o], keys := t.keys + 1 }
        let asked : State := handles.foldl probe s
        ((∃ c lsid b d, n.ins = .tspawn c lsid b d) → e.loadReady = true) →
        ∃ k key, exec (.taskProbe (.own p) j) s = .next (asked.setRun p fun r => { r with
          nodes := updAt r.nodes j fun n => { n with
            st := if n.st = .waiting then .pending else n.st, answered := some k, asked := key } }) ∧
          ∀ x, key = some x ↔ x = s.keys ∧ k = 0 ∧ ask ≠ .check ∧ away (n.l.getD .void).word) ∧
      (∀ q k v, r.nodes = [q] → q.asked = some k → q.l = some v → (v.word.extractLsb' 54 10).toNat ∉ s.failedPkgs →
        (s.discard p).outbox = s.outbox ++ [.probe k v.word (s.tagOf g.ctx) .drop]))

/-- 07 R149, R150, R153, R159; 04 R103 to R107: a complete block commits when its effects can be performed: the count of committed
blocks rises, and a taken BR sets the next block, which goes on where the tile started it ahead, CALL pushes its return address
below 16, RET pops it; an empty stack at RET and a full one at CALL discard the block and park the group with 0x029 and 0x028; so
do no exit, with 0x020, and two, with 0x021; END retires the group, once its stores and commands are done, and a relay puts it in
its hold: its link stack empties, its record counts the relay. A block that has completed does so in the grace of a cut and after
it. Conventions of the model that it meets: log 12 (DESIGN CHOICE), 33 (DEDUCED), 39 (DEDUCED), 40 (DEDUCED). -/
def Sys2Proof.Claims.Completions : Prop :=
  ∀ (s : State) (p : Place) (g : Group) (r : BlockRun), s.group? p = some g → g.phase = .running → g.run = some r →
    s.ctx? g.ctx ≠ none → (∀ n ∈ r.nodes, n.resolved = true) →
    let exits := ((List.range r.nodes.length).zip r.nodes).filterMap fun x => x.2.exit.map fun e => (x.1, e)
    let parks (c : Word) : Prop := ∃ t g', exec (.blockComplete p) s = .next t ∧ t.group? p = some g' ∧
      g'.phase = .parked (.rerun r.addr) false ∧ g'.run = none ∧ g'.cause = c ∧ g'.x = g.x ∧ g'.count = g.count ∧ t.mem = s.mem
    (exits = [] → parks 0x3F0020) ∧
    (∀ i e rest, exits = (i, e) :: rest →
      (rest ≠ [] → parks (BitVec.ofNat 64 (0x021 + i * 2 ^ 16))) ∧
      (∀ a b, e = .call a b → rest = [] → 16 ≤ g.link.length → parks (BitVec.ofNat 64 (0x028 + i * 2 ^ 16))) ∧
      (e = .ret → rest = [] → g.link = [] → parks (BitVec.ofNat 64 (0x029 + i * 2 ^ 16))) ∧
      (rest = [] → (∀ n ∈ r.nodes, n.dropped = false) → g.reports = [] → g.fptrap = 0 →
        (∀ n ∈ r.nodes, n.eff = .none ∨ ∃ l, n.eff = .stores l none) → ∀ (dst : Word) (link : List Word),
        ((e = .br dst ∧ link = g.link) ∨ (∃ b, e = .call dst b ∧ g.link.length < 16 ∧ link = b :: g.link) ∨
          (e = .ret ∧ g.link = dst :: link)) →
        ∃ t g', exec (.blockComplete p) s = .next t ∧ t.group? p = some g' ∧ g'.phase = .running ∧
          (∀ b, g'.run = some b ↔ g.ahead = some b ∧ b.addr = dst) ∧ g'.ahead = none ∧
          g'.next = dst ∧ g'.link = link ∧ g'.count = g.count + 1) ∧
      (rest = [] → (∀ n ∈ r.nodes, n.dropped = false) → g.reports = [] → g.fptrap = 0 → g.prep = none →
        (∀ n ∈ r.nodes, n.eff = .none ∨ n.eff = .relay ∨ ∃ l, n.eff = .stores l none) →
        (e = .endg → ∃ t, exec (.blockComplete p) s = .next t ∧
          (∀ g', t.group? p = some g' → g'.phase = .ended ∧ g'.run = none ∧ g'.ahead = none ∧ g'.link = [] ∧ g'.count = g.count + 1) ∧
          ((∀ n ∈ r.nodes, ∀ l, n.eff ≠ .stores l none) → g.sb = [] → g.mq = [] → g.cq = [] →
            (∀ x, s.ctx? g.ctx = some x → ∀ q ∈ x.pageCmds, q.who ≠ p) → t.group? p = none)) ∧
        (∀ sig desc mask kd, e = .relay sig desc mask kd → ∃ t g', exec (.blockComplete p) s = .next t ∧ t.group? p = some g' ∧
          g'.phase = .relayHold mask kd r.addr ∧ g'.run = none ∧ g'.ahead = none ∧ g'.link = [] ∧ g'.count = g.count + 1 ∧
          g'.task = g.task ∧ g'.gang = g.gang ∧ (sig = true → g'.sigAt ≠ none) ∧
          ∀ q, s.recOf g = some q → s.rec? q.die q.idx = some q → q.words.length = 32 → ∃ q', t.rec? q.die q.idx = some q' ∧
            q'.state = 5 ∧ (q'.w 13).extractLsb' 48 8 = (q.w 13).extractLsb' 48 8 + 1)))

/-- A complete block of a running group whose exit is BR `dst`, with nothing that stops or holds up its commit but what its nodes'
effects say. -/
structure Sys2Proof.Claims.Complete (s : State) (p : Place) (g : Group) (r : BlockRun) (dst : Word) : Prop where
  group : s.group? p = some g
  phase : g.phase = .running
  run : g.run = some r
  ctx : s.ctx? g.ctx ≠ none
  stores : g.sb = []
  calm : g.reports = [] ∧ g.fptrap = 0
  done : ∀ m ∈ r.nodes, m.resolved = true ∧ m.dropped = false
  exit : r.nodes.filterMap Node.exit = [.br dst]

/-- It commits: `u` has its registers written and its effects performed; the count of committed blocks rises, the group goes on at
`dst`, its context's stall timer restarts, its reserve is refilled, and what waited is tried again (07 R150, 14 R268, 17 R322). -/
def Sys2Proof.Claims.Commits (s : State) (p : Place) (c : Nat) (dst : Word) (u : State) : Prop :=
  exec (.blockComplete p) s = .next
    (State.endTurn (((((u.setGroup p fun g => { g with count := g.count + 1, run := none, fails := 0, grace := false }).progress c).refill
      p).release).setGroup p fun g => { g with next := dst, phase := .running, run := g.ahead.filter (fun b => b.addr == dst), ahead := none }) p)

/-- The one effect of a complete block is that of its node `n` at the index `a.length`. -/
def Sys2Proof.Claims.Holds (r : BlockRun) (a : List Node) (n : Node) (e : Effect) : Prop :=
  (∃ b, r.nodes = a ++ n :: b ∧ ∀ m ∈ a ++ b, m.eff = .none) ∧ n.st = .fired ∧ n.lsid < 32 ∧ n.eff = e ∧
    ∀ m ∈ r.nodes, m.popped = none

/-- A command's tag as it enters its group's queues: its number, its instruction, and the stores that stand before it (08 R164). -/
def Sys2Proof.Claims.entering (g : Group) (r : BlockRun) (i : Nat) (n : Node) : Tag :=
  ⟨g.cmdSeq, r.addr, i, n.lsid, n.word, (n.l.getD .void).word, (n.r.getD .void).word, (n.t.getD .void).word, g.entered⟩

/-- The consumer tickets of ring `q` that an operand takes. -/
def Sys2Proof.Claims.ticket (q : Nat) : MOpnd → Nat
  | .ring k _ => if k = q then 1 else 0
  | _ => 0

/-- 07 R150; 08 R163, R175 to R178, R185, R186, R189, R191, R192; 11 R222, R230; 14 R268; 17 R315: what a commit does to its group
and its gang: a barrier is set, updated, and reports its error, so that the group traps with its exit pending; rings are set, and
tickets taken, an entry filled or consumed and released in order; commands enter their queues with their numbers; stream registers
are bound, unbound and counted, an element goes to memory through the store buffer, line by line in any order, or to the far end
of its edge, after the die's write-backs where that is on another die; a store to a peer's scratch enters the store buffer; a
READ's element is popped; FENCE.rel leaves its scope, after the write-backs that it needs. The reserve is refilled towards 72 from
unreserved frames. Conventions of the model that it meets: log 33 (DEDUCED), 39 (DEDUCED), 71 (DEDUCED), 130 (DEDUCED), 134
(DESIGN CHOICE). -/
def Sys2Proof.Claims.CommitsOfTheGroup : Prop :=
  (∀ (s : State) (p : Place) (g : Group) (x : Ctx), s.group? p = some g → s.ctx? g.ctx = some x → ∃ l g', (s.refill p).group? p = some g' ∧
    g' = { g with reserve := g.reserve ++ l } ∧ l.length = min (72 - g.reserve.length) (s.freeFrames g.ctx).length ∧
    ∀ f ∈ l, f ∈ s.freeFrames g.ctx) ∧
  (∀ (s : State) (g m : Group) (a : ScrAt) (b : Barrier), s.memberAt g a.rank = some m → a.win < m.win.length →
    Memory.wf (m.window a.win).cells = true → -(2 ^ 35) ≤ b.bytes → b.bytes < 2 ^ 35 → b.arrivals < 65536 → b.reset < 65536 →
    (s.setBar g a b).bar g a = b) ∧
  ∀ (s : State) (p : Place) (g : Group) (r : BlockRun) (dst : Word), Claims.Complete s p g r dst →
    let g1 := g.commitRegs r
    let s1 := s.setGroup p fun y => y.commitRegs r
    let commits (u : State) : Prop := Claims.Commits s p g.ctx dst u
    let own (f : Group → Group) : Prop := commits (s1.setGroup p f)
    (∀ q st, (∀ m ∈ r.nodes, m.eff = .none) → r.nodes.filterMap (fun m => if m.st = .fired then m.popped else none) = [q] →
      g.s.getD q none = some st → own fun y => { y with
        s := y.s.set q (some { st with buf := st.buf.tail, moved := st.moved + 1 })
        edges := match st.src with
          | .edge b => y.edges.map fun e => if e.bind = b then { e with buf := e.buf.tail, moved := e.moved + 1 } else e
          | _ => y.edges }) ∧
    ∀ (a : List Node) (n : Node) (e : Effect), Claims.Holds r a n e →
      (∀ sc, e = .fence sc → let far := sc = .pkg ∨ sc = .pod ∨ sc = .sys
        (far → s1.backBlocked (some p) p.die = false) →
        commits ((if far then s1.writeBack p.die else s1).setGroup p fun y => { y with
          relFence := if y.relFence ∈ [some .pkg, some .pod, some .sys] then y.relFence else some sc })) ∧
      (∀ at' bs, e = .scratch [(at', bs)] → at'.rank ≠ g.rank → own fun y => { y with
        sb := y.sb ++ [⟨.peer at', bs, 0, y.relFence⟩], entered := y.entered + 1 }) ∧
      (∀ at' k, e = .binit at' k → commits (s1.setBar g1 at' ⟨0, k, k, false, false⟩)) ∧
      (∀ at' db da, e = .bupd at' db da → let x := (s1.bar g1 at').update db da
        (x.2 = none → commits (s1.setBar g1 at' x.1)) ∧
        (∀ cause, x.2 = some cause → ∃ t g' j, exec (.blockComplete p) s = .next t ∧ t.group? p = some g' ∧
          g'.phase = .parked (.pend (.br dst) r.addr j) false ∧ g'.count = g.count + 1 ∧
          g'.cause = BitVec.ofNat 64 (cause + a.length * 2 ^ 16))) ∧
      (∀ q R, e = .qinit q R → own fun y => { y with q := y.q.set q (some R) }) ∧
      (∀ q k at' bs R, e = .qpush q k at' bs → g.relFence = none → g.q.getD q none = some R →
        commits ((s1.scrWrite g1 at' bs).setGroup p fun y => { y with
          q := y.q.set q (some { R with tail := (R.tail + 1) % 65536, pres := R.pres.set (k % 2 ^ R.c) .present }) })) ∧
      (∀ q k R, e = .qpop q k → g.q.getD q none = some R → R.rel < 65536 → ∃ R', own (fun y => { y with q := y.q.set q (some R') }) ∧
        R'.head = (R.head + 1) % 65536 ∧ R'.tail = R.tail ∧ R'.base = R.base ∧ R'.entry = R.entry ∧ R'.c = R.c ∧
        (k % 2 ^ R.c ≠ R.rel % 2 ^ R.c → R.pres.getD (R.rel % 2 ^ R.c) .empty ≠ .consumed →
          R'.rel = R.rel ∧ R'.pres = R.pres.set (k % 2 ^ R.c) .consumed) ∧
        (k = R.rel → R.head = R.rel → R.pres.length = 2 ^ R.c →
          R'.rel = (R.rel + 1) % 65536 ∧ R'.pres = R.pres.set (k % 2 ^ R.c) .empty)) ∧
      (∀ cmd, e = .matrix cmd → (∀ R, some R ∈ g.q → R.head < 65536) → g.q.length = 8 → ∃ qs : List (Option Ring), own (fun y => { y with
          q := qs, mq := y.mq ++ [{ cmd with tag := { cmd.tag with seq := y.cmdSeq, after := y.entered } }]
          cmdSeq := y.cmdSeq + 1 }) ∧ qs.length = 8 ∧
        ∀ k < 8, qs.getD k none = (g.q.getD k none).map fun R => { R with head := (R.head + match cmd.op with
          | .mma _ _ _ _ x y _ => Claims.ticket k x + Claims.ticket k y
          | _ => 0) % 65536 }) ∧
      (∀ cmd, e = .copy cmd → own fun y => { y with
        q := match cmd.dst with
          | .ring q k => updAt y.q q fun o => o.map fun R =>
            { R with tail := (R.tail + 1) % 65536, pres := R.pres.set (k % 2 ^ R.c) .filling }
          | _ => y.q
        cq := y.cq ++ [{ cmd with id := y.cmdSeq, tag := { cmd.tag with seq := y.cmdSeq, after := y.entered } }]
        cmdSeq := y.cmdSeq + 1 }) ∧
      (∀ q st, e = .sbind q st → own fun y => { y with s := y.s.set q (some st) }) ∧
      (∀ q bs mem st, e = .semit q bs mem → g.s.getD q none = some st →
        let moved (y : Group) : Group := { y with s := y.s.set q (some { st with moved := st.moved + 1 }) }
        ((∀ b, st.src ≠ .edge b) → mem ≠ [] → ∃ l : List StoreReq, l.Perm mem ∧ commits { (s1.setGroup p fun y => { moved y with
            sb := y.sb ++ l.map fun x => ⟨.phys x.pa, x.bytes, x.va, y.relFence⟩, entered := y.entered + l.length }) with
          fresh := s1.fresh + 1 }) ∧
        (∀ b rec' z, st.src = .edge b → mem = [] → s1.recOf g1 = some rec' → s1.edgePeer g1 b = some z →
          (z.place.die ≠ p.die → s1.backBlocked (some p) p.die = false) →
          commits (((if z.place.die = p.die then s1 else s1.writeBack p.die).setGroup z.place fun y => { y with
            edges := y.edges.map fun e => if e.bind = ((rec'.binding b).2.extractLsb' 56 3).toNat then
              { e with buf := e.buf ++ [.data bs none] } else e }).setGroup p moved))) ∧
      (∀ q st, e = .sunbind q → g.s.getD q none = some st →
        ((∀ b, st.src ≠ .edge b) → own fun y => { y with s := y.s.set q none }) ∧
        (∀ b, st.src = .edge b → st.out = false → own fun y => { y with
          s := y.s.set q none, edges := y.edges.map fun e => if e.bind = b then { e with buf := [] } else e }) ∧
        (∀ b rec', st.src = .edge b → st.out = true → s1.recOf g1 = some rec' →
          commits ((s1.endEdge rec' b).setGroup p fun y => { y with s := y.s.set q none }))) ∧
      (∀ desc kd binds, e = .prep desc kd binds → own fun y => { y with
        prep := some ⟨desc, kd, binds, binds.map fun _ => {}, binds.map fun _ => false, none, Claims.entering g r a.length n⟩
        cmdSeq := y.cmdSeq + 1 })

/-- What ALLOC makes of the page of an address (12 R244): the leaf of a reserved one names the home die, one of the four by turns, or
one of the CXL ports fitted, by turns. -/
def Sys2Proof.Claims.placed (die : Nat) (place : APlace) (c : Nat) (t : State) (va : Nat) : State :=
  match t.walkOf c va with
  | .leaf e =>
    let ports := [0, 1, 2, 3].filter fun p => Config.cxlBytes p ≠ 0
    let sz := pgOfCode (e.extractLsb' 4 2).toNat
    let at' : Option Nat := match place with
      | .home => some (die * 2 ^ 37)
      | .spread => some (va / 65536 % 4 * 2 ^ 37)
      | .tier1 => ports[va / 65536 % ports.length]?.map fun p => 2 ^ 40 + p * 0xC000000000
    match at' with
    | some o =>
      if e.extractLsb' 2 2 = 1 then
        t.setCtx c fun x => x.setLeaf (va / pgBytes sz * pgBytes sz) sz (putBits e 16 36 ((t.pkgNum * 2 ^ 42 + o) / 65536))
      else t
    | none => t
  | _ => t

/-- A record made from its words (15 R287): created, in no place, with nothing landed. -/
def Sys2Proof.Claims.newRec (s : State) (h : RecHold) (num : Nat) : TaskRec :=
  { die := h.die, idx := h.idx, words := h.words, retained := none, tiles := [], staging := [], landed := [], waitMc := []
    readyAt := s.cycle, runAt := 0, groupsLeft := 0, signals := 0, anyKilled := none, edgesEnded := [], kept := [], num := num }

/-- 07 R150; 12 R244 to R248, R250; 15 R287, R289, R290, R297; 19 R358 to R360; 21 R368, R373: what a commit does beyond its group:
ALLOC allocates its range and places its reserved pages; page commands enter their context's queue; a page of VCOMMIT or PIN is
committed with its frame, which becomes zero, and PIN counts; TSPAWN's record is created, TINST's records, ranges and instance are
made and its template's next number passes it; TDEC's decrement leaves, after the die's write-backs where the record is not on the
die, and one of a stale handle is counted as dropped; GKILL ends its group, and a command of another package is performed there;
RLOAD registers its program, RSTART places its instance, and RABORT aborts its instance on every rank. Where a wider release
is blocked, or a page is being changed, the commit waits, as premises say. Conventions of the model that it meets: log 33 (DEDUCED),
34 (DESIGN CHOICE), 44 (DEDUCED), 53 (DEDUCED), 60 (DEDUCED), 113 (DESIGN CHOICE), 126 (DESIGN CHOICE), 138 (DEDUCED). -/
def Sys2Proof.Claims.CommitsBeyondTheGroup : Prop :=
  ∀ (s : State) (p : Place) (g : Group) (r : BlockRun) (dst : Word) (a : List Node) (n : Node) (e : Effect),
    Claims.Complete s p g r dst → Claims.Holds r a n e →
    let c := g.ctx
    let s1 := s.setGroup p fun y => y.commitRegs r
    let commits (u : State) : Prop := Claims.Commits s p c dst u
    let back (on : Bool) : State := if on then s1.writeBack p.die else s1
    let free (on : Bool) : Prop := on = true → s1.backBlocked (some p) p.die = false
    (∀ b k place, e = .alloc b k place → s1.placeWaits c b k = false → commits
      (((List.range ((b + k - 1) / 65536 - b / 65536 + 1)).map fun i => (b / 65536 + i) * 65536).foldl (Claims.placed p.die place c)
        (s1.setCtx c fun x => { x with allocs := (b, k) :: x.allocs }))) ∧
    (∀ op va, e = .page op va → commits ((s1.setCtx c fun x => { x with
      pageCmds := x.pageCmds ++ [⟨op, va, p, Claims.entering g r a.length n, none⟩] }).setGroup p fun y => { y with cmdSeq := y.cmdSeq + 1 })) ∧
    (∀ sz pin h x l, e = .commit sz pin [h] → s.ctx? c = some x → x.changing h.va = false → s1.leafOf c h.va sz = some l →
      l.extractLsb' 2 2 ≠ 3 → (l.extractLsb' 56 8).toNat < 255 → Memory.wf s.mem = true →
      (l.extractLsb' 2 2 = 1 → ∃ f, h.frame = some f ∧ f % pgFrames sz = 0 ∧ f + pgFrames sz ≤ 2 ^ 36) → ∃ u l', commits u ∧
        u.leafOf c h.va sz = some l' ∧ l'.extractLsb' 2 2 = 2 ∧ l'.extractLsb' 4 12 = l.extractLsb' 4 12 ∧
        (l'.extractLsb' 56 8).toNat = (l.extractLsb' 56 8).toNat + pin.toNat ∧
        (l.extractLsb' 2 2 = 2 → l'.extractLsb' 16 36 = l.extractLsb' 16 36 ∧ u.mem = s.mem) ∧
        ∀ f, l.extractLsb' 2 2 = 1 → h.frame = some f → (l'.extractLsb' 16 36).toNat = f ∧
          (∃ y, u.ctx? c = some y ∧ ∀ k < pgFrames sz, f + k ∉ y.frames) ∧
          ∀ i, u.mem.get i = if f * 65536 ≤ i ∧ i < (f + pgFrames sz) * 65536 then 0 else s.mem.get i) ∧
    (∀ h, e = .tspawn h → free (decide (h.die ≠ p.die)) → commits
      (({ back (decide (h.die ≠ p.die)) with recs := Claims.newRec s h 0 :: s.recs.filter fun y => !(y.die == h.die && y.idx == h.idx) } : State).progress
        (Claims.newRec s h 0).ctx)) ∧
    (∀ t num recs bufs done x, e = .tinst t num recs bufs done → s.ctx? c = some x → free (recs.any fun h => decide (h.die ≠ p.die)) →
      (bufs.any fun b => s1.placeWaits c b.1 b.2) = false → (recs.map fun h => (h.die, h.idx)).Nodup → ∃ u y, commits u ∧
        (∀ h ∈ recs, u.rec? h.die h.idx = some (Claims.newRec s h num)) ∧
        (∀ die idx, (∀ h ∈ recs, h.die ≠ die ∨ h.idx ≠ idx) → u.rec? die idx = s.rec? die idx) ∧ u.ctx? c = some y ∧
        y.allocs = bufs.reverse ++ x.allocs ∧
        (let hs := recs.map fun h => Claims.handle s.pkgNum h.die h.idx g.gen
         y.ginsts = x.ginsts ++ [{ tid := t, num := num, first := hs.headD 0, members := hs, bufs := bufs, done := done
                                   failed := false, complete := false }]) ∧
        ∀ z ∈ y.templates, z.id = t → num < z.next) ∧
    (∀ h k stale, e = .tdec h k stale →
      let there := decide ((h.extractLsb' 54 10).toNat ≠ s.pkgNum ∨ (h.extractLsb' 52 2).toNat ≠ p.die)
      free there →
      (stale = true → ∀ x, s.ctxs.find? (fun y => y.tag == s.tagOf c) = some x → commits (s1.setCtx x.slot fun y =>
        { y with counters := { y.counters with dropDec := y.counters.dropDec + k } })) ∧
      (stale = false → (h.extractLsb' 54 10).toNat = s.pkgNum → commits { back there with
        decs := s.decs ++ [⟨s.keys, h, k, none, s.tagOf c, true⟩], keys := s.keys + 1 }) ∧
      (stale = false → (h.extractLsb' 54 10).toNat ≠ s.pkgNum → (h.extractLsb' 54 10).toNat ∉ s.failedPkgs → commits
        { (back there).setCtx c fun x => { x with sent := x.sent + 1 } with
          outbox := (back there).outbox ++ [.decrement h k none (s.tagOf c) s.keys n.asked], keys := s.keys + 1 })) ∧
    (∀ h rank q rs x, e = .gresume h rank true → s.groups.find? (fun y => y.task == h && y.rank == rank) = some q →
      s.group? q.place = some q → q.place ≠ p → s.ctx? q.ctx = some x → x.st = .live → q.phase = .parked rs true →
      ∃ t, exec (.blockComplete p) s = .next t ∧ (∃ g', t.group? p = some g' ∧ g'.next = dst ∧ g'.count = g.count + 1) ∧
        (∀ q', t.group? q.place = some q' → q'.phase = .ended ∧ q'.killed = some (q.cause.extractLsb' 0 9).toNat ∧ q'.run = none ∧
          q'.reports = [] ∧ q'.link = []) ∧
        (q.sb = [] → q.cq = [] → (q.mq = [] ∨ ∃ d ∈ q.mq, d.stop ≠ none) → (∀ k ∈ x.pageCmds, k.who ≠ q.place) →
          t.group? q.place = none)) ∧
    (∀ h rank kill, e = .remote h rank kill → (h.extractLsb' 54 10).toNat ∉ s.failedPkgs → commits
      { s1 with outbox := s.outbox ++ [.probe (n.asked.getD 0) h (s.tagOf c) .perform] }) ∧
    (∀ id ws tab st pa img, e = .rload id ws tab st pa img → commits { s1 with progs :=
      { die := p.die, ctx := c, id := id, words := ws, tab := tab, s := st, p := pa, next := none, img := some img } :: s.progs }) ∧
    (∀ id k args bar ar cr rr q, e = .rstart id k args bar ar cr rr → s.prog? p.die c id = some q → (q.next = none ∨ q.next = some k) →
      k < 65536 → ∃ u i q', commits u ∧ i ∈ u.insts ∧ i.key = s.keys ∧ i.die = p.die ∧ i.ctx = c ∧ i.id = id ∧ i.n = k ∧ i.st = .live ∧
        i.began = false ∧ i.idx = 0 ∧ i.engine < 8 ∧ i.rank = ((q.tab.getD 0 0).extractLsb' 16 13).toNat ∧
        i.size = ((q.tab.getD 0 0).extractLsb' 0 13).toNat ∧
        i.g = [BitVec.ofNat 64 i.rank, BitVec.ofNat 64 i.size, BitVec.ofNat 64 k, BitVec.ofNat 64 (k % 2), 0, 0, 0, 0] ++ args ∧
        i.c = List.replicate 8 ⟨0, 0, 0⟩ ∧ i.who = p ∧ i.task = g.task ∧ i.bar = bar ∧ i.arrive = ar ∧ i.credit = cr ∧ i.rerun = rr ∧
        u.prog? p.die c id = some q' ∧ q' = { q with next := some ((k + 1) % 65536) } ∧
        ∀ j ∈ s.insts, (j.st = .live ∨ j.st = .stopped) → j ∈ u.insts) ∧
    (∀ id k q, e = .rabort id k → s.prog? p.die c id = some q → ∃ u, commits u ∧
      (∀ i, (s.instsOf p.die c id).find? (fun y => y.n == k) = some i → s.insts.find? (fun y => y.key == i.key) = some i → i.st = .live →
        i.began = true → ∃ j ∈ u.insts, j.key = i.key ∧ j.st = .aborted ∧ j.out = []) ∧
      ∀ j, j < ((q.tab.getD 0 0).extractLsb' 0 13).toNat → j ≠ ((q.tab.getD 0 0).extractLsb' 16 13).toNat →
        let at' := Claims.rankSpot q j
        if at'.1 = s.pkgNum then .abortArrival ⟨at'.2, s.tagOf c, id, k, j, s.pkgNum⟩ ∈ u.agenda
        else .abort at'.1 at'.2 (s.tagOf c) id k ∈ u.outbox)

/-- 07 R149, R150, R153, R159; 04 R103 to R107: the completion of a block, and what its commit does with every effect that it
holds; those of registers, stores, atomics and GRESUME have statements of their own too. -/
def Obligations.BlockCompletion : Prop :=
  Claims.Completions ∧ Claims.CommitsOfTheGroup ∧ Claims.CommitsBeyondTheGroup

/-- 10 R206; 11 R218; 12 R245, R251; 14 R263, R267, R270, R271: the oldest store of a group is performed at its die, at a gang
peer's scratch, or, a release of a scope wider than .die, at the home after its die's write-backs (11 R222); an evicted foreign
line writes its dirty bytes back and is gone; a walk fills the tile's TLB; a touch commits the page with a frame and the group
runs again; FREE ends its range's allocation, or reports 0x085; a page being decommitted becomes reserved, its old leaf waiting; a
page to be moved has its destination frame taken and its move noted; an invalidation ends once nothing uses the old leaf.
Conventions of the model that it meets: log 14 (DESIGN CHOICE), 15 (DEDUCED), 75 (DEDUCED), 76 (DEDUCED), 78 (DESIGN CHOICE), 112
(DESIGN CHOICE), 128 (DEDUCED). -/
def Obligations.MemorySteps : Prop :=
  ∀ (s : State),
    (∀ p g x rest pa, s.group? p = some g → g.sb = x :: rest → x.dest = .phys pa → x.rel = none →
      s.leaseMeets (some p) p.die (s.point p.die pa false) pa x.bytes.length = false → exec (.storePerform p) s =
        .next (((s.dieWrite p.die pa x.bytes).setGroup p fun g => { g with sb := rest }).afterWork p)) ∧
    (∀ p g x rest a, s.group? p = some g → g.sb = x :: rest → x.dest = .peer a → x.rel = none → exec (.storePerform p) s =
      .next (((s.scrWrite g a x.bytes).setGroup p fun g => { g with sb := rest }).afterWork p)) ∧
    (∀ p g x rest pa sc, s.group? p = some g → g.phase = .running → g.sigAt = none → g.sb = x :: rest → x.dest = .phys pa →
      x.rel = some sc → (sc = .pkg ∨ sc = .pod ∨ sc = .sys) → s.leaseMeets (some p) p.die none pa x.bytes.length = false →
      s.backBlocked (some p) p.die = false → Memory.wf s.mem = true → s.ctxs.flatMap Ctx.migs = [] → (∀ k < x.bytes.length, s.far (pa + k) = false) → ∃ t g',
      exec (.storePerform p) s = .next t ∧ t.group? p = some g' ∧ g'.sb = rest ∧ (∀ f ∈ t.foreign, f.die = p.die → f.dirty = 0) ∧
      ∀ k < x.bytes.length, t.mem.get (pa + k) = x.bytes.getD k 0 ∧ t.dieByte p.die (pa + k) = x.bytes.getD k 0) ∧
    (∀ die line f, s.fline? die line = some f → s.lineBlocked f = false → Memory.wf s.mem = true →
      ∃ t, exec (.lineEviction die line) s = .next t ∧ t.fline? die line = none ∧ t.groups = s.groups ∧
        (line * 128 / 2 ^ 42 % 1024 = s.pkgNum → ∀ k < 128, f.dirty.getLsbD k = true → k < f.bytes.length →
          s.ctxs.flatMap Ctx.migs = [] → t.mem.get (line * 128 + k) = f.bytes.getD k 0) ∧
        (line * 128 / 2 ^ 42 % 1024 ≠ s.pkgNum → t.mem = s.mem ∧ (f.dirty ≠ 0 → f.bytes.length = 128 → ∃ pa bs,
          t.outbox = s.outbox ++ [.ualinkWrite (line * 128 / 2 ^ 42 % 1024) pa bs] ∧ pa % 16 = 0 ∧ bs.length % 16 = 0 ∧
          16 ≤ bs.length ∧ line * 128 ≤ pa ∧ pa + bs.length ≤ line * 128 + 128 ∧
          ∀ k < 128, (if pa ≤ line * 128 + k then bs.getD (line * 128 + k - pa) none else none) =
            if f.dirty.getLsbD k = true then some (f.bytes.getD k 0) else none)) ∧
        (∀ a, (a / 128 ≠ line ∨ f.dirty.getLsbD (a % 128) = false) → s.ctxs.flatMap Ctx.migs = [] → t.mem.get a = s.mem.get a)) ∧
    (∀ die tile c va acc pa e, s.translate c va.toNat acc = .ok pa → s.walkOf c va.toNat = .leaf e →
      ∃ l, exec (.pageWalk die tile c va acc) s = .next { s with tlb := l } ∧
        ⟨die, tile, c, s.genOf c, leafBase va.toNat e, e⟩ ∈ l) ∧
    (∀ c va p g acc idx lsid e f s1, s.changing c va.toNat = false → s.group? p = some g → g.ctx = c →
      g.phase = .touching va.toNat acc idx lsid → s.walkOf c va.toNat = .leaf e → leafCommitted e = false → leafTouch e = true →
      s.takeFrames c (pgFrames (pgOfCode (leafSize e))) (frameSpot (leafPa e / 65536)) = some (f, s1) →
      exec (.touchCommit c va (some p)) s =
        .next ((s1.commitPage c va.toNat e f).setGroup p fun g => { g with phase := .running })) ∧
    (∀ c q x, s.pageHead c = some q → s.ctx? c = some x →
      (q.op = .free → (x.allocs.any fun a => a.1 == q.va) = false →
        exec (.pageCommandPerform c) s = .next (s.endPageCmd c q (some 0x085))) ∧
      (q.op = .free → (x.allocs.any fun a => a.1 == q.va) = true → s.backBlocked none q.who.die = false →
        exec (.pageCommandPerform c) s = .next (((s.writeBack q.who.die).setCtx c fun x =>
          { x with allocs := x.allocs.filter fun a => a.1 != q.va }).endPageCmd c q none)) ∧
      (∀ sz n va vas e, q.op = .decommit sz n → q.left = some (va :: vas) → s.leafOf c va sz = some e → s.changing c va = false →
        leafState e = 2 → s.pinned c va sz = 0 →
        exec (.invalidation c) s = .next ((s.beginInval c va sz e (putBits e 2 2 1) none).nextPage c)) ∧
      (∀ sz n t1 pl bar va vas e f s1, q.op = .migrate sz n t1 pl bar → q.left = some (va.toNat :: vas) →
        (∀ m ∈ x.migs, m.va ≠ va.toNat) → s.leafOf c va.toNat sz = some e → s.changing c va.toNat = false → leafState e = 2 →
        s.pinned c va.toNat sz = 0 → paPkg (leafPa e) = s.pkgNum → s.takeDest c (pgFrames sz) (migSpot t1 pl) = some (f, s1) →
        (s.linesIn (leafPa e / 65536) (pgFrames sz)).any s.lineBlocked = false →
        ∃ t y, exec (.migratePage c va) s = .next t ∧ t.ctx? c = some y ∧
          (⟨va.toNat, sz, leafPa e / 65536, f⟩ : Migration) ∈ y.migs)) ∧
    (∀ c x i, s.ctx? c = some x → x.invals.find? (fun i => s.drained c i.va i.size) = some i → i.map = none →
      (s.linesIn (leafPa i.old / 65536) (i.size / 65536)).any s.lineBlocked = false →
      ∃ t y, exec (.invalidationComplete c) s = .next t ∧ t.ctx? c = some y ∧ y.invals = x.invals.erase i) ∧
    (∀ c x i n q m, s.ctx? c = some x → x.invals.find? (fun i => s.drained c i.va i.size) = some i → i.map = some n →
      (∀ j ∈ x.invals.erase i, j.map ≠ some n) → (s.linesIn (leafPa i.old / 65536) (i.size / 65536)).any s.lineBlocked = false →
      s.queue? n = some q → q.doing = some m → (m.h0.extractLsb' 32 16).toNat = n → m.h0.getLsbD 25 = false →
      ∃ t, exec (.invalidationComplete c) s = .next t ∧
        .completion n m.h1 m.h2 [BitVec.ofNat 64 ((m.h0.extractLsb' 16 8).toNat * 256)] m.ip m.port ∈ t.outbox)

/-- A run of the bytes of a transfer with which it goes on: `m` of them from `i` on, all as far as the first, of one line at the
addresses that `at'` gives, and not past a multiple of `n` (08 R169, R182; 10 R201). -/
def Sys2Proof.Claims.Run (ws : List Way) (n : Nat) (at' : Nat → Nat) (i m : Nat) : Prop :=
  0 < m ∧ i + m ≤ ws.length ∧ i / n = (i + m - 1) / n ∧ at' i / 128 = (at' i + m - 1) / 128 ∧
    ∀ j < m, (ws.getD (i + j) .left).kind = (ws.getD i .left).kind

/-- A run of bytes still to read. -/
def Sys2Proof.Claims.Unread (ws : List Way) (n : Nat) (at' : Nat → Nat) (i m : Nat) : Prop :=
  Claims.Run ws n at' i m ∧ ws.getD i .left = .left

/-- 08 R169: a tile's matrix engine takes one command at a time, of its slots in turn: the first at or after its pointer whose
head command's stores are performed and operands present; the pointer moves past it. Conventions of the model that it meets: log
70 (DEDUCED). -/
def Sys2Proof.Claims.MatrixTurns : Prop :=
  ∀ (s : State) (p : Place) (g : Group) (c : MatCmd) (rest : List MatCmd), s.group? p = some g → g.mq = c :: rest →
    let slot (k : Nat) : Nat := (ptrAt s.matPtrs (p.die * 64 + p.tile) + k) % 4
    let busy : Prop := ∃ h ∈ s.groups, h.place.die = p.die ∧ h.place.tile = p.tile ∧ ∃ d, h.mq.head? = some d ∧ d.started = true ∧
      d.stop = none
    (busy → exec (.matrixCommandStart p) s = .next s) ∧
    (∀ k < 4, slot k = p.slot → ¬ busy →
      (∀ j < k, ∀ h, s.group? ⟨p.die, p.tile, slot j⟩ = some h → s.matrixReady h = false) →
      c.started = false → s.engineOn g (g.awaitsMatrix c.tag.seq) = true → c.tag.after ≤ g.entered - g.sb.length → c.stop = none →
      (∀ t sc k acc a b bar, c.op = .mma t sc k acc a b bar → g.opndReady a = true ∧ g.opndReady b = true) →
      exec (.matrixCommandStart p) s = .next (State.setGroup
        { s with matPtrs := setPtr s.matPtrs ⟨p.die * 64 + p.tile, (p.slot + 1) % 4⟩ } p fun g =>
          { g with mq := { c with started := true } :: rest })) ∧
    (∀ k < 4, (∃ j < k, ∃ h, s.group? ⟨p.die, p.tile, slot j⟩ = some h ∧ s.matrixReady h = true) → slot k = p.slot →
      exec (.matrixCommandStart p) s = .next s)

/-- Where byte `pos` of an operand of a matrix command lies: in its window, or for gathered rows of `rb` bytes in memory, in the row at
the index that its list gives (08 R167, R168, R175). -/
def Sys2Proof.Claims.opndAt (s : State) (g : Group) (rb : Nat) (x : MOpnd) (pos : Nat) : Nat :=
  match x with
  | .scr _ off => off + pos
  | .ring q t => ((g.q.getD q none).map fun R => R.base % 65536 + t % 2 ^ R.c * R.entry + pos).getD 0
  | .rows base win off => base + ofBytes (s.scrRead g ⟨g.rank, win, off + 4 * (pos / rb)⟩ 4) * rb + pos % rb

/-- `m` bytes of an operand from an address on: of the group's own scratch, or of memory. -/
def Sys2Proof.Claims.opndBytes (s : State) (g : Group) (x : MOpnd) (at' m : Nat) : Except EngineStop (List XByte × State) :=
  match x with
  | .scr win _ => .ok (s.xscr g ⟨g.rank, win, at'⟩ m, s)
  | .ring q _ => .ok (s.xscr g ⟨g.rank, ((g.q.getD q none).map fun R => R.base / 65536).getD 0, at'⟩ m, s)
  | .rows _ _ _ => s.engineRead g at' m

/-- An operand's ring is initialised. -/
def Sys2Proof.Claims.ringThere (g : Group) (x : MOpnd) : Prop := ∀ q t, x = .ring q t → g.q.getD q none ≠ none

/-- The ring entries that an operand leaves consumed (08 R175). -/
def Sys2Proof.Claims.spent (l : List (Option Ring)) : MOpnd → List (Option Ring)
  | .ring q t => updAt l q fun o => o.map fun R => R.consume t
  | _ => l

/-- The element at place `f` of an MST: the FP32 value of the accumulator, zero for a negative one under .relu, rounded to the
output type (08 R172). -/
def Sys2Proof.Claims.mstBits (o : MstOps) (A : Acc) (seed n : Word) (idx f : Nat) : Nat :=
  let t : FTy := match o.ot with
    | .f32 => .f32 | .bf16 => .bf16 | .f16 => .f16 | .e4m3 => .e4m3 | .e5m2 => .e5m2
  let x := fDecode .f32 (ofBytes (A.cells.read (4 * f) 4))
  let y := if o.relu = true ∧ x.isNan = false ∧ (x.isZero = true ∨ x.isNeg = true) then Fv.ofInt 0 else x
  (fRound t ⟨o.rnd, o.sat, if o.rnd = .sr then draw16 seed n (f * 32 + idx) else 0⟩ y).bits

/-- 08 R164, R167 to R169, R171, R172, R175, R186, R187: MZERO retires with the accumulators of its mask zero; an MMA reads its
operands, of scratch, ring entries or rows gathered from memory, in runs of bytes of one line, in any order, and with all of them
adds to every accumulator element the products in chunks, consumes its ring entries and arrives on its barrier; an MST writes the
rows of its accumulator, under its relu, rounding, output type and pitch, to its place in runs of one line, credits the bytes that
it writes the first time, and retires with the last; what a command cannot read or write stops it; a stopped command is reported
once. Conventions of the model that it meets: log 67 (DEDUCED), 70 (DEDUCED), 71 (DEDUCED). -/
def Sys2Proof.Claims.MatrixCommands : Prop :=
  ∀ (s : State) (p : Place) (g : Group) (c : MatCmd) (rest : List MatCmd), s.group? p = some g → g.mq = c :: rest →
    (∀ accs, c.started = true → c.stop = none → c.op = .mzero accs → exec (.matrixCommandRetire p) s =
      .next (((s.setGroup p fun g => { g with
        acc := ((List.range g.acc.length).zip g.acc).map fun x => if accs.testBit x.1 then {} else x.2 }).setGroup p fun g =>
          { g with mq := g.mq.tail }).afterWork p)) ∧
    (∀ t sc k acc a b bar, c.started = true → c.stop = none → c.op = .mma t sc k acc a b bar → (sc = true → k % 32 = 0) →
      Claims.ringThere g a → Claims.ringThere g b →
      let n := Claims.opnd t sc k
      let rb := k * fWidth t / 8
      let ws := c.ways ++ List.replicate (2 * n - c.ways.length) .left
      let part (i : Nat) : MOpnd := if i < n then a else b
      let at' (i : Nat) : Nat := Claims.opndAt s g rb (part i) (i % n)
      let head (u : State) (f : MatCmd → MatCmd) : State := u.setGroup p fun y => { y with mq := f c :: rest }
      c.ways.length ≤ 2 * n → 0 < rb →
      ((∃ j < 2 * n, ws.getD j .left = .left) → ∃ i m, Claims.Unread ws n at' i m ∧
        (∀ base win off, part i = .rows base win off → i % n / rb = (i % n + m - 1) / rb) ∧
        (∀ bs s1, Claims.opndBytes s g (part i) (at' i) m = .ok (bs, s1) → s1.groups = s.groups → exec (.matrixCommandRetire p) s =
          .next (head s1 fun c => { c with
            ways := ws.take i ++ (bs.map fun x => .read x.1 x.2) ++ ws.drop (i + bs.length) })) ∧
        (∀ e, Claims.opndBytes s g (part i) (at' i) m = .error e → e.under ≠ 0 → exec (.matrixCommandRetire p) s =
          .next (head s fun c => { c with stop := some ⟨0x0C5, e.under, e.va, .engineRead, false⟩ }))) ∧
      ((∀ j < 2 * n, ws.getD j .left ≠ .left) →
        let s1 := s.setGroup p fun y => { y with
          acc := updAt y.acc acc fun x => x.mma t sc k ((ws.take n).map Way.xbyte) ((ws.drop n).map Way.xbyte)
          q := Claims.spent (Claims.spent y.q a) b }
        let s2 := bar.elim s1 (Claims.credit g c.tag 0 1 s1)
        exec (.matrixCommandRetire p) s =
          .next (((s2.progress g.ctx).setGroup p fun g => { g with mq := g.mq.tail }).afterWork p))) ∧
    (∀ o scr va bar seed cnt, c.started = true → c.stop = none → c.op = .mst o scr va bar seed cnt →
      let rb := 128 * otBytes o.ot
      let A := g.acc.getD o.acc.toNat {}
      let ws := c.ways ++ List.replicate (128 * rb - c.ways.length) .left
      let marks := c.credited ++ List.replicate (128 * rb - c.credited.length) false
      let from' (i : Nat) : Nat := i / rb * mstPitch o + i % rb
      let dst := (scr.map ScrAt.off).getD va
      let row (i : Nat) : List XByte := ((List.range 128).flatMap fun j =>
        bytesOf (Claims.mstBits o A seed cnt c.tag.idx (128 * i + j)) (otBytes o.ot)).map fun x => (x, A.poisoned)
      c.ways.length ≤ 128 * rb →
      ((∀ j < 128 * rb, ws.getD j .left ≠ .left) → exec (.matrixCommandRetire p) s =
        .next ((s.setGroup p fun g => { g with mq := g.mq.tail }).afterWork p)) ∧
      ((∃ j < 128 * rb, ws.getD j .left = .left) → ∃ i m, Claims.Unread ws rb (fun i => dst + from' i) i m ∧
        (mstPitch o < rb → ∀ j < i / rb * rb, ws.getD j .left ≠ .left) ∧
        let bs := ((row (i / rb)).drop (i % rb)).take m
        let more := putAbout ws (i / rb * rb) (i / rb * rb + rb) i m fun j => dst + from' j
        let fresh := (List.range m).countP fun k => !c.credited.getD (i + k) false
        let goes (s1 : State) : Prop := exec (.matrixCommandRetire p) s = .next
          (let s2 := (s1.progress g.ctx).setGroup p fun y => { y with mq := { c with
              ways := ws.take i ++ (bs.map fun x => .put x.2) ++ ws.drop (i + m)
              credited := marks.take i ++ List.replicate m true ++ marks.drop (i + m) } :: rest }
           if fresh = 0 then s2 else bar.elim s2 (Claims.credit g c.tag (-(fresh : Int)) 0 s2))
        (∀ x, scr = some x → goes (s.xscrWrite g { x with off := x.off + from' i } bs more)) ∧
        (scr = none →
          (s.xblocked none (some p.die) g.ctx (va + from' i) m .engineWrite = true → exec (.matrixCommandRetire p) s = .next s) ∧
          (s.xblocked none (some p.die) g.ctx (va + from' i) m .engineWrite = false →
            (∀ s1, s.xwriteMore (some p.die) g.ctx (va + from' i) bs more .engineWrite = .ok s1 → s1.groups = s.groups → goes s1) ∧
            ∀ x, s.xwriteMore (some p.die) g.ctx (va + from' i) bs more .engineWrite = .error x → x.2 ≠ 0 →
              exec (.matrixCommandRetire p) s = .next (s.setGroup p fun y => { y with mq := { c with
                stop := some ⟨0x0C5, x.2, x.1, .engineWrite, false⟩ } :: rest }))))) ∧
    (∀ x, c.stop = some x → x.told = false → exec (.engineFaultReport p) s = .next
      ((s.setGroup p fun g => { g with mq := g.mq.map fun y => { y with stop := tellStop y.stop } }).tell p c.tag x))

/-- 08 R180 to R182; 10 R201; 11 R226; 21 R380: a piece of a copy goes on with a run of its bytes, of one line of the source to be
read or of one line of a destination to be written, in any order; bytes read stand ready for each destination; a write that would
meet a lease waits; the piece ends with the last byte written, and then credits its bytes on every barrier that the copy names, and
the last piece takes the copy from its queue. Conventions of the model that it meets: log 68 (DEDUCED), 71 (DEDUCED). -/
def Sys2Proof.Claims.CopyPieces : Prop :=
  ∀ (s : State) (p : Place) (g : Group) (id k : Nat) (c : CpyCmd), s.group? p = some g →
    g.cq.find? (fun c => c.id == id) = some c → c.tag.after ≤ g.entered - g.sb.length →
    c.mayDo k = true → (k < c.issued ∨ s.engineOn g (g.awaitsCopy c) = true) →
    let row := (c.piece k).1
    let lo := (c.piece k).2.1
    let n := (c.piece k).2.2
    let ws := c.waysAt k ++ List.replicate (n * c.fan - (c.waysAt k).length) .left
    let issue (y : CpyCmd) : CpyCmd := { y with issued := if y.issued ≤ k then k + 1 else y.issued }
    let going (y : CpyCmd) (l : List Way) : CpyCmd := { issue y with part := (k, l) :: y.part.filter fun z => z.1 != k }
    let others : CpyCmd := { issue c with part := c.part.filter fun y => y.1 != k, done := k :: c.done }
    0 < n → (c.waysAt k).length ≤ n * c.fan → (∃ j < n * c.fan, (ws.getD j .left).isPut = false) → ∃ i m,
      Claims.Run ws n (fun i => if (ws.getD i .left).isLeft then s.pieceSrc g c row (lo + i % n)
        else g.pieceDst c row (lo + i % n)) i m ∧ (ws.getD i .left).isPut = false ∧
      (ws.getD i .left = .left → ∀ bs s1, s.pieceRead g c row (lo + i % n) m = .ok (bs, s1) → bs.length = m → ∃ l,
        (∀ j < n * c.fan, l.getD j .left = if i % n ≤ j % n ∧ j % n < i % n + m then
          .read (bs.getD (j % n - i % n) (0, false)).1 (bs.getD (j % n - i % n) (0, false)).2 else ws.getD j .left) ∧
        exec (.copyPiece p id k) s = .next ((s1.progress g.ctx).setCopy p id fun y => going y l)) ∧
      (ws.getD i .left ≠ .left →
        let bs := ((ws.drop i).take m).map Way.xbyte
        let l := ws.take i ++ (bs.map fun b => .put b.2) ++ ws.drop (i + m)
        (s.pieceBlocked g c row (lo + i % n) m = true → exec (.copyPiece p id k) s = .next s) ∧
        (∀ s1, s.pieceBlocked g c row (lo + i % n) m = false →
          s.pieceWrite g c row (lo + i % n) (i / n) bs (putAbout ws (i / n * n) (i / n * n + n) i m fun j =>
            g.pieceDst c row (lo + j % n)) = .ok s1 →
          (l.all Way.isPut = false → exec (.copyPiece p id k) s = .next ((s1.progress g.ctx).setCopy p id fun y => going y l)) ∧
          (l.all Way.isPut = true →
            let s2 := c.credit.foldl (Claims.credit g c.tag (-(n : Int)) 0) (s1.progress g.ctx)
            (others.first < others.pieces → exec (.copyPiece p id k) s = .next (s2.setCopy p id fun _ => others)) ∧
            (others.first = others.pieces → exec (.copyPiece p id k) s = .next (s2.finishCopy p others)))))

/-- 08 R190; 10 R201: a memory input stream fetches its next element in runs of bytes of one line, in any order, while it has room.
Conventions of the model that it meets: log 66 (DESIGN CHOICE), 67 (DEDUCED). -/
def Sys2Proof.Claims.StreamFetches : Prop :=
  ∀ (s : State) (p : Place) (g : Group) (reg base stride n : Nat) (st : Stream), s.group? p = some g →
    g.s.getD reg none = some st → st.src = .mem base stride n → st.out = false → st.fetched < n →
    st.buf.length < 16 → st.buf.any SElem.isFault = false → s.engineOn g false = true →
    let size := if st.vec then 128 * st.lanes else 8
    let va := base + st.fetched * stride
    let ws := st.part ++ List.replicate (size - st.part.length) .left
    va + size ≤ 2 ^ 56 → st.part.length ≤ size → (∃ j < size, ws.getD j .left = .left) → ∃ i m,
      Claims.Unread ws size (fun i => va + i) i m ∧
      ∀ bs s1, s.xread (some p.die) g.ctx (va + i) m .load = .ok (bs, s1) →
        let l := ws.take i ++ (bs.map fun x => .read x.1 x.2) ++ ws.drop (i + bs.length)
        exec (.streamPrefetch p reg) s = .next (s1.setGroup p fun g => { g with s := g.s.set reg (some
          (if l.any Way.isLeft then { st with part := l }
           else { st with
            part := [], fetched := st.fetched + 1
            buf := st.buf ++ [.data (l.map fun w => w.xbyte.1)
              ((l.findIdx? fun w => w.xbyte.2).map fun i => (va + i) / 64 * 64)] })) })

/-- 03 R79; 08 R167: every accumulator element of an MMA takes the chunked sum of the products of its row of A and its row of B. -/
def Sys2Proof.Claims.MmaElements : Prop :=
  ∀ (A : Acc) (t : FTy) (sc : Bool) (k : Nat) (a b : List XByte) (i j : Nat), i < 128 → j < 128 →
    let at' (m : Cells) : Nat := ofBytes (m.read (4 * (128 * i + j)) 4)
    at' (A.mma t sc k a b).cells = chunksAdd (chunkLen t) k (at' A.cells) ((List.range k).map fun x =>
      (exactMul (mmaElem t sc k (mmaSplit t k a).1 (mmaSplit t k a).2 i x)
        (mmaElem t sc k (mmaSplit t k b).1 (mmaSplit t k b).2 j x)).1) % 2 ^ 32

/-- 08 R164, R167 to R172, R175, R180 to R182, R186, R190; 10 R201: the matrix engine serves its tile's slots in turn, one command at a
time; commands, copies and streams move bytes in runs of one line, in any order. -/
def Obligations.EngineSteps : Prop :=
  Claims.MatrixTurns ∧ Claims.MatrixCommands ∧ Claims.CopyPieces ∧ Claims.StreamFetches ∧ Claims.MmaElements

/-- 10 R211; 14 R272 to R274; 22 R409: a poison error marks its granule; one of an HBM row does nothing at a granule of another
stack, the two of a die lying by turns at 512 bytes; an uncorrectable error in a running group's committed state traps
it with 0x184 at its block's start; a unit counts 1 for a corrected and 4 for an uncorrectable error, one in memory or in a
group's state too, and is retired at 4 within the window of 600 s; counts older than the window go. Conventions of the model that
it meets: log 12 (DESIGN CHOICE), 107 (DESIGN CHOICE). -/
def Obligations.ErrorSteps : Prop :=
  ∀ (s : State),
    (∀ k, k * 64 < 2 ^ 52 → ∃ l, exec (.poisonError ⟨.phys k, none⟩) s = .next { s with poison := l } ∧
      (k ∈ l) ∧ (s.ctxs.flatMap Ctx.migs = [] → ∀ j, j ≠ k → (j ∈ l ↔ j ∈ s.poison))) ∧
    (∀ u k, u.extractLsb' 0 4 = 3 → (u.extractLsb' 16 3).toNat ≠ k * 64 / 2 ^ 37 % 4 * 2 + k * 64 / 512 % 2 →
      exec (.poisonError ⟨.phys k, some u⟩) s = .next s) ∧
    (∀ u k, unitOk u = true → s.liesIn u (.phys k) = true → k * 64 < 2 ^ 52 → ∃ t, exec (.poisonError ⟨.phys k, some u⟩) s = .next t ∧ k ∈ t.poison ∧
      t.hitsOf u = ((s.cycle, 4) :: (s.hitsOf u).filter fun h => s.cycle < h.1 + 2400000000000) ∧ u ∈ t.retired) ∧
    (∀ p g unit, s.group? p = some g → g.phase = .running → g.run = none → s.ctx? g.ctx ≠ none →
      ∃ t g', exec (.uncorrectableGroupState p ⟨true, unit⟩) s = .next t ∧ t.group? p = some g' ∧
        g'.phase = .parked (.rerun g.next) false ∧ g'.cause = 0x3F0184 ∧
        (∀ u, unit = some u → unitOk u = true → u ∈ t.retired)) ∧
    (∀ u bad, unitOk u = true → ∃ t, exec (.correctedError u bad) s = .next t ∧
      (t.hitsOf u = (s.cycle, if bad then 4 else 1) :: (s.hitsOf u).filter fun h => s.cycle < h.1 + 2400000000000) ∧
      (bad = true → u ∈ t.retired) ∧
      (bad = false → s.hitsOf u = [] → t.retired = s.retired)) ∧
    (∀ u, ∃ t, exec (.errorWindowExpiry u) s = .next t ∧ t.retired = s.retired ∧
      t.hitsOf u = (s.hitsOf u).filter fun h => s.cycle < h.1 + 2400000000000)

/-! ## Steps of the dispatcher, the rein engines and pre-emption (95) -/

/-- A task's successor decrement, as a failure where `fail` is a cause: one for each handle of `all`, in order, those of this package
on their way here behind `ds`, the others sent (17 R308, R309, R319). -/
def Sys2Proof.Claims.Decrements (s t : State) (ds : List DecGoing) (r : TaskRec) (fail : Option Nat) (all : List Word) : Prop :=
  let here (h : Word) : Bool := decide ((h.extractLsb' 54 10).toNat = s.pkgNum)
  (∃ l : List DecGoing, t.decs = ds ++ l ∧ l.map (fun d => (d.handle, d.n, d.fail, d.tag)) =
    (all.filter here).map fun h => (h, 1, fail, s.tagOf r.ctx)) ∧
  ∃ ks : List Nat, ks.length = (all.filter fun h => !here h).length ∧ t.outbox =
    s.outbox ++ ((all.filter fun h => !here h).zip ks).map fun x => .decrement x.1 1 fail (s.tagOf r.ctx) x.2 none

/-- 17 R308, R319; 15 R286, R289; 22 R402, R403: a decrement on its way, the oldest on its counter, lowers a task's counter; at
zero a created task becomes ready, or failed where its fail flag is set, with failure decrements of its successors; a failure
decrement sets the flag and copies its cause; the part of one that finds the counter too small for it, or at zero, or no record,
is counted as dropped. A decrement message of a package of the pod that has not been applied before, and with no earlier one of
its sender waiting, does the same, and ends the hold whose place it takes; one of a package outside the pod, and a repeated one,
only wake the device. Conventions of the model that it meets: log 54 (DEDUCED), 102 (DEDUCED), 113 (DESIGN CHOICE), 138 (DEDUCED). -/
def Obligations.DecrementSteps : Prop :=
  ∀ (s : State) (h : Word) (n tag : Nat) (r : TaskRec), s.target h = some r → s.tagOf r.ctx = tag →
    s.rec? r.die r.idx = some r → r.words.length = 32 → 0 < n →
    let dropped (t : State) (k : Nat) : Prop := ∀ x, s.ctxs.find? (fun c => c.tag == tag) = some x →
      (∀ c ∈ s.ctxs, c.slot = x.slot → c = x) → ∃ y, t.ctx? x.slot = some y ∧ y.counters.dropDec = x.counters.dropDec + k
    let applied (i : Instr) (fail : Option Nat) (ds : List DecGoing) : Prop := ∃ t, exec i s = .next t ∧
      (fail = none → r.state = 0 → r.failFlag = false → r.counter ≠ 0 → ∃ q, t.rec? r.die r.idx = some q ∧
        q.counter = r.counter - n ∧ q.state = (if r.counter ≤ n then 1 else 0) ∧ (∀ k < 32, k ≠ 1 → k ≠ 13 → q.w k = r.w k) ∧
        (r.counter < n → dropped t (n - r.counter))) ∧
      (r.counter = 0 → t.recs = s.recs ∧ dropped t n) ∧
      (∀ c, fail = some c → c < 512 → n < r.counter → ∃ q, t.rec? r.die r.idx = some q ∧ q.counter = r.counter - n ∧
        q.state = r.state ∧ q.failFlag = true ∧ q.failCause = c) ∧
      (∀ c, (fail = some c ∨ (fail = none ∧ r.failFlag = true ∧ r.failCause = c)) → c < 512 → r.state = 0 → r.counter ≠ 0 →
        r.counter ≤ n → r.signals ≠ r.gang → r.isMember = false → r.signalled = false → r.w 3 = 0 → s.foreign = [] →
        s.failedPkgs = [] → ∃ q, t.rec? r.die r.idx = some q ∧ q.counter = 0 ∧ q.state = 7 ∧ q.failCause = c ∧
          q.retained = some s.ended ∧ Claims.Decrements s t ds r (some c) r.succs)
    (∀ k d, s.decs.find? (fun d => d.key == k) = some d → d = ⟨k, h, n, d.fail, tag, d.hold⟩ →
      (s.decs.takeWhile fun x => x.key != k).any (fun x => x.handle == h) = false →
      s.decsWait h = false → applied (.decrementApply k) d.fail (s.decs.filter fun x => x.key != k)) ∧
    (∀ pkg seq fail hold, pkg ∈ s.pod → (pkg, seq) ∉ s.applied → (∀ m, .decrementMessage m ∈ s.later → m.pkg ≠ pkg) →
      s.decsWait h = false → let m : DecMsg := ⟨h, n, fail, tag, pkg, seq, hold⟩
      applied (.decrementMessage m) fail s.decs ∧ ∀ t, exec (.decrementMessage m) s = .next t →
        ∀ x, x ∈ t.podHolds ↔ x ∈ s.podHolds ∧ ¬ (x.pkg = pkg ∧ hold = some x.key)) ∧
    (∀ m : DecMsg, m.pkg ∉ s.pod → m.pkg ∉ s.failedPkgs → exec (.decrementMessage m) s =
      .next { s with pstate := if m.pkg = s.pkgNum then s.pstate else .p0 }) ∧
    (∀ m : DecMsg, m.pkg ∈ s.pod → m.pkg ∉ s.failedPkgs → (m.pkg, m.seq) ∈ s.applied →
      exec (.decrementMessage m) s = .next { s with pstate := if m.pkg = s.pkgNum then s.pstate else .p0 })

/-- A tile may take a task's group when it is placed (17 R311, R316). -/
def Sys2Proof.Claims.Places (s s1 : State) (r : TaskRec) (kd : KDesc) (tiles : List Nat) : Prop :=
  s.backBlocked none r.die = false ∧ s.readDesc r.die r.ctx (r.w 0).toNat = .ok (kd, s1) ∧ tiles.length = r.gang ∧
    rising tiles = true ∧ ∀ t ∈ tiles, (s1.setRec r.die r.idx TaskRec.unplaced).tileTakes r.die kd.shape t = true

/-- Entry `k` of a task's overflow list, read at the die that homes it (17 R309). -/
def Sys2Proof.Claims.Entry (s : State) (r : TaskRec) (k : Nat) (h : Word) : Prop :=
  let va := (r.w 2).toNat + 8 * k
  ∃ pa, s.translate r.ctx (va / 16 * 16) .load = .ok pa ∧ s.homeDie pa = some r.die ∧
    BitVec.ofNat 64 (ofBytes (s.mem.read (pa + va % 16) 8)) = h

/-- 15 R290, R295; 17 R308 to R310, R318: a task whose groups have all retired ends, done, or failed where one was killed: it is
retained in its order and counted; what its relays have not signalled it decrements: its inline successors and the entries of its
overflow list, as failures where it failed, though not where every group had signalled (log 54, DEDUCED); an entry that cannot be
read, or that is malformed, ends the list with a record of 0x10C. A member of an instance lowers its Live, and the last ends the
instance: its ranges are freed and its completion handle is decremented. -/
def Sys2Proof.Claims.TaskEnds : Prop :=
  ∀ (s : State) (die idx : Nat) (r : TaskRec), s.rec? die idx = some r → r.words.length = 32 →
    (r.state = 4 ∨ r.state = 5) → r.groupsLeft = 0 → s.decsWait (r.handle s.pkgNum) = false →
    (∀ c, r.anyKilled = some c → c < 512) →
    let fail := if r.signals = r.gang then none else r.anyKilled
    let count := ((r.w 3).extractLsb' 0 13).toNat
    let at' (k : Nat) : Nat := (r.w 2).toNat + 8 * k
    ∃ t q, exec (.taskCompletion die idx) s = .next t ∧ t.rec? die idx = some q ∧
      q.state = (if r.anyKilled = none then 6 else 7) ∧ q.failCause = r.anyKilled.getD 0 ∧ q.retained = some s.ended ∧
      q.tiles = [] ∧ t.ended = s.ended + 1 ∧
      (∀ x, s.ctx? r.ctx = some x → ∃ y, t.ctx? r.ctx = some y ∧
        y.counters.done = x.counters.done + (if r.anyKilled = none then 1 else 0) ∧
        y.counters.failed = x.counters.failed + (if r.anyKilled = none then 0 else 1)) ∧
      (r.isMember = false → s.foreign = [] → s.poison = [] → s.failedPkgs = [] →
        (r.signalled = true → t.decs = s.decs ∧ t.outbox = s.outbox) ∧
        (∀ hs : List Word, r.signalled = false → (r.w 2).toNat % 16 = 0 →
          (∀ k h, hs[k]? = some h → Claims.Entry s r k h ∧ s.handleWf h = true) →
          (hs.length = count → Claims.Decrements s t s.decs r fail (r.succs ++ hs)) ∧
          (∀ under, hs.length < count → under < 512 →
            (s.translate r.ctx (at' hs.length / 16 * 16) .load = .fault under ∨
              (under = 0 ∧ ∃ h, Claims.Entry s r hs.length h ∧ s.handleWf h = false)) →
            Claims.Decrements s t s.decs r fail (r.succs ++ hs) ∧
            ∀ x, s.ctx? r.ctx = some x → ∃ y h, t.ctx? r.ctx = some y ∧ y.held = x.held ++ [h] ∧ h.who = none ∧
              h.words.getD 1 0 = BitVec.ofNat 64 (at' hs.length) ∧ h.words.getD 2 0 = r.handle s.pkgNum ∧
              (h.words.getD 3 0).extractLsb' 0 16 = 0x10C ∧ ((h.words.getD 3 0).extractLsb' 32 9).toNat = under))) ∧
      (∀ x gi f, r.isMember = true → r.signalled = true → s.ctx? r.ctx = some x →
        x.ginsts.find? (fun y => y.tid == r.tid && y.num == r.num && !y.complete) = some gi →
        let first := ((gi.first.extractLsb' 52 2).toNat, (gi.first.extractLsb' 35 17).toNat)
        s.rec? first.1 first.2 = some f → f.words.length = 32 → 1 ≤ f.live → ∃ f' y z,
          t.rec? first.1 first.2 = some f' ∧ f'.live = f.live - 1 ∧ t.ctx? r.ctx = some y ∧ z ∈ y.ginsts ∧
          z = { gi with failed := gi.failed || r.anyKilled.isSome, complete := decide (f.live = 1) } ∧
          y.allocs = (if f.live = 1 then x.allocs.filter fun a => !gi.bufs.any fun b => b.1 == a.1 else x.allocs) ∧
          ((f.live ≠ 1 ∨ gi.done = 0) → t.decs = s.decs) ∧
          (f.live = 1 → gi.done ≠ 0 → (gi.done.extractLsb' 54 10).toNat = s.pkgNum →
            ∃ d, t.decs = s.decs ++ [d] ∧ d.handle = gi.done ∧ d.n = 1 ∧ d.fail = none ∧ d.tag = s.tagOf r.ctx))

/-- 17 R310 to R314; 22 R403: a ready task is placed on tiles that can take it, as prefetching while it has prefetch bindings and
as runnable otherwise, and so is one that has been runnable for 4A; a multicast prefetch waits 256 cycles at most; a prefetch that
lands fills its window; a runnable task whose groups all fit is bound: every group of its gang to its slot, with its rank, its
registers zero, its next block the kernel's entry, and the device is idle no more. Conventions of the model that it meets: log 4
(DESIGN CHOICE), 12 (DESIGN CHOICE), 52 (DESIGN CHOICE), 55 (DESIGN CHOICE), 56 (DEDUCED), 78 (DESIGN CHOICE). -/
def Sys2Proof.Claims.PlacesAndBinds : Prop :=
  ∀ (s : State) (die idx : Nat) (r : TaskRec), s.rec? die idx = some r → r.words.length = 32 → s.ctxLive r.ctx = true →
    (∀ tiles kd s1, Claims.Places s s1 r kd tiles →
      let placed (i : Instr) : Prop := ∃ t q, exec i s = .next t ∧ t.rec? die idx = some q ∧ q.tiles = tiles ∧
        q.state = (if r.prefetches = [] then 3 else 2) ∧ q.counter = r.counter
      s1.rec? die idx = some r → (r.state = 1 → placed (.placement die idx tiles)) ∧
      (r.state = 3 → r.runAt + 524288 ≤ s.cycle → s.cycle < r.readyAt + 1048576 → placed (.runnableTimeout die idx tiles))) ∧
    (∀ b, r.state = 2 → bMulticast (r.binding b).2 = true → b ∉ r.waitMc → r.runAt + 512 ≤ s.cycle →
      exec (.multicastWaitExpiry (.task die idx b)) s =
        .next (s.setRec die idx fun r => { r with waitMc := b :: r.waitMc })) ∧
    (∀ b bs s1, r.state = 2 → b ∈ r.prefetches → b ∉ r.landed → s.decsWait (r.handle s.pkgNum) = false →
      bMulticast (r.binding b).2 = false → s.readRows r.die r.ctx (r.binding b) (bRows (r.binding b).2) = .ok (bs, s1) →
      exec (.prefetchLanded (.task die idx b)) s =
        .next ((s1.setRec r.die r.idx fun x => x.land b bs s.cycle).progress r.ctx)) ∧
    (∀ slots kd s1, r.state = 3 → s.readDesc die r.ctx (r.w 0).toNat = .ok (kd, s1) → rising r.tiles = true →
      slots.length = r.tiles.length → s.framesFor r = true → (∀ x ∈ r.tiles.zip slots, s.slotTakes r kd.shape x.1 x.2 = true) →
      s.outranked r = false → r.outputs = [] → (∀ ws ∈ r.staging, ws.length = kd.shape.windows) →
      ∃ t, exec (.binding die idx slots) s = .next t ∧ t.pstate = .p0 ∧ ∀ k tile slot, r.tiles[k]? = some tile → slots[k]? = some slot →
        ∃ g, t.group? ⟨r.die, tile, slot⟩ = some g ∧ g.ctx = r.ctx ∧ g.rank = k ∧
        g.gang = ((r.tiles.zip slots).map fun x => ⟨r.die, x.1, x.2⟩) ∧ g.next = kd.entry ∧ g.phase = .running ∧ g.run = none ∧ g.shape = kd.shape ∧
        g.x = List.replicate 32 0 ∧ g.v = List.replicate 32 (laneAll 0) ∧ g.p = List.replicate 8 (laneAll false) ∧
        g.k = List.replicate 8 (laneAll 0) ∧ g.acc = List.replicate kd.shape.acc {} ∧ g.link = [] ∧ g.cause = 0 ∧ g.fpflags = 0 ∧
        g.fptrap = 0 ∧ g.seed = 0 ∧ g.count = 0 ∧ g.win = r.staging.getD k [])

/-- 17 R308 to R314, R318; 15 R290, R295: placement, prefetching, binding and the end of a task. -/
def Obligations.PlacementAndBinding : Prop := Claims.PlacesAndBinds ∧ Claims.TaskEnds

/-- The host is notified of what `f` says: the lowest queue bound to the context, once it has an endpoint, sends its next
notification (22 R399). -/
def Sys2Proof.Claims.Notified (s t : State) (c : Nat) (f : List Word → Prop) : Prop :=
  ∀ n q ip port, s.queue? n = some q → q.ctx = some c → (∀ k ∈ s.queues, k.ctx = some c → n ≤ k.num) →
    q.endpoint = some (ip, port) → q.noteWait = [] → s.mayRelease = true →
    ∃ ws, f ws ∧ .notification n (q.notes + 1) c (s.genOf c) ws ip port ∈ t.outbox

/-- 18 R326, R327, R332; 15 R294: a relay hold ends with the successor's state: what the mask keeps stands, of vector and predicate
registers in the successor's lanes, everything else is zero, a ring that names none, a stream unbound, a window what the matching
preparation staged; the trap and floating-point registers stay. -/
def Sys2Proof.Claims.HoldEnds : Prop :=
  ∀ (s : State) (p : Place) (g : Group) (mask : Word) (kd : KDesc) (blk : Word), s.group? p = some g →
    g.phase = .relayHold mask kd blk →
    (s.holdMet g mask = false → exec (.relayHold p) s = .next s) ∧
    (s.holdMet g mask = true → ∃ t g', exec (.relayHold p) s = .next t ∧ t.group? p = some g' ∧ t.mem = s.mem ∧
      g'.next = kd.entry ∧ g'.phase = .running ∧ g'.shape = kd.shape ∧ g'.prep = none ∧ g'.task = g.task ∧ g'.gang = g.gang ∧
      g'.count = g.count ∧ g'.fpflags = g.fpflags ∧ g'.fptrap = g.fptrap ∧ g'.seed = g.seed ∧ g'.sb = g.sb ∧
      (∀ k < 32, g'.x.getD k 0 = if mask.getLsbD (k / 4) then g.x.getD k 0 else 0) ∧
      (∀ k < 32, ∀ l < 8, laneGet (g'.v.getD k (laneAll 0)) l =
        if mask.getLsbD (8 + k / 4) ∧ l < kd.shape.lanes then laneGet (g.v.getD k (laneAll 0)) l else 0) ∧
      (∀ k < 8, ∀ l < 8,
        laneGet (g'.p.getD k (laneAll false)) l = (mask.getLsbD 56 && decide (l < kd.shape.lanes) && laneGet (g.p.getD k (laneAll false)) l) ∧
        laneGet (g'.k.getD k (laneAll 0)) l =
          if mask.getLsbD 56 ∧ l < kd.shape.lanes then laneGet (g.k.getD k (laneAll 0)) l else 0) ∧
      g'.acc.length = kd.shape.acc ∧
      (∀ k < kd.shape.acc, g'.acc.getD k {} = if mask.getLsbD (40 + k) then g.acc.getD k {} else {}) ∧
      g'.win.length = kd.shape.windows ∧
      (∀ k < kd.shape.windows, (mask.getLsbD (16 + k) = true → g'.win.getD k {} = g.win.getD k {}) ∧
        (mask.getLsbD (16 + k) = false → (∀ q, g.prep = some q → ∀ b ∈ q.binds, (b.2.extractLsb' 40 3).toNat ≠ k) →
          g'.win.getD k {} = {}) ∧
        (∀ q b x, mask.getLsbD (16 + k) = false → g.prep = some q → q.binds = [b] → q.staged = [x] →
          (b.2.extractLsb' 40 3).toNat = k → g'.win.getD k {} = x)) ∧
      (∀ k < 8, g'.q.getD k none = if mask.getLsbD (24 + k) then g.q.getD k none else none) ∧
      (∀ k < 8, g'.s.getD k none = if mask.getLsbD (32 + k) then g.s.getD k none else none))

/-- 14 R278, R279; 17 R322, R323: the dispatcher writes the first record it holds to the context's trap queue while it has room,
and the tail rises; a lease on what it would write makes it wait; while records wait in a spell it looks again; a handler group's
record goes to the host, and is still to be written; a context with records and no live handler task gets one from its reserved
record; a context whose groups make no progress for its stall limit is cut, its stall map written, and once it is saved the host
is notified with 0x181. Conventions of the model that it meets: log 12 (DESIGN CHOICE), 73 (DEDUCED), 74 (DEDUCED), 80 (DEDUCED),
82 (DESIGN CHOICE), 131 (DEDUCED). -/
def Sys2Proof.Claims.TrapQueue : Prop :=
  ∀ (s : State),
    (∀ c x h rest, s.ctx? c = some x → x.serves = true → x.slot = c → x.held = h :: rest →
      (s.mayRelease = false ∨ (h.handler = false ∧ s.recordBlocked x = true) → exec (.trapRecordWrite c) s = .next s) ∧
      (s.mayRelease = true → h.handler = true → h.who = none → ∃ t y, exec (.trapRecordWrite c) s = .next t ∧ t.ctx? c = some y ∧
        y.held = { h with handler := false } :: rest ∧ y.tail = x.tail ∧ Claims.Notified s t c fun ws =>
          ∀ k ≠ 7, ws.getD k 0 = h.words.getD k 0)) ∧
    (∀ c x h rest head s1 s2, s.ctx? c = some x → x.serves = true → x.slot = c → x.held = h :: rest → h.handler = false →
      s.mayRelease = true → s.recordBlocked x = false → s.trapHead x = .ok (head, s1) → (x.tail + 2 ^ 64 - head) % 2 ^ 64 < 2 ^ x.tqS → s1.putRecord x h.words = .ok s2 →
      x.handlerDesc ≠ 0 → h.who = none → s2.ctx? c = some x →
      let written (i : Instr) : Prop := ∃ t y, exec i s = .next t ∧ t.ctx? c = some y ∧ y.tail = x.tail + 1 ∧ y.held = rest ∧
        t.mem = s2.mem
      written (.trapRecordWrite c) ∧ (x.spell = true → written (.trapQueueHeadPoll c))) ∧
    (∀ c x idx head s1 kd s2, s.ctx? c = some x → x.slot = c → x.handlerRec = some idx → x.st = .live → x.handlerLive = false →
      x.tail ≠ 0 → x.tail ≠ x.tried → s.trapHead x = .ok (head, s1) → x.tail ≠ head →
      s1.readDesc 0 c x.handlerDesc = .ok (kd, s2) → s2.dieHolds 0 kd.shape = true →
      ∃ t q, exec (.handlerSpawn c) s = .next t ∧ t.rec? 0 idx = some q ∧ q.state = 1 ∧ q.gang = 1 ∧
        q.w 0 = BitVec.ofNat 64 x.handlerDesc) ∧
    (∀ c x, s.ctx? c = some x → x.st = .live → x.stall ≠ 0 → x.stall * 4000 ≤ x.watch → s.workRemains c = true →
      s.timerRuns x = true → s.mapBlocked x = false → (s.writeMap x).1.ctx? c ≠ none →
      (∀ g ∈ (s.writeMap x).1.groups, ∀ va acc k l, g.phase = .touching va acc k l → g.run = none) →
      ∃ t y, exec (.stallWatchdogExpiry c) s = .next t ∧ t.ctx? c = some y ∧ y.st = .cutting ∧ y.cut = .freeze ∧
        t.mem = (s.writeMap x).1.mem ∧ ∀ g ∈ t.groups, g.ctx = c → ∀ r, g.run = some r → g.grace = true) ∧
    (∀ c x, s.ctx? c = some x → x.slot = c → x.st = .cutting → x.cut = .freeze → s.cutSettled c = true → x.waits = [] →
      (∀ i ∈ s.insts, i.ctx = c → i.isLive = false) → (∀ g ∈ s.groups, g.ctx = c → g.holdMask = none) → x.asked = false →
      savedSize (s.ctxGroups c) ≤ x.saveSize → ∃ t, exec (.saveComplete c) s = .next t ∧
        Claims.Notified s t c fun ws => (ws.getD 3 0).extractLsb' 0 16 = 0x181)

/-- 14 R278, R279; 17 R322, R323; 18 R332: the trap queue, handler tasks and the stall watchdog, and the end of a relay hold. -/
def Obligations.TrapQueueAndHold : Prop := Claims.TrapQueue ∧ Claims.HoldEnds

/-- A message of a package of the pod that has not failed wakes the device, unless it is the package's own (22 R403). -/
def Sys2Proof.Claims.hears (s : State) (pkg : Nat) : State := { s with pstate := if pkg = s.pkgNum then s.pstate else .p0 }

/-- The answer to a message goes to its package: on its way here, or to the pod. -/
def Sys2Proof.Claims.answers (s : State) (pkg : Nat) (here : Instr) (away : Out) : State :=
  if pkg = s.pkgNum then { s with agenda := s.agenda ++ [here] } else { s with outbox := s.outbox ++ [away] }

/-- A package that messages come from: this one, or one of the pod that has not failed (17 R319). -/
def Sys2Proof.Claims.Talks (s : State) (pkg : Nat) : Prop := (pkg = s.pkgNum ∨ pkg ∈ s.pod) ∧ pkg ∉ s.failedPkgs

/-- The parity buffer of an instance's number (19 R358). -/
def Sys2Proof.Claims.buffer (p : Prog) (n : Nat) : Nat := (p.words.getD (if n % 2 = 0 then 0 else 2) 0).toNat

/-- 19 R359; 17 R322; 21 R373: an instance without the Stage bit begins; with it, S × 64 KiB are copied first into the staging area of
its buffer, from g8 or on a rerun from the staging area of the other buffer, and the context has made progress; an abort that has
waited for the copy then takes effect. -/
def Sys2Proof.Claims.InstanceBegins (s : State) (i : Inst) (p : Prog) : Prop :=
  let begun (t : State) : State :=
    { t with insts := updFirst (fun y => y.key == i.key) (fun y => { y with began := true, wait := 0 }) t.insts }
  let from' : Option Nat × Nat := if i.rerun then (none, Claims.buffer p (i.n + 1)) else (some i.die, (i.g.getD 8 0).toNat)
  i.began = false →
  (i.doomed = false → (p.words.getD 1 0).getLsbD 56 = false → exec (.instanceStart i.die i.key) s = .next (begun s)) ∧
  ∀ xs s1 s2, (p.words.getD 1 0).getLsbD 56 = true → s.areaBlocked i.die i.ctx (Claims.buffer p i.n) (p.s * 65536) = false →
    s.xread from'.1 i.ctx from'.2 (p.s * 65536) .engineRead = .ok (xs, s1) →
    s1.areaWrite i.die i.ctx (Claims.buffer p i.n) xs = .ok s2 →
    (i.doomed = false → exec (.instanceStart i.die i.key) s = .next (begun (s2.progress i.ctx))) ∧
    (i.doomed = true → s2.insts = s.insts → ∃ t j, exec (.instanceStart i.die i.key) s = .next t ∧ t.inst? i.die i.key = some j ∧
      j.st = .aborted)

/-- 17 R319; 21 R369: what a chunk meets, in the table's order: a package outside the pod is refused; a byte count or an end out of
bounds is answered by a negative acknowledgement; where no context of its job has its collective registered, or no instance of it
has been started, it is refused; of an instance not yet started here it is refused; of one older than the last two, of one that has
left the live set, or verified already, it is acknowledged and nothing is written; any other lands. -/
def Sys2Proof.Claims.ChunkArrives (s : State) (i : Inst) (p : Prog) : Prop :=
  ∀ ch : Chunk,
    let nm : ChunkName := ⟨ch.die, ch.job, ch.id, ch.n, ch.peer, ch.seq, false, s.pkgNum⟩
    let sized (room : Nat) := 16 ≤ ch.bytes.length ∧ ch.bytes.length ≤ 65536 ∧ ch.offset + ch.bytes.length ≤ room
    let refused : Prop := ∃ t, exec (.chunkArrival i.die ch) s = .next t ∧ t.landings = s.landings ∧ t.mem = s.mem ∧
      (ch.pkg ≠ s.pkgNum → ch.pkg ∉ s.failedPkgs → t.outbox = s.outbox ++ [.refused ch.pkg nm])
    let acknowledged : Prop := exec (.chunkArrival i.die ch) s =
      .next (Claims.answers (Claims.hears s ch.pkg) ch.pkg (.chunkAck nm) (.ack ch.pkg nm))
    (ch.pkg ≠ s.pkgNum → ch.pkg ∉ s.pod → refused) ∧
    (Claims.Talks s ch.pkg → s.jobProg i.die ch.job ch.id = none → 16 ≤ ch.bytes.length → ch.bytes.length ≤ 65536 → refused) ∧
    (Claims.Talks s ch.pkg → s.jobProg i.die ch.job ch.id = some p →
      (¬ sized (p.p * 65536) → exec (.chunkArrival i.die ch) s =
        .next (Claims.answers (Claims.hears s ch.pkg) ch.pkg (.chunkNak nm) (.chunkNak ch.pkg nm))) ∧
      (sized (p.p * 65536) → p.next = none → refused) ∧
      ∀ next, sized (p.p * 65536) → p.next = some next → next < 65536 → ch.n < 65536 →
        let d := (next + 65536 - 1 - ch.n) % 65536
        let met := (s.instsOf i.die p.ctx ch.id).find? fun y => y.n == ch.n
        (32768 ≤ d → refused) ∧ (2 ≤ d → d < 32768 → acknowledged) ∧
        (d < 2 → (∀ j, met = some j → j.st ≠ .live) → acknowledged) ∧
        (d < 2 → met = some i → (i.verified.any fun v => v.1 == ch.rank && v.2.1 == ch.seq) = true → acknowledged) ∧
        (d < 2 → met = some i → (i.verified.any fun v => v.1 == ch.rank && v.2.1 == ch.seq) = false →
          exec (.chunkArrival i.die ch) s =
            .next { Claims.hears s ch.pkg with landings := s.landings ++ [⟨s.keys, i.die, i.key, ch⟩], keys := s.keys + 1 }))

/-- 21 R370; 17 R322; 14 R270: an accepted chunk's bytes are written to the landing area of its instance's buffer. One whose tag holds
is marked verified, its bytes are credited to the barrier where RSTART asked for it, and it is acknowledged; one whose tag fails is
answered by a negative acknowledgement, and its bytes stay; one verified meanwhile is acknowledged. A fault stops the instance with
0x148, and the chunk is acknowledged. -/
def Sys2Proof.Claims.ChunkLands (s : State) (i : Inst) (p : Prog) : Prop :=
  ∀ l s1 fault, s.landings.find? (fun y => y.die == i.die && y.key == l.key) = some l → l.inst = i.key →
    let va := Claims.buffer p i.n + p.s * 65536 + l.ch.offset
    s.areaBlocked i.die i.ctx va l.ch.bytes.length = false → s.landBytes i.die i.ctx va (chunkXBytes l.ch) = (s1, fault) →
    let land : Instr := .chunkLand i.die l.key
    let u := { s1 with landings := s1.landings.filter fun y => y.key != l.key }
    let seen := i.verified.any fun v => v.1 == l.ch.rank && v.2.1 == l.ch.seq
    let tag := crc32c (([l.ch.id, l.ch.n, l.ch.rank, l.ch.seq, l.ch.offset, l.ch.bytes.length].flatMap fun v => bytesOf v 4) ++
      l.ch.bytes)
    let nm : ChunkName := ⟨l.ch.die, l.ch.job, l.ch.id, l.ch.n, l.ch.peer, l.ch.seq, false, s1.pkgNum⟩
    let acknowledged (v : State) : Prop := exec land s = .next (Claims.answers v l.ch.pkg (.chunkAck nm) (.ack l.ch.pkg nm))
    let marked : State := { u with insts := updFirst (fun y => y.key == i.key) (fun y => { y with
      verified := y.verified ++ [(l.ch.rank, l.ch.seq, l.ch.offset, l.ch.bytes.length)] }) u.insts }
    (fault = none → seen = true → acknowledged u) ∧
    (fault = none → seen = false → tag ≠ l.ch.crc →
      exec land s = .next (Claims.answers u l.ch.pkg (.chunkNak nm) (.chunkNak l.ch.pkg nm))) ∧
    (fault = none → seen = false → tag = l.ch.crc →
      (i.credit = false → acknowledged (marked.progress i.ctx)) ∧
      (i.credit = true → ∀ g, s1.group? i.who = some g → g.task = i.task → g.ctx = i.ctx →
        acknowledged ((Claims.credit g i.tag (-(l.ch.bytes.length : Int)) 0 marked i.bar).progress i.ctx))) ∧
    (∀ e, fault = some e → e.2 ≠ waitCause → s1.insts = s.insts → ∃ t j, exec land s = .next t ∧ t.mem = s1.mem ∧
      t.inst? i.die i.key = some j ∧ j.st = .stopped ∧ j.verified = i.verified ∧ Claims.Told u t i 0x148)

/-- 17 R319; 19 R349, R351, R359; 21 R369 to R373; 22 R403: an instance begins, after the staging copy of an image with the Stage
bit; a chunk meets the table of R369 and lands under R370; what a package outside the pod sends of answers and aborts is dropped;
an acknowledged chunk or signal is no longer outstanding; a chunk whose tag failed is sent again, and the sixteenth failure
running stops its sender with 0x149; a refused chunk or signal is sent again; an accepted signal raises its sender's count once;
one that comes too soon is refused, and one of an instance that has left the live set is acknowledged; an abort ends a live
instance, after its staging copy where one is under way, and waits where the collective is not loaded. Conventions of the model
that it meets: log 12 (DESIGN CHOICE), 39 (DEDUCED), 57 (DESIGN CHOICE), 58 (DEDUCED), 60 (DEDUCED), 61 (DESIGN CHOICE), 62 (DEDUCED). -/
def Obligations.ReinSteps : Prop :=
  ∀ (s : State) (i : Inst) (p : Prog), s.insts.find? (fun y => y.key == i.key) = some i → s.prog? i.die i.ctx i.id = some p →
    i.st = .live → Claims.InstanceBegins s i p ∧ Claims.ChunkArrives s i p ∧ Claims.ChunkLands s i p ∧
    (∀ nm, nm.pkg ≠ s.pkgNum → nm.pkg ∉ s.pod → nm.pkg ∉ s.failedPkgs →
      exec (.chunkAck nm) s = .next (Claims.hears s nm.pkg) ∧ exec (.chunkNak nm) s = .next (Claims.hears s nm.pkg)) ∧
    (∀ nm o, nm.sig = false → Claims.Talks s nm.pkg → s.sender nm = some i → i.outOf nm = some o →
      let to' := (Claims.rankSpot p o.peer).1
      let sentAgain (t : State) (xs : List XByte) : Prop := ∃ ch d, ch.seq = o.seq ∧ ch.n = i.n ∧ ch.bytes = xs.map Prod.fst ∧
        (.chunkArrival d ch ∈ t.agenda ∨ ∃ k, .chunk k d ch ∈ t.outbox)
      (exec (.chunkAck nm) s = .next { Claims.hears s nm.pkg with insts := updFirst (fun y => y.key == i.key) (fun y =>
        { y with out := y.out.filter fun o => !(o.peer == nm.peer && o.seq == nm.seq) }) s.insts }) ∧
      (15 ≤ o.tries → ∃ t j, exec (.chunkNak nm) s = .next t ∧ t.inst? i.die i.key = some j ∧ j.st = .stopped ∧
        Claims.Told s t i 0x149) ∧
      (∀ xs s1, o.tries < 15 →
        (State.setInst (Claims.hears s nm.pkg) i.key fun i => i.setOut nm fun o => { o with tries := o.tries + 1 }).readChunk p i
          o.src = .ok (xs, s1) → ∃ t j q, exec (.chunkNak nm) s = .next t ∧ sentAgain t xs ∧ t.inst? i.die i.key = some j ∧
            j.st = .live ∧ j.outOf nm = some q ∧ q.tries = o.tries + 1) ∧
      (∀ xs s1, o.refused = true → to' ∉ s.failedPkgs →
        (State.setInst (Claims.hears s to') i.key fun i => i.setOut nm fun o => { o with refused := false }).readChunk p i
          o.src = .ok (xs, s1) → ∃ t, exec (.chunkRetryTimer nm) s = .next t ∧ sentAgain t xs)) ∧
    (∀ nm x, nm.sig = true → Claims.Talks s nm.pkg → s.signals.find? (fun y => signalName y.m y.pkg == nm) = some x →
      exec (.chunkAck nm) s = .next { Claims.hears s nm.pkg with signals := s.signals.filter fun y => signalName y.m y.pkg != nm } ∧
      (x.refused = true → ∃ t, exec (.chunkRetryTimer nm) s = .next t ∧ t.insts = s.insts ∧
        (.signalArrival x.m ∈ t.agenda ∨ .signal x.pkg x.m ∈ t.outbox))) ∧
    (∀ m : SignalMsg, m.die = i.die →
      let nm : ChunkName := ⟨m.src, m.job, m.id, m.n, m.peer, m.seq, true, s.pkgNum⟩
      (m.pkg ≠ s.pkgNum → m.pkg ∉ s.pod → ∃ t, exec (.signalArrival m) s = .next t ∧ t.insts = s.insts) ∧
      (∀ q, Claims.Talks s m.pkg → s.meets m.die m.job m.id m.n = .accepted q i →
        ((m.rank, m.seq) ∉ i.sigSeen → countOf i.sigs m.rank < 65535 → ∃ t j, exec (.signalArrival m) s = .next t ∧
          t.inst? i.die i.key = some j ∧ countOf j.sigs m.rank = countOf i.sigs m.rank + 1 ∧ (m.rank, m.seq) ∈ j.sigSeen) ∧
        ((m.rank, m.seq) ∈ i.sigSeen → exec (.signalArrival m) s =
          .next (Claims.answers (Claims.hears s m.pkg) m.pkg (.chunkAck nm) (.ack m.pkg nm)))) ∧
      (Claims.Talks s m.pkg → s.meets m.die m.job m.id m.n = .dropped → exec (.signalArrival m) s =
        .next (Claims.answers (Claims.hears s m.pkg) m.pkg (.chunkAck nm) (.ack m.pkg nm))) ∧
      (Claims.Talks s m.pkg → s.meets m.die m.job m.id m.n = .refused → exec (.signalArrival m) s = .next
        (if m.pkg = s.pkgNum then
          { s with signals := s.signals.map fun x => if signalName x.m x.pkg = nm then { x with refused := true } else x }
        else { Claims.hears s m.pkg with outbox := s.outbox ++ [.refused m.pkg nm] }))) ∧
    (∀ m : RankMsg, m.pkg ≠ s.pkgNum → m.pkg ∉ s.pod → m.pkg ∉ s.failedPkgs →
      exec (.abortArrival m) s = .next (Claims.hears s m.pkg)) ∧
    (∀ m : RankMsg, m.die = i.die → Claims.Talks s m.pkg →
      (s.jobProg m.die m.job m.id = none → exec (.abortArrival m) s =
        .next { Claims.hears s m.pkg with later := s.later ++ [.abortArrival m] }) ∧
      (s.jobProg m.die m.job m.id = some p → p.die = i.die → p.ctx = i.ctx → p.id = m.id → m.id = i.id → m.n = i.n →
        (s.instsOf i.die i.ctx i.id).find? (fun y => y.n == i.n) = some i → ∃ t j, exec (.abortArrival m) s = .next t ∧
          t.inst? i.die i.key = some j ∧
          if i.began = false ∧ (p.words.getD 1 0).getLsbD 56 = true then j.st = .live ∧ j.doomed = true
          else j.st = .aborted ∧ j.out = []))

/-- 21 R376 to R390: a live context that is pre-empted begins its cut: no block waits any more, those that run have their grace,
and prefetching and runnable tasks are ready again, without tiles; settled, it saves: its relay holds end, it has no bound group,
and its groups stand in the save; a resumed one whose resources are free is bound again at the same places and live; a drained pod
switch goes on to the cut when the sum of the packages is zero, and keeps its place of CD0's rein engines until then; teardown
leaves the slot free with a new generation. Conventions of the model that it meets: log 81 (DESIGN CHOICE), 85 (DEDUCED), 86
(DEDUCED), 87 (DEDUCED), 88 (DEDUCED). -/
def Obligations.PreemptionSteps : Prop :=
  ∀ (s : State) (c : Nat) (x : Ctx), s.ctx? c = some x → x.slot = c →
    (∀ kind st, (∀ g ∈ s.groups, ∀ va acc k l, g.phase = .touching va acc k l → g.run = none) → ∃ y, (s.beginCut c st kind).ctx? c = some y ∧ y.st = st ∧ y.cut = kind ∧
      (∀ g ∈ (s.beginCut c st kind).groups, g.ctx = c → ∀ r, g.run = some r → r.isWaiting = false ∧ g.grace = true) ∧
      (∀ r ∈ (s.beginCut c st kind).recs, r.ctx = c → r.retained = none → r.words.length = 32 → r.state ≠ 2 ∧ r.state ≠ 3) ∧
      (∀ r ∈ s.recs, r.ctx = c → r.retained = none → r.words.length = 32 → (r.state = 2 ∨ r.state = 3) →
        ∃ q ∈ (s.beginCut c st kind).recs, q.die = r.die ∧ q.idx = r.idx ∧ q.state = 1 ∧ q.tiles = [] ∧ q.readyAt = s.cycle)) ∧
    (∀ g m kd b, x.st = .cutting → s.cutSettled c = true → x.waits = [] → (∀ i ∈ s.insts, i.ctx = c → i.isLive = false) →
      x.asked = false → s.ctxGroups c = [g] → s.group? g.place = some g → g.phase = .relayHold m kd b →
      g.s = List.replicate 8 none → g.edges = [] → savedSize [g.scrub m kd] ≤ x.saveSize → ∃ t y,
        exec (.saveComplete c) s = .next t ∧ t.ctx? c = some y ∧ y.st = .saved ∧ y.savedGroups = [(g.scrub m kd).saved]) ∧
    (x.st = .cutting → s.cutSettled c = true → x.waits = [] → (∀ i ∈ s.insts, i.ctx = c → i.isLive = false) → x.asked = false →
      (∀ g ∈ s.groups, g.ctx = c → g.holdMask = none) → savedSize (s.ctxGroups c) ≤ x.saveSize → ∃ t y, exec (.saveComplete c) s = .next t ∧ t.ctx? c = some y ∧ y.st = .saved ∧
        y.savedGroups = (s.ctxGroups c).map Group.saved ∧ ∀ g ∈ t.groups, g.ctx ≠ c) ∧
    (x.st = .resuming → s.imageOk x = true → s.remap.restoreFits x = true → x.asked = false →
      (∀ g ∈ x.savedGroups, g.ctx = c) → (x.savedGroups.map Group.place).Nodup →
      ∃ t y, exec (.restoreComplete c) s = .next t ∧ t.ctx? c = some y ∧ y.st = .live ∧ y.savedGroups = [] ∧
        ∀ g ∈ x.savedGroups, ∃ q, t.group? g.place = some q ∧ q.x = g.x ∧ q.v = g.v ∧ q.win = g.win ∧ q.acc = g.acc ∧
          q.next = g.next ∧ q.phase = g.phase ∧ q.task = g.task) ∧
    (∀ others : List Int, x.st = .draining → s.cutSettled c = true → others.length + 1 = x.podPkgs.length →
      (s.inUse 0 < 32 ∨ x.drain.isSome = true) → x.waits = [] → (∀ i ∈ s.insts, i.ctx = c → i.isLive = false) →
      ∃ t y, exec (.drainReductionRound c others) s = .next t ∧ t.ctx? c = some y ∧
        if (x.sent : Int) - x.applied + others.sum = 0 then y.st = .cutting ∧ y.drain = none
        else y.st = .draining ∧ y.drain.isSome = true) ∧
    (∀ cause t, s.tearDown c cause = some t → c < s.gens.length → x.gen = s.gens.getD c 0 → t.ctx? c = none ∧
      t.gens.getD c 0 = (if (x.gen + 1) % 65536 = 0 then 1 else (x.gen + 1) % 65536) ∧
      (∀ g ∈ t.groups, g.ctx ≠ c) ∧ ∀ r ∈ t.recs, r.ctx ≠ c)

/-! ## Bridle and the device around the tiles (22) -/

/-- The command of a queue that was let go on begins, as a step of the device's own: `s0` is the state with its queue's endpoint
recorded, and its header passes the checks of 22 R393 and R396. -/
def Sys2Proof.Claims.Begins (s : State) (m : BridleMsg) (op : Nat) (s0 : State) : Prop :=
  ((m.h0.extractLsb' 16 8).toNat = op ∧ ∃ q, s.queue? (m.h0.extractLsb' 32 16).toNat = some q ∧ q.go = some m.h1.toNat) ∧
    s.turn = .own ∧ s0 = State.beginCmd { s with pstate := .p0 } m ∧ s0.screen m = none

/-- The step completes its command with a status and result words. -/
def Sys2Proof.Claims.Completes (s : State) (i : Instr) (t : State) (m : BridleMsg) (status : Nat) (words : List Word) : Prop :=
  exec i s = .next (t.finishCmd m status words)

/-- The steps that carry a message, by opcode (22 R393). -/
def Sys2Proof.Claims.carried (m : BridleMsg) : List (Nat × Instr) :=
  [(0x02, .createContext m []), (0x03, .tearDown m), (0x04, .preEmpt m), (0x05, .resume m), (0x06, .podSwitch m),
    (0x07, .registerTemplate m), (0x08, .launch m), (0x09, .signal m), (0x0A, .bridleWrite m), (0x0B, .bridleRead m),
    (0x0C, .status m), (0x0D, .linkQueues m), (0x0E, .map m), (0x0F, .powerTolerance m), (0x10, .loadFirmware m),
    (0x11, .attest m), (0x12, .createTask m), (0x13, .health m), (0x14, .configurePackage m), (0x15, .registerRegion m),
    (0x16, .deregisterRegion m), (0x17, .connectQueuePair m)]

/-- 22 R393, R395, R396: a command whose number is below its queue's next is answered with its stored completion, one above is
dropped, the next is accepted; a completion is sent to its command's source and stored; an unassigned opcode completes with status
5, any command without a session with 6; Hello takes the highest version that both sides hold, of 1 and 2 here, sets queue 0's next
number to 1, without the completions of the session before, and answers with version and features, and where there is none it
completes with status 6 and the package has no session; a gated command at the head of its queue takes a token
of its link; a release command adds a token to each link of its queue, or, where one of them stands at 65,535, adds none and
completes with status 4. Conventions of the model that it meets: log 89 (DEDUCED), 90 (DEDUCED), 91 (DEDUCED). -/
def Obligations.BridleSequencing : Prop :=
  ∀ (s : State) (m : BridleMsg) (q : Queue),
    let n := (m.h0.extractLsb' 32 16).toNat
    let seq := m.h1.toNat
    let op := (m.h0.extractLsb' 16 8).toNat
    s.queue? n = some q →
    (∀ e ∈ Claims.carried m, op = e.1 → q.go ≠ some seq ∨ s.turn ≠ .own →
      (∀ ws, seq < q.next → q.stored.find? (fun x => x.1 == seq) = some (seq, ws) → exec e.2 s =
        .next { s with pstate := .p0, outbox := s.outbox ++ [.completion n m.h1 m.h2 ws m.ip m.port] }) ∧
      (q.next < seq → exec e.2 s = .next { s with pstate := .p0 }) ∧
      (seq = q.next → q.waiting = [] → q.go = none → q.doing = none → m.h0.getLsbD 24 = false → ∃ t q', exec e.2 s = .next t ∧
        t.queue? n = some q' ∧ q'.next = q.next + 1 ∧ q'.go = some seq ∧ t.agenda = s.agenda ++ [e.2])) ∧
    (∀ status res, m.h0.getLsbD 25 = false → ∃ q', (s.close m status res).queue? n = some q' ∧ q'.doing = none ∧
      (seq ∉ q.past → q'.stored.head? = some (seq, BitVec.ofNat 64 (status + op * 256) :: res)) ∧
      (seq ∈ q.past → q'.stored = q.stored) ∧ (s.close m status res).outbox =
        s.outbox ++ [.completion n m.h1 m.h2 (BitVec.ofNat 64 (status + op * 256) :: res) m.ip m.port] ∧
      (s.close m status res).links = s.links) ∧
    (∀ status res, m.h0.getLsbD 25 = true →
      ((∀ l ∈ s.links, l.p = n → l.tokens < 65535) →
        (s.close m status res).links = s.links.map (fun l => if l.p = n then { l with tokens := l.tokens + 1 } else l) ∧
        (s.close m status res).outbox.getLast? =
          some (.completion n m.h1 m.h2 (BitVec.ofNat 64 (status + op * 256) :: res) m.ip m.port)) ∧
      ((∃ l ∈ s.links, l.p = n ∧ 65535 ≤ l.tokens) → (s.close m status res).links = s.links ∧
        (s.close m status res).outbox.getLast? =
          some (.completion n m.h1 m.h2 (BitVec.ofNat 64 (4 + op * 256) :: res) m.ip m.port))) ∧
    (∀ v, op = 0 ∨ 0x17 < op → s.session = some v → q.go = some seq → s.turn = .own →
      Claims.Completes s (.unknownOpcode m) (State.beginCmd { s with pstate := .p0 } m) m 5 []) ∧
    (∀ e ∈ Claims.carried m, op = e.1 → s.session = none → q.go = some seq → s.turn = .own →
      Claims.Completes s e.2 (State.beginCmd { s with pstate := .p0 } m) m 6 []) ∧
    (∀ w0 w1, op = 0x01 → n = 0 → headerOk m = true → m.h0.getLsbD 24 = false → m.payload.getD 0 0 = w0 → m.payload.getD 1 0 = w1 →
      let lo := (w0.extractLsb' 0 16).toNat
      let top := min 2 (w0.extractLsb' 16 16).toNat
      let both : Word := if top = 2 then w1 &&& 0xF else w1 &&& 0xC
      let answers (t : State) (status : Nat) (res : List Word) : Prop := exec (.hello m) s = .next t ∧ t.outbox.getLast? =
        some (.completion 0 m.h1 m.h2 (BitVec.ofNat 64 (status + op * 256) :: res) m.ip m.port)
      (w0.extractLsb' 32 32 = 0 → w1.extractLsb' 4 60 = 0 →
        (lo ≤ top → 1 ≤ top → ∃ t q', answers t 0 [BitVec.ofNat 64 top, both] ∧ t.session = some top ∧ t.features = both ∧
          t.queue? 0 = some q' ∧ q'.next = 1 ∧ q'.stored = []) ∧
        (top < lo ∨ top = 0 → ∃ t, answers t 6 [] ∧ t.session = none)) ∧
      (w0.extractLsb' 32 32 ≠ 0 ∨ w1.extractLsb' 4 60 ≠ 0 → ∃ t, answers t 3 [] ∧ t.session = s.session)) ∧
    (∀ i rest l x, q.waiting = i :: rest → msgOf i = some x → x.h0.getLsbD 24 = true → q.doing = none → q.go = none →
      s.linkOf n = some l → l.tokens ≠ 0 → ∃ t q', exec (.gatedCommandStart n) s = .next t ∧ t.queue? n = some q' ∧
        q'.waiting = rest ∧ q'.go = some x.h1.toNat ∧ t.agenda = s.agenda ++ [i] ∧
        ∃ y, t.linkOf n = some y ∧ y.tokens = l.tokens - 1)

/-- 22 R399; 14 R261, R270: Map of pages of one size. Where none of the range is mapped, each page gets its leaf, with the frames in
order, and the command completes; emptying a range that maps nothing completes at once. A page mapped before is invalidated: its leaf
is the new one, with its pins, or empty, and the command completes only with the invalidations. A range whose pages are being changed
or moved waits. -/
def Sys2Proof.Claims.MapsPages (s : State) (m : BridleMsg) (s0 : State) (x : Ctx) : Prop :=
  let w := fun i => m.payload.getD i 0
  let c := (m.h2.extractLsb' 0 6).toNat
  let bits := ((w 3).extractLsb' 0 8).toNat
  let sz := pgOfCode (bits / 4 % 4)
  let n := ((w 2).extractLsb' 0 32).toNat
  let clear := (w 3).getLsbD 8
  let lo := (w 0).toNat
  let hi := lo + n * pgBytes sz
  let page (k : Nat) : Nat := lo + k * pgBytes sz
  let leaf (k : Nat) : Nat := 2 + bits * 4 + (w 1).toNat + k * pgBytes sz
  let far (va size : Nat) : Prop := hi ≤ va ∨ va + size ≤ lo
  let queue := (m.h0.extractLsb' 32 16).toNat
  let changes (t : State) (va : Nat) (z : PgSize) (e : Word) : Prop :=
    ∃ y, t.ctx? c = some y ∧ (⟨va, pgBytes z, e, some queue⟩ : Inval) ∈ y.invals
  (w 3).extractLsb' 9 55 = 0 → s0.mapBad x lo (w 1).toNat n bits clear = false →
  ((∃ i ∈ x.invals, i.va < hi ∧ lo < i.va + i.size) ∨ (∃ i ∈ x.migs, i.va < hi ∧ lo < i.va + pgBytes i.sz) →
    exec (.map m) s = .next (s0.defer m (.map m))) ∧
  ((∀ i ∈ x.invals, far i.va i.size ∧ i.map ≠ some queue) → (∀ i ∈ x.migs, far i.va (pgBytes i.sz)) →
    (clear = false → x.pagesIn lo hi = [] → Claims.Completes s (.map m) (s0.setCtx c fun x =>
      (List.range n).foldl (fun x k => x.setLeaf (page k) sz (BitVec.ofNat 64 (leaf k))) x) m 0 []) ∧
    (clear = true → x.pagesIn lo hi = [] → Claims.Completes s (.map m) s0 m 0 []) ∧
    (x.pagesIn lo hi ≠ [] → (∀ p ∈ x.pagesIn lo hi, s0.leafOf c p.1 p.2.1 = some p.2.2) →
      (∀ k < n, x.pteAt 1 (page k / 2 ^ 39) ∈ [(0 : Word), 1] ∧ (sz ≠ .g1 → x.pteAt 2 (page k / 2 ^ 30) ∈ [(0 : Word), 1])) →
      ∃ t q, exec (.map m) s = .next t ∧ t.queue? queue = some q ∧ q.doing = some m ∧
        (∀ p ∈ x.pagesIn lo hi, changes t p.1 p.2.1 p.2.2 ∧ (clear = true → t.leafOf c p.1 p.2.1 = none)) ∧
        (clear = false → ∀ k < n,
          (s0.leafOf c (page k) sz = none → t.leafOf c (page k) sz = some (BitVec.ofNat 64 (leaf k))) ∧
          ∀ e, s0.leafOf c (page k) sz = some e →
            t.leafOf c (page k) sz = some (BitVec.ofNat 64 (leaf k + (e.extractLsb' 56 8).toNat * 2 ^ 56)))))

/-- 22 R393, R394, R397, R399; 21 R377, R388, R390; 17 R317; 15 R290: the commands that make, change and end contexts, their
pages, templates, instances and tasks, where nothing refuses them; a signal whose release would meet a lease, a Map or Launch
whose pages are being changed, and a teardown whose work is not done, begin again later. A Map of several pages gives each its leaf, or
empties each, and completes with the invalidations of those that were mapped. Conventions of the model that it meets:
log 44 (DEDUCED), 85 (DEDUCED), 90 (DEDUCED), 92 (DEDUCED), 96 (DEDUCED), 97 (DEDUCED), 98 (DEDUCED), 99 (DEDUCED). -/
def Obligations.ContextCommands : Prop :=
  ∀ (s : State) (m : BridleMsg) (s0 : State),
    let w := fun i => m.payload.getD i 0
    let c := (m.h2.extractLsb' 0 6).toNat
    (∀ frames slot, Claims.Begins s m 0x02 s0 → slot = ((w 0).extractLsb' 0 6).toNat → s0.ctx? slot = none → createBad w = false →
      s0.saveOk (w 10).toNat (w 11).toNat = true → s0.queueTaken ((w 0).extractLsb' 16 8).toNat ((w 0).extractLsb' 24 8).toNat = false →
      w 3 = 0 → w 6 = 0 → w 14 = 0 → ∃ t x, Claims.Completes s (.createContext m frames) t m 0 [BitVec.ofNat 64 (s0.genOf slot)] ∧
        t.ctx? slot = some x ∧ x.st = .live ∧ x.gen = s0.genOf slot ∧ x.tag = ((w 0).extractLsb' 32 32).toNat ∧
        x.weight = ((w 0).extractLsb' 8 8).toNat ∧ x.heapBase = (w 1).toNat ∧ x.heapSize = (w 2).toNat ∧
        x.tqBase = (w 4).toNat ∧ x.saveBase = (w 10).toNat ∧ x.cap = (w 12).toNat ∧
        ∀ k, ((w 0).extractLsb' 16 8).toNat ≤ k → k ≤ ((w 0).extractLsb' 24 8).toNat →
          ∃ y, t.queue? k = some y ∧ y.ctx = some slot ∧ y.next = 1) ∧
    (∀ x, s0.ctx? c = some x →
      (∀ t, Claims.Begins s m 0x03 s0 → s0.tearDown c none = some t → Claims.Completes s (.tearDown m) t m 0 []) ∧
      (Claims.Begins s m 0x03 s0 → s0.tearDown c none = none → exec (.tearDown m) s =
        .next ((s0.stopCtx c).defer m (.tearDown m))) ∧
      (Claims.Begins s m 0x04 s0 → x.st = .live → exec (.preEmpt m) s =
        .next ((s0.setCtx c fun x => { x with asked := true }).beginCut c .cutting .preempt)) ∧
      (Claims.Begins s m 0x05 s0 → x.st = .saved → exec (.resume m) s =
        .next (s0.setCtx c fun x => { x with st := .resuming, asked := true })) ∧
      (Claims.Begins s m 0x06 s0 → x.st = .live → exec (.podSwitch m) s = .next ((s0.setCtx c fun x => { x with
        asked := true, epoch := w 0
        podPkgs := (List.range 1024).filter fun k => (w (k / 64 + 1)).getLsbD (k % 64) }).beginCut c .draining .podSwitch)) ∧
      (Claims.Begins s m 0x0E s0 → Claims.MapsPages s m s0 x)) ∧
    (∀ h bs t s1 s2, Claims.Begins s m 0x07 s0 → (w 0).extractLsb' 12 52 = 0 → (w 1).toNat % 64 = 0 →
      s0.hostRead c (w 1).toNat 8 = ⟨h, none, s1⟩ →
      let w0 : Word := BitVec.ofNat 64 (ofBytes h)
      let k := 8 + 32 * (w0.extractLsb' 0 13).toNat + 2 * (w0.extractLsb' 16 7).toNat
      (w0.extractLsb' 0 13).toNat ≤ 4096 → (w0.extractLsb' 16 7).toNat ≤ 64 → s1.hostRead c (w 1).toNat (8 * k) = ⟨bs, none, s2⟩ →
      s2.parseTemplate ((w 0).extractLsb' 0 12).toNat (bytesWords k bs) = some t →
      Claims.Completes s (.registerTemplate m) (s2.setCtx c fun x => x.register t) m 0 []) ∧
    (∀ p, Claims.Begins s m 0x08 s0 →
      let tid := ((w 0).extractLsb' 0 12).toNat
      s0.planInst c (s0.genOf c) 0 tid (w 1) (w 2) (s0.handleCause (s0.tagOf c)) = .ok p →
      ((p.bufs.any fun b => s0.placeWaits c b.1 b.2) = true → exec (.launch m) s = .next (s0.defer m (.launch m))) ∧
      ((p.bufs.any fun b => s0.placeWaits c b.1 b.2) = false → Claims.Completes s (.launch m) (s0.draw.makeInst c (s0.genOf c) 0 tid p.num p.recs p.bufs (w 2)) m 0
        [p.handle s0.pkgNum (s0.genOf c)])) ∧
    (Claims.Begins s m 0x09 s0 → (w 0).extractLsb' 0 19 = 0 → ((w 0).extractLsb' 54 10).toNat = s0.pkgNum → s0.pkgNum ∈ s0.pod →
      (s0.decsWait (w 0) = false → Claims.Completes s (.signal m)
        (s0.applyDec ⟨0, w 0, ((w 1).extractLsb' 0 16).toNat + 1, none, s0.tagOf c, false⟩) m 0 []) ∧
      (s0.decsWait (w 0) = true → exec (.signal m) s = .next (s0.defer m (.signal m)))) ∧
    (∀ s1 s2, Claims.Begins s m 0x12 s0 →
      let die := ((w 0).extractLsb' 52 2).toNat
      let idx := ((w 0).extractLsb' 35 17).toNat
      let ws := (m.payload.drop 2).take 32
      ((w 0).extractLsb' 54 10).toNat = s0.pkgNum → w 1 = 0 → s0.hostImage c die ws = .ok s1 → s1.takeNamed die idx c = some s2 →
      Claims.Completes s (.createTask m) (s2.createRec die idx (recWords ws c (s0.genOf c) 0 false 0 0) 0) m 0
        [Claims.handle s0.pkgNum die idx (s0.genOf c)])

/-- 22 R393, R395, R398 to R400, R403 to R405, R409; 17 R321: the commands on memory, status, links, the package, firmware,
attestation, regions and queue pairs, where nothing refuses them; a write that would meet a lease or a changing page, and a
deregistration before which an accepted access is to be performed, begin again later. Conventions of the model that it meets: log
85 (DEDUCED), 90 (DEDUCED), 92 (DEDUCED), 94 (DESIGN CHOICE), 95 (DEDUCED), 100 (DEDUCED), 106 (PRESUMED), 108 (DESIGN CHOICE). -/
def Obligations.DeviceCommands : Prop :=
  ∀ (s : State) (m : BridleMsg) (s0 : State),
    let w := fun i => m.payload.getD i 0
    let c := (m.h2.extractLsb' 0 6).toNat
    let n := ((w 1).extractLsb' 0 11).toNat
    (∀ t, Claims.Begins s m 0x0A s0 → 1 ≤ n → n ≤ 1024 → 2 + (n + 7) / 8 ≤ (m.h0.extractLsb' 48 16).toNat →
      s0.xblocked none none c (w 0).toNat n .store = false →
      s0.hostWrite c (w 0).toNat ((wordsBytes (m.payload.drop 2)).take n) = (t, none) →
      Claims.Completes s (.bridleWrite m) t m 0 []) ∧
    (Claims.Begins s m 0x0A s0 → 1 ≤ n → n ≤ 1024 → 2 + (n + 7) / 8 ≤ (m.h0.extractLsb' 48 16).toNat →
      s0.xblocked none none c (w 0).toNat ((wordsBytes (m.payload.drop 2)).take n).length .store = true →
      exec (.bridleWrite m) s = .next (s0.defer m (.bridleWrite m))) ∧
    (∀ bs s1, Claims.Begins s m 0x0B s0 → 1 ≤ n → n ≤ 1024 → s0.hostRead c (w 0).toNat n = ⟨bs, none, s1⟩ → bs.length = n →
      ∃ ws, Claims.Completes s (.bridleRead m) s1 m 0 ws ∧ ws.length = (n + 7) / 8 ∧ (wordsBytes ws).take n = bs) ∧
    (∀ x, Claims.Begins s m 0x0C s0 → s0.ctx? c = some x → ∃ ws, Claims.Completes s (.status m) s0 m 0 ws ∧ ws.length = 8 ∧
      ws.getD 0 0 = BitVec.ofNat 64 x.counters.dropDec ∧ ws.getD 1 0 = BitVec.ofNat 64 x.counters.dropLaunch ∧
      ws.getD 2 0 = BitVec.ofNat 64 x.counters.done ∧ ws.getD 3 0 = BitVec.ofNat 64 x.counters.failed ∧
      ws.getD 4 0 = BitVec.ofNat 64 x.counters.freezes ∧ ws.getD 7 0 = 0) ∧
    (Claims.Begins s m 0x0D s0 →
      let p := ((w 0).extractLsb' 0 8).toNat
      let k := ((w 0).extractLsb' 8 8).toNat
      (w 0).extractLsb' 32 32 = 0 → (∃ q ∈ s0.queues, q.num = p ∧ q.ctx = some c) → (∃ q ∈ s0.queues, q.num = k ∧ q.ctx = some c) →
      s0.linkOf k = none → exec (.linkQueues m) s = .next ((State.finishCmd
        { s0 with links := ⟨p, k, ((w 0).extractLsb' 16 16).toNat⟩ :: s0.links } m 0 []).pump k)) ∧
    (Claims.Begins s m 0x0F s0 →
      Claims.Completes s (.powerTolerance m) { s0 with tolerance := ((w 0).extractLsb' 0 32).toNat } m 0 []) ∧
    (Claims.Begins s m 0x10 s0 → s0.ctxs = [] → 1 ≤ n → n ≤ 1024 → 2 + (n + 7) / 8 ≤ (m.h0.extractLsb' 48 16).toNat →
      ((w 0).extractLsb' 0 32).toNat = s0.fwNext → (w 0).getLsbD 32 = false → Claims.Completes s (.loadFirmware m) { s0 with
        fwPieces := s0.fwPieces ++ (wordsBytes (m.payload.drop 2)).take n, fwNext := s0.fwNext + n } m 0 []) ∧
    (Claims.Begins s m 0x11 s0 → ∃ ws, Claims.Completes s (.attest m) s0 m 0 ws ∧
      ((w 4).getLsbD 0 = true → ws = bytesWords 164 Config.identityKey) ∧ ((w 4).getLsbD 0 = false → ws.length = 327 ∧
        ws.take 6 = [w 0, w 1, w 2, w 3, BitVec.ofNat 64 s0.pkgNum, BitVec.ofNat 64 (s0.fwRunning.version % 2 ^ 32)])) ∧
    (Claims.Begins s m 0x13 s0 → unitOk (w 0) = true → Claims.Completes s (.health m) s0 m 0
      [BitVec.ofNat 64 (s0.errCount (w 0)), if w 0 ∈ s0.retired then 1 else 0]) ∧
    (Claims.Begins s m 0x14 s0 →
      let pod := (List.range 1024).filter fun k => (w (k / 64 + 1)).getLsbD (k % 64)
      s0.ctxs = [] → (w 0).extractLsb' 10 54 = 0 → ((w 0).extractLsb' 0 10).toNat ∈ pod → ∃ t,
        Claims.Completes s (.configurePackage m) t m 0 [] ∧ t.pkgNum = ((w 0).extractLsb' 0 10).toNat ∧ t.pod = pod) ∧
    (Claims.Begins s m 0x15 s0 → (w 0).toNat % 65536 = 0 → (w 1).toNat % 65536 = 0 → 0 < (w 1).toNat → (w 1).toNat ≤ 2 ^ 40 →
      (w 2).extractLsb' 2 62 = 0 → s0.regions.length < 4096 → ∃ t key, Claims.Completes s (.registerRegion m) t m 0
        [BitVec.ofNat 64 key] ∧ (∀ r ∈ s0.regions, r.key ≠ key) ∧
        t.regions = ⟨key, c, (w 0).toNat, (w 1).toNat, (w 2).getLsbD 0, (w 2).getLsbD 1⟩ :: s0.regions) ∧
    (∀ r, Claims.Begins s m 0x16 s0 → r ∈ s0.regions → r.key = ((w 0).extractLsb' 0 32).toNat → r.ctx = c →
      ((∀ e ∈ s0.agenda ++ s0.later, ∀ qp va bs, e ≠ .rdmaWrite qp r.key va bs) →
        Claims.Completes s (.deregisterRegion m) { s0 with regions := s0.regions.filter fun x => x.key != r.key } m 0 []) ∧
      ((∃ qp va bs, .rdmaWrite qp r.key va bs ∈ s0.agenda ++ s0.later) →
        exec (.deregisterRegion m) s = .next (s0.defer m (.deregisterRegion m)))) ∧
    (Claims.Begins s m 0x17 s0 → (w 3).extractLsb' 30 34 = 0 → 1 ≤ ((w 3).extractLsb' 24 3).toNat →
      ((w 3).extractLsb' 24 3).toNat ≤ 5 → s0.qps.length < 256 → ∃ t q, Claims.Completes s (.connectQueuePair m) t m 0
        [BitVec.ofNat 64 q.num, BitVec.ofNat 64 q.localPsn] ∧ t.qps = q :: s0.qps ∧ q.ctx = c ∧ (∀ x ∈ s0.qps, x.num ≠ q.num) ∧
        q.remote = ((w 0).extractLsb' 0 24).toNat ∧ q.gidLo = w 1 ∧ q.gidHi = w 2 ∧ q.mtu = ((w 3).extractLsb' 24 3).toNat)

/-- What a UALink atomic writes for an old pattern: 0 to 7 are ADD, MIN, MAX, AND, OR, XOR, SWAP and CAS, which writes only where the
old pattern is the one it compares with (22 R401; 12 R241). The numbers are the model's (log 101, DEDUCED). -/
def Sys2Proof.Claims.remoteAmo (op : Nat) (t : ITy) (v cmp : Word) (old : BitVec (Claims.width t)) : Option (BitVec (Claims.width t)) :=
  let x := Claims.pat t v
  match op with
  | 0 => some (old + x)
  | 1 => some (if Claims.bval t old ≤ Claims.bval t x then old else x)
  | 2 => some (if Claims.bval t old ≤ Claims.bval t x then x else old)
  | 3 => some (old &&& x)
  | 4 => some (old ||| x)
  | 5 => some (old ^^^ x)
  | 6 => some x
  | _ => if old = Claims.pat t cmp then some x else none

/-- 22 R391, R398, R400 to R403, R406, R411: RoCEv2 accesses within their region are performed at the home and answered, others
refused and their queue pair destroyed; UALink reads, masked writes and AMOs of this package's memory are performed at the home,
and the frames that another package maps are known; a heartbeat goes to every port in use; a failed package is remembered until
its spare is heard, to which what waited then goes, with what this package mirrors of it; what a buddy mirrors, or hands over, is
kept, until it is freed, and a rebuilt package has the failed one's number; an idle device goes to the deepest state its tolerance
allows and any work wakes it; the management registers take and read as their table says; a package reset keeps only the retired
units and the stored firmware. Conventions of the model that it meets: log 12 (DESIGN CHOICE), 100 (DEDUCED), 101 (DEDUCED), 102
(DEDUCED), 104 (DESIGN CHOICE), 105 (DESIGN CHOICE), 112 (DESIGN CHOICE). -/
def Obligations.DeviceSteps : Prop :=
  ∀ (s : State),
    let s' : State := { s with pstate := .p0 }
    (∀ q qp key va bs t, s.qps.find? (fun y => y.num == qp) = some q →
      (s.rdmaOk q key va.toNat bs.length true = true → s'.xblocked none none q.ctx va.toNat bs.length .store = false →
        s'.hostWrite q.ctx va.toNat bs = (t, none) →
        exec (.rdmaWrite qp key va bs) s = .next { t with outbox := t.outbox ++ [.writeAck qp] }) ∧
      (s.rdmaOk q key va.toNat bs.length true = false → exec (.rdmaWrite qp key va bs) s = .next { s' with
        outbox := s.outbox ++ [.nak qp .remoteAccessError], qps := s.qps.filter fun y => y.num != qp }) ∧
      (∀ n, s.rdmaOk q key va.toNat n false = true → s'.hostRead q.ctx va.toNat n = ⟨bs, none, t⟩ →
        exec (.rdmaRead qp key va n) s = .next { t with outbox := t.outbox ++ [.readReply qp bs] }) ∧
      (∀ n, s.rdmaOk q key va.toNat n false = false → exec (.rdmaRead qp key va n) s = .next { s' with
        outbox := s.outbox ++ [.nak qp .remoteAccessError], qps := s.qps.filter fun y => y.num != qp }) ∧
      exec (.remoteInvalidRequest qp) s = .next { s' with outbox := s.outbox ++ [.nak qp .remoteInvalidRequest] }) ∧
    (∀ pkg a, pkg ∈ s.pod → let h := s.heard pkg
      (∀ n, 16 ≤ n → n ≤ 256 → s.remoteOk a n = true → s.poison = [] → ∃ bs, bs = s.mem.read a n ∧
        exec (.ualinkRemoteAccess pkg a (.read n)) s =
          .next { h.export pkg a n with outbox := h.outbox ++ [.ualinkReply pkg bs []] }) ∧
      (∀ bs : List (Option Byte), 16 ≤ bs.length → bs.length ≤ 256 → s.remoteOk a bs.length = true → Memory.wf s.mem = true →
        s.ctxs.flatMap Ctx.migs = [] → (∀ k < bs.length, bs.getD k none ≠ none → s.leaseHit none none (a + k) 1 = false) →
        ∃ t : State, exec (.ualinkRemoteAccess pkg a (.write bs)) s = .next { t with outbox := t.outbox ++ [.ualinkReply pkg [] []] } ∧
          t = { h.export pkg a bs.length with mem := t.mem, poison := t.poison, wrote := t.wrote } ∧
          (∀ k < bs.length, t.mem.get (a + k) = (bs.getD k none).getD (s.mem.get (a + k))) ∧
          (∀ x, (x < a ∨ a + bs.length ≤ x) → t.mem.get x = s.mem.get x) ∧
          ∀ f, f ∈ t.exports ↔ f ∈ s.exports ∨ (f.1 = pkg ∧ a / 65536 ≤ f.2 ∧ f.2 ≤ (a + bs.length - 1) / 65536)) ∧
      (∀ n, 0 < n → a % 65536 = 0 → s.remoteOk a (n * 65536) = true →
        (∃ l, exec (.ualinkRemoteAccess pkg a (.maps n true)) s = .next { h with exports := l } ∧
          ∀ f, f ∈ l ↔ f ∈ s.exports ∨ (f.1 = pkg ∧ a / 65536 ≤ f.2 ∧ f.2 < a / 65536 + n)) ∧
        ∃ l, exec (.ualinkRemoteAccess pkg a (.maps n false)) s = .next { h with exports := l } ∧
          ∀ f, f ∈ l ↔ f ∈ s.exports ∧ ¬ (f.1 = pkg ∧ a / 65536 ≤ f.2 ∧ f.2 < a / 65536 + n)) ∧
      (∀ op ty v cmp, op < 8 →
        let b := Claims.width ty / 8
        let old : BitVec (Claims.width ty) := BitVec.ofNat _ (ofBytes (s.mem.read a b))
        let u := h.export pkg a b
        let reply (t : State) (bad : List Nat) : Prop :=
          exec (.ualinkRemoteAccess pkg a (.amo op ty v cmp)) s = .next { t with outbox := t.outbox ++ [.ualinkReply pkg (s.mem.read a b) bad] }
        a % b = 0 → s.remoteOk a b = true → (∀ k < b, s.leaseHit none none (a + k) 1 = false) →
        (a / 64 ∉ s.poison → reply (match Claims.remoteAmo op ty v cmp old with
          | some x => u.homeWrite a (bytesOf x.toNat b)
          | none => u) []) ∧
        (a / 64 ∈ s.poison → reply u (List.range b)))) ∧
    (∀ pkg a op, pkg ∉ s.pod → exec (.ualinkRemoteAccess pkg a op) s = .next (s.heard pkg)) ∧
    (∃ ps : List Nat, exec .heartbeat s = .next { s with outbox := s.outbox ++ ps.map Out.heartbeat } ∧
      ∀ k, k ∈ ps ↔ k < 16 ∧ BitVec.ofNat 64 (5 + k * 2 ^ 16) ∉ s.retired) ∧
    (∀ k, k ∈ s.pod → k ∉ s.failedPkgs → ∃ l, exec (.packageFailed k) s =
        .next { s with failedPkgs := k :: s.failedPkgs, stalled := s.stalled ++ l } ∧ (∀ x ∈ l, x.1 = k) ∧
      (∀ die idx ws, (k, die, idx, ws) ∈ s.mirrored.records → (k, .mirrorHand k (.record k die idx ws)) ∈ l) ∧
      (∀ from' seq, (k, from', seq) ∈ s.mirrored.applied → (k, .mirrorHand k (.applied k from' seq)) ∈ l) ∧
      ∀ a b, (k, (a, b)) ∈ s.mirrored.writes → (k, .mirrorHand k (.write k a [b])) ∈ l) ∧
    (∀ k, k ∈ s.failedPkgs → k ≠ s.pkgNum → let t := s.heard k
      t.failedPkgs = s.failedPkgs.filter (fun j => j != k) ∧ t.pstate = .p0 ∧ t.stalled = s.stalled.filter (fun x => x.1 != k) ∧
        t.outbox = s.outbox ++ (s.stalled.filter fun x => x.1 == k).map Prod.snd) ∧
    (∀ k, k ∈ s.pod → ∃ t, exec (.recoveryRebuild k) s = .next t ∧ t.pkgNum = k ∧ k ∉ t.failedPkgs) ∧
    (∀ k die idx ws src, ∀ m ∈ ([.record k die idx ws, .handed src (.record k die idx ws)] : List Mirror),
      ∃ t, exec (.recoveryMirror m) s = .next t ∧ t.mem = s.mem ∧ t.recs = s.recs ∧
        t.mirrored.records.find? (fun r => r.1 == k && r.2.1 == die && r.2.2.1 == idx) =
          if ws = [] then none else some (k, die, idx, ws)) ∧
    (s.groups = [] → (∀ i ∈ s.insts, i.isLive = false) → (∀ q ∈ s.queues, q.waiting = [] ∧ q.go = none ∧ q.doing = none) →
      exec .idleEntry s = .next { s with pstate := if 2000 ≤ s.tolerance then .p3 else if 50 ≤ s.tolerance then .p2
        else if 1 ≤ s.tolerance then .p1 else .p0 }) ∧
    exec .wake s = .next s' ∧
    (∀ v, exec (.errorSelect v) s = .next { s with errSelect := v } ∧
      (300 ≤ v.toNat → v.toNat ≤ 2700 → exec (.powerLimit v) s = .next { s with powerLimit := v.toNat }) ∧
      (v.toNat < 300 → exec (.powerLimit v) s = .next { s with powerLimit := 300 }) ∧
      (2700 < v.toNat → exec (.powerLimit v) s = .next { s with powerLimit := 2700 }) ∧
      ∀ off, exec (.readOnlyRegisterWrite off v) s = .next s) ∧
    (s.mgmtReg 0x08 = some s.pkgNum ∧ s.mgmtReg 0x20 = none ∧ s.mgmtReg 0x38 = none ∧ s.mgmtReg 0x40 = none ∧
      (s.cycle = 0 → s.pstate = .p0 → s.mgmtReg 0x10 = some 0) ∧ (s.cycle = 0 → s.mgmtReg 0x18 = some 0) ∧
      (unitOk s.errSelect = true → s.mgmtReg 0x28 = some (s.errCount s.errSelect)) ∧ ∃ w, s.mgmtReg 0x30 = some w ∧
        (∀ d < 4, w.testBit d = s.retired.any fun u => decide (u.extractLsb' 0 4 = 0 ∧ (u.extractLsb' 8 2).toNat = d)) ∧
        ∀ k < 16, w.testBit (4 + k) = decide (BitVec.ofNat 64 (5 + k * 2 ^ 16) ∈ s.retired)) ∧
    (∃ t, exec .reset s = .next t ∧ t.ctxs = [] ∧ t.groups = [] ∧ t.recs = [] ∧ t.progs = [] ∧ t.insts = [] ∧ t.session = none ∧
      t.links = [] ∧ t.regions = [] ∧ t.qps = [] ∧ t.pkgNum = 0 ∧ t.pod = [0] ∧ t.errs = [] ∧ t.retired = s.retired ∧
      t.fwRunning = s.fwStored ∧ t.gens = List.replicate 64 1 ∧ t.powerLimit = 2700)

/-! ## Frames: what a firing and a commit leave unchanged -/

/-- What a firing may do to the dies' foreign copies (10 R206, R207; 11 R222; 14 R272): a copy stands as it was, or is one of the
die in turn, where it is written back, and then clean or gone, its written bytes at their home; a copy that comes new is clean and
has its home's bytes. -/
def Sys2Proof.Claims.CopiesStand (s t : State) : Prop :=
  let own (d : Nat) : Prop := ∃ p, (s.turn = .group p ∨ s.turn = .ahead p) ∧ p.die = d
  (∀ f ∈ t.foreign, f ∈ s.foreign ∨ (own f.die ∧ f.dirty = 0 ∧ ((∃ h ∈ s.foreign, f = { h with dirty := 0 }) ∨
    (s.far (f.line * 128) = false → ∀ k < 128, f.bytes.getD k 0 = t.mem.get (f.line * 128 + k))))) ∧
  (∀ h ∈ s.foreign, h ∈ t.foreign ∨ (own h.die ∧
    ((s.foreign.map fun f => (f.die, f.line)).Nodup → s.ctxs.flatMap Ctx.migs = [] → Memory.wf s.mem = true →
      h.bytes.length = 128 → s.far (h.line * 128) = false →
      ∀ k < 128, h.dirty.getLsbD k = true → t.mem.get (h.line * 128 + k) = h.bytes.getD k 0)))

/-- Frame of every tile instruction (07 R145, R150, R151): an instruction that settles changes the block in turn and nothing else
of any group: no register, accumulator, window, link, status or system register, no other group, no context, task, page table or
queue; messages may leave for another package's memory, and steps that waited may be tried again. A byte of memory or a granule's
poison changes at most where a foreign line of the package was dirty there: the write-back of a wide acquire; foreign copies stand,
or are written back, or come new. Conventions of the model that it
meets: log 72 (DEDUCED), 110 (DEDUCED), 112 (DESIGN CHOICE), 116 (DEDUCED). -/
def Obligations.FiringFrame : Prop :=
  ∀ (s t : State) (i : Instr), i.isTile = true → exec i s = .next t →
    t = { s with
      groups := t.groups, agenda := t.agenda, later := t.later, fresh := t.fresh, foreign := t.foreign, mem := t.mem
      wrote := t.wrote, outbox := t.outbox, poison := t.poison } ∧
    (t.groups.map fun g => { g with run := none, ahead := none }) = (s.groups.map fun g => { g with run := none, ahead := none }) ∧
    (∀ p, s.turn ≠ .group p → s.turn ≠ .ahead p → t.group? p = s.group? p) ∧
    (∀ p g, s.group? p = some g → (s.turn = .group p → (t.group? p).map Group.ahead = some g.ahead) ∧
      (s.turn = .ahead p → (t.group? p).map Group.run = some g.run)) ∧
    (∃ l, t.outbox = s.outbox ++ l) ∧
    ((t.agenda = s.agenda ∧ t.later = s.later) ∨ (t.agenda = s.later ++ s.agenda ∧ t.later = [])) ∧
    (∀ q, (q ∈ t.poison ↔ q ∈ s.poison) ∨ ∃ f ∈ s.foreign, f.dirty ≠ 0 ∧ ∃ k, k / 2 = f.line ∧
      (q = k ∨ ∃ a, s.migTarget (k * 64) = some a ∧ q = a / 64)) ∧
    Claims.CopiesStand s t ∧
    (∀ a, t.mem.get a ≠ s.mem.get a → ∃ f ∈ s.foreign, ∃ k < 128, f.dirty.getLsbD k = true ∧
      (f.line * 128 + k = a ∨ s.migTarget (f.line * 128 + k) = some a))

/-- No instruction of a block holds a WRITE of a register. -/
def Sys2Proof.Claims.Unwritten (r : BlockRun) (reg : WReg) : Prop := ∀ n ∈ r.nodes, ∀ w, n.wr = some w → w.reg ≠ reg

/-- A fired instruction of a block holds a WRITE, the only one of its register. -/
def Sys2Proof.Claims.Writes (r : BlockRun) (reg : WReg) (tok : Token) : Prop :=
  ∃ n ∈ r.nodes, n.st = .fired ∧ n.wr = some ⟨reg, tok⟩ ∧ ∀ m ∈ r.nodes, ∀ u, m.wr = some u → u.reg = reg → u = ⟨reg, tok⟩

/-- A register after a WRITE of a token: its non-void active lanes take the token's (04 R89). -/
def Sys2Proof.Claims.Takes {α : Type} (lanes : Nat) (new old : Lanes α) (tok : Lanes (Option α)) : Prop :=
  ∀ l < 8, laneGet new l = match laneGet tok l with
    | some x => if l < lanes then x else laneGet old l
    | none => laneGet old l

/-- 04 R89; 07 R150, R151; 03 R70 to R72; 12 R253: a block's completion changes no register but those that a fired WRITE or SWR
names, whichever way it ends. Where it commits, a WRITE's register has the token's value in its non-void active lanes, x0 stays,
SWR's register has its value without the reserved bits, and the flags raised are added to sr.fpflags. -/
def Obligations.CommitRegisters : Prop :=
  ∀ (s t : State) (p : Place) (g g' : Group) (r : BlockRun), s.group? p = some g → g.phase = .running → g.run = some r →
    exec (.blockComplete p) s = .next t → t.group? p = some g' →
    (∀ k, Claims.Unwritten r (.x k) → g'.x.getD k.toNat 0 = g.x.getD k.toNat 0) ∧
    (∀ k, Claims.Unwritten r (.v k) → g'.v.getD k.toNat (laneAll 0) = g.v.getD k.toNat (laneAll 0)) ∧
    (∀ k, Claims.Unwritten r (.p k) → g'.p.getD k.toNat (laneAll false) = g.p.getD k.toNat (laneAll false)) ∧
    (∀ k, Claims.Unwritten r (.k k) → g'.k.getD k.toNat (laneAll 0) = g.k.getD k.toNat (laneAll 0)) ∧
    g'.x.getD 0 0 = g.x.getD 0 0 ∧ g'.acc = g.acc ∧ g'.task = g.task ∧ g'.shape = g.shape ∧ g'.gang = g.gang ∧
    ((∀ n ∈ r.nodes, ∀ v, n.eff ≠ .swr .seed v) → g'.seed = g.seed) ∧
    ((∀ n ∈ r.nodes, ∀ v, n.eff ≠ .swr .fptrap v) → g'.fptrap = g.fptrap) ∧
    ((∀ rs b, g'.phase ≠ .parked rs b) → g'.cause = g.cause ∧ g'.faultva = g.faultva) ∧
    (g'.count = g.count ∨ g'.count = g.count + 1) ∧
    (g'.count = g.count + 1 →
      (∀ k v, Claims.Writes r (.x k) (.s v) → k ≠ 0 → k.toNat < g.x.length → g'.x.getD k.toNat 0 = v) ∧
      (∀ k x, Claims.Writes r (.v k) (.v x) → k.toNat < g.v.length →
        Claims.Takes g.shape.lanes (g'.v.getD k.toNat (laneAll 0)) (g.v.getD k.toNat (laneAll 0)) x) ∧
      (∀ k x, Claims.Writes r (.p k) (.p x) → k.toNat < g.p.length →
        Claims.Takes g.shape.lanes (g'.p.getD k.toNat (laneAll false)) (g.p.getD k.toNat (laneAll false)) x) ∧
      (∀ k x, Claims.Writes r (.k k) (.k x) → k.toNat < g.k.length →
        Claims.Takes g.shape.lanes (g'.k.getD k.toNat (laneAll 0)) (g.k.getD k.toNat (laneAll 0)) x) ∧
      (∀ reg v, (∃ n ∈ r.nodes, n.st = .fired ∧ n.lsid < 32 ∧ n.eff = .swr reg v) →
        (∀ m ∈ r.nodes, ∀ u, m.eff = .swr reg u → u = v) →
        (reg = .seed → g'.seed = v) ∧ (reg = .fptrap → g'.fptrap = v &&& 3) ∧
        (reg = .fpflags → ∀ b < 5, g'.fpflags.getLsbD b = (v.getLsbD b ||
          r.nodes.any fun n => decide (n.st = .fired) && [n.fl.nv, n.fl.dz, n.fl.of, n.fl.uf, n.fl.nx].getD b false))) ∧
      ((∀ n ∈ r.nodes, ∀ v, n.eff ≠ .swr .fpflags v) → ∀ b < 5, g'.fpflags.getLsbD b = (g.fpflags.getLsbD b ||
        r.nodes.any fun n => decide (n.st = .fired) && [n.fl.nv, n.fl.dz, n.fl.of, n.fl.uf, n.fl.nx].getD b false)))

/-- Effects that touch no memory when their block commits; `scr` admits those that write the group's own scratch. -/
def Sys2Proof.Claims.noMemory (scr : Bool) : Effect → Bool
  | .none | .swr _ _ | .stores _ _ | .matrix _ | .copy _ | .qinit _ _ | .qpop _ _ => true
  | .scratch _ | .qpush _ _ _ _ => scr
  | _ => false

/-- Exits that touch no memory. -/
def Sys2Proof.Claims.plain : Exit → Bool
  | .br _ | .call _ _ | .ret | .trap _ _ => true
  | _ => false

/-- 11 R226; 12 R241: a block whose one effect is an AMO writes its new value at its commit, at the die for a scope of .die, else at
the home, after the die's write-backs, all of them for a release, else those of its own lines (10 R206); without a new value, and
without a release, it writes nothing. -/
def Sys2Proof.Claims.AmoCommits : Prop :=
  ∀ (s t : State) (p : Place) (g g' : Group) (r : BlockRun) (a b : List Node) (n : Node) (va pa : Nat) (old : List Byte)
    (new : Option (List Byte)) (sc : Scope) (rel : Bool), s.group? p = some g → g.phase = .running → g.run = some r →
    exec (.blockComplete p) s = .next t → t.group? p = some g' → g'.count = g.count + 1 → r.nodes = a ++ n :: b →
    n.st = .fired → n.lsid < 32 → (∀ m ∈ a ++ b, m.eff = .none) → (∀ m ∈ r.nodes, ∀ e, m.exit = some e → Claims.plain e = true) →
    n.eff = .amo va pa old new sc rel → g.sb = [] → s.ctxs.flatMap Ctx.migs = [] → Memory.wf s.mem = true →
    (∀ f ∈ s.foreign, f.bytes.length = 128) →
    let home := sc = .pkg ∨ sc = .pod ∨ sc = .sys
    (new = none → (¬ home ∨ rel = false) → t.mem = s.mem ∧ t.foreign = s.foreign) ∧
    (∀ bs, new = some bs → (∀ k < bs.length, s.far (pa + k) = false) →
      (¬ home → (∀ k < bs.length, t.dieByte p.die (pa + k) = bs.getD k 0) ∧
        ∀ die x, s.far x = false → (x < pa ∨ pa + bs.length ≤ x) → t.dieByte die x = s.dieByte die x) ∧
      (home → (∀ k < bs.length, t.mem.get (pa + k) = bs.getD k 0 ∧ t.dieByte p.die (pa + k) = bs.getD k 0) ∧
        ∀ x, (x < pa ∨ pa + bs.length ≤ x) → t.mem.get x = s.mem.get x ∨
          ∃ f ∈ s.foreign, f.die = p.die ∧ f.line = x / 128 ∧ f.dirty.getLsbD (x % 128) = true ∧
            (rel = true ∨ ∃ k < bs.length, f.line = (pa + k) / 128)))

/-- 07 R150; 11 R218, R220, R226; 08 R193; 12 R241: a commit of a block whose effects are of registers, buffered stores, own
scratch, rings, matrix commands and copies (own scratch and rings while no FENCE.rel stands), and whose exit is no END and no
relay, writes no byte of memory: its global stores enter the group's buffer in order, and a store to own scratch changes its bytes
alone; an AMO's new value is written at its commit. The store at the head of the buffer, performed, changes its bytes at its die
and no other byte of memory that any die reads. A store after FENCE.rel is a release of the fence's scope, and of its own where it
is one of a wider scope than .die (11 R222); an STS to own scratch and a QPUSH are among them: they are performed with the group's
buffer empty, and after a fence of a wider scope than .die with its die's foreign lines written back. Conventions of the model
that it meets: log 14 (DESIGN CHOICE), 33 (DEDUCED), 109 (DEDUCED), 112 (DESIGN CHOICE), 114 (DESIGN CHOICE), 130 (DEDUCED). -/
def Obligations.CommitMemory : Prop := Claims.AmoCommits ∧
  ∀ (s t : State) (p : Place) (g : Group), s.group? p = some g →
    (∀ g' r scr, g.phase = .running → g.run = some r → exec (.blockComplete p) s = .next t → t.group? p = some g' →
      (scr = true → g.relFence = none) → (∀ n ∈ r.nodes, Claims.noMemory scr n.eff = true ∧ ∀ e, n.exit = some e → Claims.plain e = true) →
      (t.mem = s.mem ∧ t.poison = s.poison ∧ t.foreign = s.foreign ∧ (scr = false → g'.win = g.win)) ∧
      (∀ a n b, r.nodes = a ++ n :: b → n.st = .fired → n.lsid < 32 → g'.count = g.count + 1 →
        (∀ m ∈ a ++ b, m.eff = .none) →
        (∀ l rel, n.eff = .stores l rel → g'.sb = g.sb ++ l.map fun q =>
          ⟨.phys q.pa, q.bytes, q.va, match rel, g.relFence with
            | some x, some y => if y = .pkg ∨ y = .pod ∨ y = .sys then some y else some x
            | some x, none => some x
            | none, y => y⟩) ∧
        (∀ at' bs, n.eff = .scratch [(at', bs)] → at'.rank = g.rank → g.member g.rank = p →
          (∀ w o, (w ≠ at'.win ∨ o < at'.off ∨ at'.off + bs.length ≤ o) →
            (g'.window w).cells.get o = (g.window w).cells.get o) ∧
          (at'.win < g.win.length → Memory.wf (g.window at'.win).cells = true → ∀ k < bs.length,
            (g'.window at'.win).cells.get (at'.off + k) = bs.getD k 0)))) ∧
    (∀ g' r a n b y, g.phase = .running → g.run = some r → exec (.blockComplete p) s = .next t → t.group? p = some g' →
      g'.count = g.count + 1 → r.nodes = a ++ n :: b → n.st = .fired → n.lsid < 32 → (∀ m ∈ a ++ b, m.eff = .none) →
      (∀ m ∈ r.nodes, ∀ e, m.exit = some e → Claims.plain e = true) → g.relFence = some y →
      ((∃ at' bs, n.eff = .scratch [(at', bs)] ∧ at'.rank = g.rank) ∨ ∃ q k at' bs, n.eff = .qpush q k at' bs) →
      g'.sb = [] ∧ ((y = .pkg ∨ y = .pod ∨ y = .sys) → ∀ f ∈ t.foreign, f.die = p.die → f.dirty = 0)) ∧
    (∀ x rest pa, g.sb = x :: rest → x.dest = .phys pa → x.rel = none → g.phase = .running →
      s.leaseMeets (some p) p.die (s.point p.die pa false) pa x.bytes.length = false → s.ctxs.flatMap Ctx.migs = [] →
      (∀ k < x.bytes.length, s.far (pa + k) = false) → g.sigAt = none → Memory.wf s.mem = true → (∀ f ∈ s.foreign, f.bytes.length = 128) → exec (.storePerform p) s = .next t →
      (∀ k < x.bytes.length, t.dieByte p.die (pa + k) = x.bytes.getD k 0) ∧
      (∀ die a, (a < pa ∨ pa + x.bytes.length ≤ a) → t.dieByte die a = s.dieByte die a) ∧
      (∀ a, (a < pa ∨ pa + x.bytes.length ≤ a) → t.mem.get a = s.mem.get a) ∧
      (∃ g', t.group? p = some g' ∧ g'.sb = rest ∧ g'.x = g.x ∧ g'.v = g.v ∧ g'.win = g.win ∧ g'.acc = g.acc))

/-! ## Traps and the return from them -/

/-- Exit kind, resume address and pending cause of a trap (14 R277). -/
def Sys2Proof.Claims.leaving : Resume → Nat × Word × Nat
  | .rerun a => (0, a, 0)
  | .goOn a => (1, a, 0)
  | .pend (.br a) _ _ => (1, a, 0)
  | .pend (.call a _) _ _ => (2, a, 0)
  | .pend .ret _ _ => (3, 0, 0)
  | .pend .endg _ _ => (4, 0, 0)
  | .pend (.relay sig _ _ _) _ _ => (if sig then 6 else 5, 0, 0)
  | .pend (.trap n a) _ _ => (7, a, 0x1C0 + n)
  | .hold _ kd _ => (1, kd.entry, 0)
  | .ended => (0, 0, 0)

/-- 14 R276, R277; 12 R254; 04 R106; 03 R73: a group that traps is parked with sr.cause and sr.faultva written and nothing else of
it changed, memory unchanged, and its record held for its context's queue: block, address for a class 2 or 3 cause, task, cause
word field by field, resume address, count, generation and handler bit. TRAP n parks its group with 0x1C0 + n, to continue at
its C(A); a block that raised NV under its enable commits and parks with 0x040, its exit pending, also where reports of its engines
wait (log 39, DEDUCED). What runs after the trap is a
first run (11 R227). Conventions of the model that it meets: log 25 (DEDUCED), 39 (DEDUCED), 73 (DEDUCED), 137 (DEDUCED). -/
def Obligations.TrapEntry : Prop :=
  (∀ (s : State) (p : Place) (g : Group) (x : Ctx) (tr : Trap) (rs : Resume), s.group? p = some g → s.ctx? g.ctx = some x →
    tr.cause < 512 → tr.idx < 64 → tr.under < 512 → (∀ j, tr.lsid = some j → j < 32) → (Claims.leaving rs).2.2 < 512 →
    let t := s.takeTrap p tr rs
    let far := tr.cause / 64 = 2 ∨ tr.cause / 64 = 3
    let addr : Word := if far then BitVec.ofNat 64 tr.va else 0
    t.mem = s.mem ∧ t.poison = s.poison ∧ t.foreign = s.foreign ∧
    t.group? p = some { g with
      phase := .parked rs false, run := none, ahead := none, grace := false, fails := 0
      cause := BitVec.ofNat 64 (tr.cause + tr.idx * 2 ^ 16), faultva := addr } ∧
    (∀ q, q ≠ p → t.group? q = s.group? q) ∧
    ∃ y ws, t.ctx? g.ctx = some y ∧ y.held = x.held ++ [⟨ws, some p, g.handler⟩] ∧ ws.length = 8 ∧
      ws.getD 0 0 = tr.blk ∧ ws.getD 1 0 = addr ∧ ws.getD 2 0 = g.task ∧ ws.getD 5 0 = (Claims.leaving rs).2.1 ∧
      ws.getD 6 0 = g.count ∧
      (let cw := ws.getD 3 0
      (cw.extractLsb' 0 9).toNat = tr.cause ∧ (cw.extractLsb' 16 6).toNat = tr.idx ∧
      (cw.extractLsb' 24 5).toNat = tr.lsid.getD 0 ∧ cw.getLsbD 29 = tr.lsid.isSome ∧
      (cw.extractLsb' 32 9).toNat = (if tr.under ≠ 0 then tr.under else (Claims.leaving rs).2.2) ∧
      (cw.extractLsb' 48 3).toNat = (match tr.acc with
        | .none => 0 | .load => 1 | .store => 2 | .atomic => 3 | .fetch => 4 | .engineRead => 5 | .engineWrite => 6
        | .pageCommand => 7) ∧
      cw.getLsbD 51 = decide (rs = .ended) ∧ (cw.extractLsb' 52 4).toNat = (Claims.leaving rs).1 ∧
      cw.extractLsb' 9 7 = 0 ∧ cw.extractLsb' 22 2 = 0 ∧ cw.extractLsb' 30 2 = 0 ∧ cw.extractLsb' 41 7 = 0 ∧
      cw.extractLsb' 56 8 = 0) ∧
      (s.genOf g.ctx < 65536 → (ws.getD 7 0).extractLsb' 0 16 = BitVec.ofNat 16 (s.genOf g.ctx) ∧
        (ws.getD 7 0).getLsbD 32 = g.handler)) ∧
  (∀ (s : State) (p : Place) (g : Group) (r : BlockRun) (idx : Nat) (e : Exit), s.group? p = some g → g.phase = .running →
    g.run = some r → s.ctx? g.ctx ≠ none → (∀ n ∈ r.nodes, n.resolved = true ∧ n.dropped = false ∧ n.eff = .none) →
    ((List.range r.nodes.length).zip r.nodes).filterMap (fun x => x.2.exit.map fun e => (x.1, e)) = [(idx, e)] →
    (∀ n next, e = .trap n next → g.reports = [] → g.fptrap = 0 → ∃ t g', exec (.blockComplete p) s = .next t ∧
      t.group? p = some g' ∧ g'.phase = .parked (.goOn next) false ∧
      g'.cause = BitVec.ofNat 64 (0x1C0 + n + idx * 2 ^ 16) ∧ g'.faultva = 0 ∧ g'.count = g.count + 1 ∧ g'.run = none) ∧
    (∀ (j : Nat) (n : Node) dst, e = .br dst → g.fptrap.getLsbD 0 = true → r.nodes[j]? = some n → n.st = .fired → n.fl.nv = true →
      (∀ k < j, ∀ m, r.nodes[k]? = some m → m.st = .fired → m.fl.nv = false) → ∃ t g', exec (.blockComplete p) s = .next t ∧
      t.group? p = some g' ∧ g'.phase = .parked (.pend e r.addr idx) false ∧
      g'.cause = BitVec.ofNat 64 (0x040 + j * 2 ^ 16) ∧ g'.count = g.count + 1 ∧ g'.fpflags.getLsbD 0 = true))

/-- 14 R280; 03 R73; 15 R297: a block that commits a GRESUME resumes the parked group by its record's exit kind: kind 0 and 1 run
on at the block's start or the resume address with no register changed; a pending exit is then performed: BR goes on at its
target, RET pops the link stack, a pending TRAP parks the group with its own cause. Conventions of the model that it meets: log 39
(DEDUCED), 40 (DEDUCED). -/
def Obligations.TrapReturn : Prop :=
  (∀ g : Group, ∀ rs, g.phase = .parked rs true →
    (∀ a, rs = .rerun a ∨ rs = .goOn a → g.resume.phase = .running ∧ g.resume.next = a) ∧
    (∀ e blk idx, rs = .pend e blk idx → g.resume.phase = .exiting e blk idx) ∧
    (∀ m kd blk, rs = .hold m kd blk → g.resume.phase = .relayHold m kd blk) ∧
    (rs = .ended → g.resume.phase = .ended) ∧
    g.resume.x = g.x ∧ g.resume.v = g.v ∧ g.resume.p = g.p ∧ g.resume.k = g.k ∧ g.resume.acc = g.acc ∧ g.resume.win = g.win ∧
    g.resume.q = g.q ∧ g.resume.link = g.link ∧ g.resume.cause = g.cause ∧ g.resume.faultva = g.faultva ∧
    g.resume.fpflags = g.fpflags ∧ g.resume.fptrap = g.fptrap ∧ g.resume.seed = g.seed ∧ g.resume.count = g.count ∧
    g.resume.task = g.task) ∧
  (∀ (s : State) (p : Place) (g : Group), s.group? p = some g →
    (∀ (a b : List Node) (n : Node) (r : BlockRun) (hd : Word) (rank : Nat) (h : Group) (dst back : Word), g.phase = .running →
      g.run = some r → s.ctx? g.ctx ≠ none → g.sb = [] → g.reports = [] → g.fptrap = 0 → r.nodes = a ++ n :: b →
      (∀ m ∈ r.nodes, m.resolved = true ∧ m.dropped = false) → (∀ m ∈ a ++ b, m.eff = .none) → n.st = .fired → n.lsid < 32 →
      n.eff = .gresume hd rank false → r.nodes.filterMap Node.exit = [.br dst] → h.place ≠ p → s.group? h.place = some h →
      s.groups.find? (fun y => y.task == hd && y.rank == rank) = some h → (∀ x, s.ctx? h.ctx = some x → x.st = .live) →
      (h.phase = .parked (.rerun back) true ∨ h.phase = .parked (.goOn back) true) →
      ∃ t g' h', exec (.blockComplete p) s = .next t ∧ t.group? p = some g' ∧ g'.next = dst ∧ g'.count = g.count + 1 ∧
        t.group? h.place = some h' ∧ h'.phase = .running ∧ h'.next = back ∧ h'.x = h.x ∧ h'.v = h.v ∧ h'.link = h.link ∧
        h'.count = h.count) ∧
    (∀ e blk idx, g.phase = .exiting e blk idx → g.reports = [] →
      (∀ dst, e = .br dst → exec (.blockComplete p) s =
        .next ((s.setGroup p fun g => { g with next := dst, phase := .running }).endTurn p)) ∧
      (∀ a rest, e = .ret → g.link = a :: rest → exec (.blockComplete p) s =
        .next ((s.setGroup p fun g => { g with next := a, link := rest, phase := .running }).endTurn p)) ∧
      (∀ n next, e = .trap n next → s.ctx? g.ctx ≠ none → ∃ t g', exec (.blockComplete p) s = .next t ∧ t.group? p = some g' ∧
        g'.phase = .parked (.goOn next) false ∧ g'.cause = BitVec.ofNat 64 (0x1C0 + n + idx * 2 ^ 16) ∧ g'.x = g.x)))

/-! ## Steps -/

/-- What the end of a step does: the turn ends, the next draw stands ready, mirror messages leave; nothing else. -/
def Sys2Proof.Claims.Ends (t u : State) : Prop :=
  u = { t with fresh := t.fresh + 1, turn := .idle, wrote := [], outbox := u.outbox } ∧ ∀ o ∈ t.outbox, o ∈ u.outbox

/-- 07 R154, R155: a tile's grant goes to a slot that has a fireable instruction of a unit free in the cycle, the first such at or
after the pointer, which moves to the next slot; within the slot to the lowest index of its older block that the unit can take. -/
def Sys2Proof.Claims.GrantsInTurn (s : State) : Prop :=
  ∀ die tile m, s.tileGrant die tile = some m → ∃ (g : Group) (slot u k i : Nat) (ahead : Bool) (r : BlockRun) (n : Node),
    g ∈ s.groups ∧ g.place = ⟨die, tile, slot⟩ ∧ slot < 4 ∧ k < 4 ∧ slot = (ptrAt s.pointers (die * 64 + tile) + k) % 4 ∧
    m.grant = some ⟨die * 64 + tile, (slot + 1) % 4⟩ ∧ (if ahead then g.ahead else g.run) = some r ∧ r.nodes[i]? = some n ∧
    m.ins = n.ins ∧ unitOf n.ins = u ∧ n.fireable = true ∧
    (ahead = false → ∀ j < i, ∀ q, r.nodes[j]? = some q → q.fireable = true → unitOf q.ins ≠ u) ∧
    (ahead = true → ∀ b, g.run = some b → ∀ q ∈ b.nodes, q.fireable = true → unitOf q.ins ≠ u) ∧
    ∀ j < k, ∀ h, s.groups.find? (fun h => h.place.die == die && h.place.tile == tile &&
      h.place.slot == (ptrAt s.pointers (die * 64 + tile) + j) % 4) = some h → ∀ x ∈ s.eligible h, x.2.2 ≠ u

/-- A step runs the decoded instruction (07 R145, R154 to R156; 19 R345; 95): the head of the agenda first; else the group in turn
settles the lowest instruction of its block that may fire, its node current, or ends the block; else the instance in turn performs
the Rein word at its index, which it reads from the image (19 R358); else one of the moves that can be made, a tile's grant in
rotation among them; and cycles pass only when no tile, engine or group has a move left in the cycle. A word that decodes, placed,
is what the next step runs. After that the turn ends. Conventions of the model that it meets: log 1 (DESIGN CHOICE), 3 (DESIGN
CHOICE), 4 (DESIGN CHOICE), 10 (DESIGN CHOICE), 13 (DESIGN CHOICE), 116 (DEDUCED), 129 (DEDUCED), 141 (DESIGN CHOICE). -/
def Obligations.StepRuns : Prop :=
  (∀ (s : State) (e : Instr) (rest : List Instr), s.agenda = e :: rest →
    step s = ticked s id (exec e { s with agenda := rest, turn := .own })) ∧
  (∀ (s : State) (p : Place) (g : Group) (r : BlockRun), s.agenda = [] → s.turn = .group p → s.group? p = some g →
    g.place = p → g.phase = .running → g.run = some r → g.grace = false →
    (∀ k n, r.nodes[k]? = some n → n.fireable = true → (∀ j < k, ∀ q, r.nodes[j]? = some q → q.fireable = false) →
      step s = ticked s id (exec n.ins { s.setRun p fun r => { r with cur := k } with turn := .group p })) ∧
    (r.nodes.any Node.fireable = false → r.nodes.all Node.resolved = true → g.ahead = none →
      step s = ticked s id (exec (.blockComplete p) s))) ∧
  (∀ (s : State) (die k : Nat) (i : Inst) (pr : Prog) (e : Instr), s.agenda = [] → s.turn = .inst die k →
    s.inst? die k = some i → s.prog? i.die i.ctx i.id = some pr → i.st = .live → i.began = true →
    let x := s.imageWord pr i.idx
    decodeRein x.1 = .ok e → ∃ f : State → State, (∀ t, t = { f t with
      granted := t.granted, pointers := t.pointers, reinPtrs := t.reinPtrs }) ∧
      step s = ticked s f (exec e { x.2 with turn := .inst die k })) ∧
  (∀ (s t : State) (pr : Prog) (k a : Nat) (bs : List XByte), pr.img = some a → k < pr.words.length - 4 →
    s.xread (some pr.die) pr.ctx (a + 32 + 8 * k) 8 .engineRead = .ok (bs, t) → (∀ b ∈ bs, b.2 = false) →
    let w : Word := BitVec.ofNat 64 (ofBytes (bs.map Prod.fst))
    reinWordCause (pr.words.length - 4) k w = none → s.imageWord pr k = (w, t)) ∧
  (∀ (s : State), s.agenda = [] → s.inTurn = none →
    (∃ m, (m ∈ s.pressing ∨ ∃ e ∈ s.events, m = ⟨e, s, none⟩) ∧ (∃ t, exec m.ins m.st = .next t) ∧
      step s = ticked s m.after (exec m.ins m.st)) ∨
    (s.pressing = [] ∧ step s = ticked s id (.next s.pass) ∧ s.cycle < s.pass.cycle ∧ s.pass.groups = s.groups ∧
      s.pass.granted = [] ∧ s.pass.agenda = s.agenda ++ s.later)) ∧
  (∀ s : State, Claims.GrantsInTurn s) ∧
  (∀ (s : State) (w : Word) (i : Instr), decode w = .ok i → ∃ s2 g r n, s2.turnNode = some (g, r, n) ∧ n.ins = i ∧ n.word = w ∧
    n.st = .pending ∧ n.ready = true ∧ r.nodes = [n] ∧ s2.mem = s.mem ∧
    step (s.withFetchWord 64 w.toNat) = ticked (s.withFetchWord 64 w.toNat) id (exec i s2)) ∧
  (∀ (s : State) (w : Word) (c : Nat) (i : Instr), decode w = .error c → decodeRein w = .ok i →
    ∃ s2 x pr f, s2.turnInst = some (x, pr) ∧ pr.words.getD (4 + x.idx) 0 = w ∧ s2.mem = s.mem ∧
      step (s.withFetchWord 64 w.toNat) = ticked (s.withFetchWord 64 w.toNat) f (exec i s2)) ∧
  (∀ s t : State, ∃ u, ticked s id (.next t) = .next u ∧ Claims.Ends t u)

/-- What every run keeps, and what makes a step answer: agenda and waiting messages hold steps of agents other than tile cores and
rein engines, and the blocks that run, also those run ahead and those of saved groups, hold tile instructions. -/
def Sys2Proof.Claims.Sound (s : State) : Prop :=
  (∀ e ∈ s.agenda ++ s.later, e.isTile = false ∧ e.isRein = false) ∧
  (∀ g ∈ s.groups ++ s.ctxs.flatMap Ctx.savedGroups, ∀ r, (g.run = some r ∨ g.ahead = some r) → ∀ n ∈ r.nodes, n.ins.isTile = true)

/-- A step answers a next state, never a fault and never a refusal, from every state whose agenda holds steps of agents and whose
blocks hold tile instructions. Conventions of the model that it meets: log 2 (DESIGN CHOICE), 110 (DEDUCED). -/
def Obligations.StepAnswers : Prop := ∀ s : State, Claims.Sound s → Safe s

/-- That form is kept by every step, so a run from it never stops. Conventions of the model that it meets: log 2 (DESIGN CHOICE),
110 (DEDUCED). -/
def Obligations.SoundnessStays : Prop := ∀ s t : State, Claims.Sound s → step s = .next t → Claims.Sound t

/-! ## Encodings -/

/-- 02, 04, 05, 08, 12, 15, 19, 20: words that the manual writes out, and what they stand for. -/
def Obligations.DecodeWords : Prop :=
  let c (g : Guard) (a b : Tgt) : Ctl := ⟨g, a, b⟩
  (∀ x ∈ ([
    (0x0058_0207_0100_0000, .read (c .off (.to .l 2) (.to .l 7)) .s64 (.x 1)),
    (0x1018_23FF_0000_0000, .add (c .off (.to .r 3) .off) .s64 (.p false)),
    (0x1158_0203_0000_0001, .sub (c .off (.to .l 2) (.to .l 3)) .s64 (.i 1)),
    (0x3158_6465_0000_0000, .cmp (c .off (.to .g 4) (.to .g 5)) .ne .s64 (.i 0)),
    (0x0445_FFFF_0000_0000, .bri (c (.any true) .off .off) 0),
    (0x0442_FFFF_0000_0007, .bri (c (.all false) .off .off) 7),
    (0x4148_06FF_0000_0021, .vadd (c .off (.to .l 6) .off) (.f .f32) .s ⟨.rz, false, .keep⟩),
    (0x6620_05FF_0000_0488, .vcvt (c .off (.to .l 5) .off) (.f .e4m3) (.f .f32) ⟨.rne, true, .none⟩),
    (0x8018_FFFF_1300_4400, .mma (c .off .off .off) .bf16 ⟨2, false, some 0, some 1, 0, 1⟩),
    (0xB005_18FF_3800_0007, .alloc (c (.any true) (.to .l 24) .off) 7 .home 7),
    (0xA6B8_FFFF_3300_0400, .amoAdd (c .off .off .off) .n64 .rel ⟨6, .pkg, 1024⟩),
    (0x0940_FFFF_0000_0000, .relaySig (c .off .off .off) 0),
    (0x0B40_FFFF_0C00_0007, .rstart (c .off .off .off) 1 true false false 7)] : List (Word × Instr)),
    decode x.1 = .ok x.2) ∧
  (∀ x ∈ ([
    (0x0D00_0000_0000_0001, .reinMovi 4 1),
    (0x6950_0100_0000_0000, .peer 5 4 .xor),
    (0x605D_8100_0000_0000, .setchunk 1 7 6 1),
    (0x8014_4000_0000_0000, .send 0 5 1),
    (0x88C0_8900_0000_0000, .reduce 3 0 2 .sum (.f .f32)),
    (0xA000_0000_0000_0000, .done)] : List (Word × Instr)), decodeRein x.1 = .ok x.2)

/-- 02 R34 to R48: every well-formed tile instruction has a word that decodes to it, with every operand at every value it admits;
a word that decodes stands for a well-formed tile instruction, of which it is the word: no two words share a meaning. -/
def Obligations.TileEncoding : Prop :=
  (∀ i : Instr, i.wf = true → i.isTile = true → ∃ w, encode i = some w ∧ decode w = .ok i) ∧
  (∀ (w : Word) (i : Instr), decode w = .ok i → i.wf = true ∧ i.isTile = true ∧ encode i = some w)

/-- 19 R342, R343: the same of the Rein instructions and their words. -/
def Obligations.ReinEncoding : Prop :=
  (∀ i : Instr, i.wf = true → i.isRein = true → ∃ w, encode i = some w ∧ decodeRein w = .ok i) ∧
  (∀ (w : Word) (i : Instr), decodeRein w = .ok i → i.wf = true ∧ i.isRein = true ∧ encode i = some w)

/-! ## Memory, translation and reset -/

/-- Every step keeps the package's memory in its canonical form: addresses rise and no listed byte is zero. Conventions of the
model that it meets: log 5 (DESIGN CHOICE). -/
def Obligations.MemoryStaysCanonical : Prop :=
  ∀ s t : State, Memory.wf s.mem = true → step s = .next t → Memory.wf t.mem = true

/-- A table entry at level 1 or 2 that is well formed: its reserved bits are zero, and at level 2 its table is aligned to 128 KiB
(14 R261). -/
abbrev Sys2Proof.Claims.TableEntry (level : Nat) (e : Word) : Prop :=
  e.extractLsb' 0 2 = 1 ∧ e.extractLsb' 2 10 = 0 ∧ e.extractLsb' 52 12 = 0 ∧ (level = 2 → e.extractLsb' 12 5 = 0)

/-- Bytes of a page of a size code: 64 KiB, 2 MiB, 1 GiB (14 R260). -/
def Sys2Proof.Claims.pageBytes (size : Nat) : Nat := 2 ^ [16, 21, 30].getD size 16

/-- A leaf of a size code that is well formed: a state that is not reserved, reserved bits zero, and a frame that is zero below the page
size (14 R261). -/
abbrev Sys2Proof.Claims.LeafEntry (size : Nat) (e : Word) : Prop :=
  e.extractLsb' 0 2 = 2 ∧ e.extractLsb' 2 2 ≠ 0 ∧ e.extractLsb' 4 2 = BitVec.ofNat 2 size ∧ e.extractLsb' 10 6 = 0 ∧
    e.extractLsb' 52 4 = 0 ∧ (e.extractLsb' 16 36).toNat * 65536 % Claims.pageBytes size = 0

/-- A 2 MiB leaf over an address whose 32 entries are identical (14 R260). -/
abbrev Sys2Proof.Claims.Whole (x : Ctx) (va : Nat) (e : Word) : Prop :=
  Claims.LeafEntry 1 e ∧ ∀ k < 32, x.pteAt 3 (va / 2 ^ 21 * 32 + k) = e

/-- 14 R260, R261: the walk of an address ends in a leaf of a size: 1 GiB at level 2, 64 KiB at level 3, and 2 MiB at level 3 in 32
identical entries. -/
def Sys2Proof.Claims.LeadsToLeaf (x : Ctx) (va size : Nat) (e : Word) : Prop :=
  let e2 := x.pteAt 2 (va / 2 ^ 30)
  let e3 := x.pteAt 3 (va / 2 ^ 16)
  Claims.TableEntry 1 (x.pteAt 1 (va / 2 ^ 39)) ∧
    ((size = 2 ∧ e2 = e ∧ Claims.LeafEntry 2 e) ∨
      (Claims.TableEntry 2 e2 ∧ e3 = e ∧ ((size = 0 ∧ Claims.LeafEntry 0 e) ∨ (size = 1 ∧ Claims.Whole x va e))))

/-- 14 R261: the walk of an address meets an empty entry, at any level. -/
def Sys2Proof.Claims.LeadsNowhere (x : Ctx) (va : Nat) : Prop :=
  let empty (e : Word) : Prop := e.extractLsb' 0 2 = 0
  empty (x.pteAt 1 (va / 2 ^ 39)) ∨ (Claims.TableEntry 1 (x.pteAt 1 (va / 2 ^ 39)) ∧
    (empty (x.pteAt 2 (va / 2 ^ 30)) ∨ (Claims.TableEntry 2 (x.pteAt 2 (va / 2 ^ 30)) ∧ empty (x.pteAt 3 (va / 2 ^ 16)))))

/-- 14 R261: the walk of an address meets a malformed entry: a leaf or a reserved kind at level 1, a table or a reserved kind at level 3,
a leaf of another level's size, a 2 MiB group whose entries differ, a reserved code or a reserved bit that is not zero. -/
def Sys2Proof.Claims.LeadsAstray (x : Ctx) (va : Nat) : Prop :=
  let bad (level : Nat) (e : Word) : Prop := e.extractLsb' 0 2 ≠ 0 ∧ ¬ Claims.TableEntry level e
  let e2 := x.pteAt 2 (va / 2 ^ 30)
  let e3 := x.pteAt 3 (va / 2 ^ 16)
  bad 1 (x.pteAt 1 (va / 2 ^ 39)) ∨ (Claims.TableEntry 1 (x.pteAt 1 (va / 2 ^ 39)) ∧
    ((bad 2 e2 ∧ ¬ Claims.LeafEntry 2 e2) ∨
      (Claims.TableEntry 2 e2 ∧ e3.extractLsb' 0 2 ≠ 0 ∧ ¬ Claims.LeafEntry 0 e3 ∧ ¬ Claims.Whole x va e3)))

/-- 10 R210; 14 R265: an access to a physical address that its leaf permits: device space, a package outside the pod and CXL memory that
is not fitted raise 0x08D, a fetch from another package 0x082; any other address is the access's. What CXL
memory another package has is a free value (log 112, DESIGN CHOICE). -/
def Sys2Proof.Claims.Reaches (s : State) (acc : Access) (pa : Nat) (r : TRes) : Prop :=
  let pkg := pa / 2 ^ 42 % 1024
  let at' := pa % 2 ^ 42
  (pkg ∉ s.pod → r = .fault 0x08D) ∧ (at' / 2 ^ 39 = 1 → r = .fault 0x08D) ∧
    (pkg ∈ s.pod → at' < 2 ^ 39 → r = if pkg ≠ s.pkgNum ∧ acc = .fetch then .fault 0x082 else .ok pa) ∧
    ∀ port o, port < 4 → o < 0xC000000000 → at' = 2 ^ 40 + port * 0xC000000000 + o → pkg ∈ s.pod →
      (pkg = s.pkgNum → r = if o < Config.cxlBytes port then .ok pa else .fault 0x08D) ∧
      (pkg ≠ s.pkgNum → r = if Config.farFitted (pa / 65536) = false then .fault 0x08D
        else if acc = .fetch then .fault 0x082 else .ok pa)

/-- 14 R260, R261, R265: an access is checked in the order of R265: bits [63:56], a malformed entry of any level, an empty one, a
reserved page without Touch, the permission it needs, then its frame, for pages of every size; what passes is the frame's address plus
the offset in the page. What CXL memory another package has is a free value, log 112 (DESIGN CHOICE). -/
def Obligations.Translation : Prop :=
  ∀ (s : State) (c va : Nat) (acc : Access) (x : Ctx), s.ctx? c = some x →
    let r := s.translate c va acc
    (2 ^ 56 ≤ va → r = .fault 0x080) ∧
    (va < 2 ^ 56 →
      (Claims.LeadsAstray x va → r = .fault 0x08E) ∧ (Claims.LeadsNowhere x va → r = .fault 0x087) ∧
      ∀ (size : Nat) (e : Word), Claims.LeadsToLeaf x va size e →
        (e.extractLsb' 2 2 = 1 → r = if e.getLsbD 9 then .touch else .fault 0x088) ∧
        (2 ≤ (e.extractLsb' 2 2).toNat →
          ((acc = .fetch ∧ e.getLsbD 8 = false) → r = .fault 0x08A) ∧
          (((acc = .load ∨ acc = .engineRead ∨ acc = .atomic) ∧ e.getLsbD 6 = false) → r = .fault 0x089) ∧
          (((acc = .store ∨ acc = .engineWrite ∨ acc = .atomic) ∧ e.getLsbD 7 = false) → r = .fault 0x089) ∧
          ((acc = .fetch → e.getLsbD 8 = true) → (acc ∈ [.load, .engineRead, .atomic] → e.getLsbD 6 = true) →
            (acc ∈ [.store, .engineWrite, .atomic] → e.getLsbD 7 = true) →
            Claims.Reaches s acc ((e.extractLsb' 16 36).toNat * 65536 + va % Claims.pageBytes size) r)))

/-- 22 R411, R396, R406; 21 R376: the state after a package reset: every context slot free with generation 1, package number 0 in
a pod of its own, no session, no bound queue, no stored completion, no region, no queue pair, no error count, a power limit of
2,700 W; and the management port's RESET gives the same from every state, keeping retired units and stored firmware. Memory is
canonical (its bytes after reset are the model's choice, log 5 (DESIGN CHOICE) and 6 (DESIGN CHOICE)). Conventions of the model
that it meets: log 5 (DESIGN CHOICE), 6 (DESIGN CHOICE), 105 (DESIGN CHOICE), 112 (DESIGN CHOICE). -/
def Obligations.ResetState : Prop :=
  let Fresh (s : State) : Prop := s.ctxs = [] ∧ (∀ c < 64, s.gens.getD c 0 = 1) ∧ s.pkgNum = 0 ∧ s.pod = [0] ∧ s.groups = [] ∧
    s.insts = [] ∧ s.progs = [] ∧ s.recs = [] ∧ s.session = none ∧ s.regions = [] ∧ s.qps = [] ∧ s.errs = [] ∧
    s.powerLimit = 2700 ∧ s.agenda = [] ∧ s.later = [] ∧ s.signals = [] ∧ s.stalled = [] ∧ s.podHolds = [] ∧ s.exports = [] ∧ s.poison = [] ∧
    s.mgmtReg 0x10 = some 0 ∧ s.mgmtReg 0x18 = some 0 ∧ ∀ q ∈ s.queues, q.ctx = none ∧ q.stored = [] ∧ q.endpoint = none
  Fresh State.reset ∧ Canonical State.reset ∧ Claims.Sound State.reset ∧
  ∀ s : State, ∃ t, exec .reset s = .next t ∧ Fresh t ∧ t.retired = s.retired ∧ t.fwStored = s.fwStored ∧ t.fwRunning = s.fwStored
end

