-- ==== Sys2Proof/Laws/State.lean ====
section
/-!
SUPPORT. Laws/State.lean: what an update of the state leaves alone, field by field, and what a lookup finds after one.
-/
namespace Sys2Proof.Machine

/-! ## Lists -/

/-- The first element found after the first of those is replaced, by a replacement that is found too. -/
theorem find?_updFirst {α : Type} {p : α → Bool} {f : α → α} (hf : ∀ a, p a = true → p (f a) = true) (l : List α) :
    (updFirst p f l).find? p = (l.find? p).map f := by
  induction l with
  | nil => rfl
  | cons a l ih =>
    cases h : p a with
    | true => simp [updFirst, h, hf a h]
    | false => simp [updFirst, h, ih]

/-- A fold keeps what its step keeps. -/
theorem foldl_keeps {α β : Type} {P : β → Prop} {f : β → α → β} {l : List α} {b : β} (h : ∀ b a, P b → P (f b a)) (hb : P b) :
    P (l.foldl f b) := by
  induction l generalizing b with
  | nil => exact hb
  | cons a l ih => exact ih (h b a hb)

/-- The first element of another kind is found as before. -/
theorem find?_updFirst_ne {α : Type} {p q : α → Bool} {f : α → α} (hq : ∀ a, p a = true → q a = false)
    (hf : ∀ a, p a = true → q (f a) = false) (l : List α) : (updFirst p f l).find? q = l.find? q := by
  induction l with
  | nil => rfl
  | cons a l ih =>
    cases h : p a with
    | true => simp [updFirst, h, hq a h, hf a h]
    | false => simp [updFirst, h, List.find?_cons, ih]

/-- What a replacement keeps of every element is kept of the list. -/
theorem map_updFirst {α β : Type} {p : α → Bool} {f : α → α} {g : α → β} (h : ∀ a, g (f a) = g a) (l : List α) :
    (updFirst p f l).map g = l.map g := by
  induction l with
  | nil => rfl
  | cons a l ih =>
    simp only [updFirst]
    split
    · simp [h]
    · simp [ih]

/-- Replacing the first element keeps what every replacement keeps. -/
theorem forall_updFirst {α : Type} {p : α → Bool} {f : α → α} {P : α → Prop} {l : List α} (hf : ∀ a, P a → P (f a))
    (h : ∀ a ∈ l, P a) : ∀ a ∈ updFirst p f l, P a := by
  induction l with
  | nil => exact h
  | cons b l ih =>
    intro a ha
    simp only [updFirst] at ha
    split at ha
    · rcases List.mem_cons.mp ha with rfl | ha
      · exact hf b (h b (List.mem_cons_self ..))
      · exact h a (List.mem_cons_of_mem _ ha)
    · rcases List.mem_cons.mp ha with rfl | ha
      · exact h _ (List.mem_cons_self ..)
      · exact ih (fun x hx => h x (List.mem_cons_of_mem _ hx)) a ha

/-! ## Lookups after updates -/

/-- A group replaced is found. -/
theorem State.group?_setGroup {s : State} {p : Place} {f : Group → Group} (hf : ∀ g, (f g).place = g.place) :
    (s.setGroup p f).group? p = (s.group? p).map f :=
  find?_updFirst (fun g h => by simpa [hf g] using h) _

/-- Another group is found as before. -/
theorem State.group?_setGroup_ne {s : State} {p q : Place} {f : Group → Group} (h : q ≠ p) (hf : ∀ g, (f g).place = g.place) :
    (s.setGroup p f).group? q = s.group? q :=
  find?_updFirst_ne (fun g e => by simp_all [Ne.symm h]) (fun g e => by simp_all [Ne.symm h]) _

/-- A context replaced is found. -/
theorem State.ctx?_setCtx {s : State} {c : Nat} {f : Ctx → Ctx} (hf : ∀ x, (f x).slot = x.slot) :
    (s.setCtx c f).ctx? c = (s.ctx? c).map f :=
  find?_updFirst (fun g h => by simpa [hf g] using h) _

/-- Another context is found as before. -/
theorem State.ctx?_setCtx_ne {s : State} {c d : Nat} {f : Ctx → Ctx} (h : d ≠ c) (hf : ∀ x, (f x).slot = x.slot) :
    (s.setCtx c f).ctx? d = s.ctx? d :=
  find?_updFirst_ne (fun g e => by simp_all [Ne.symm h]) (fun g e => by simp_all [Ne.symm h]) _

/-- A record replaced is found. -/
theorem State.rec?_setRec {s : State} {die idx : Nat} {f : TaskRec → TaskRec}
    (hf : ∀ r, (f r).die = r.die ∧ (f r).idx = r.idx) : (s.setRec die idx f).rec? die idx = (s.rec? die idx).map f :=
  find?_updFirst (fun r h => by simpa [hf r] using h) _

/-- An instance replaced is found. -/
theorem State.inst?_setInst {s : State} {die k : Nat} {f : Inst → Inst} (hf : ∀ i, (f i).die = i.die ∧ (f i).key = i.key)
    (h : ∀ i ∈ s.insts, i.key = k → i.die = die) : (s.setInst k f).inst? die k = (s.inst? die k).map f := by
  unfold State.setInst State.inst?
  generalize s.insts = l at h
  induction l with
  | nil => rfl
  | cons i l ih =>
    have ih := ih fun j hj => h j (List.mem_cons_of_mem _ hj)
    by_cases e : i.key = k
    · have hd := h i (List.mem_cons_self ..) e
      simp [updFirst, e, hd, hf i]
    · simp [updFirst, e, ih]

/-! ## What an update leaves alone -/

@[simp] theorem State.setGroup_cycle (s : State) (p : Place) (f : Group → Group) : (s.setGroup p f).cycle = s.cycle := rfl
@[simp] theorem State.setGroup_fresh (s : State) (p : Place) (f : Group → Group) : (s.setGroup p f).fresh = s.fresh := rfl
@[simp] theorem State.setGroup_turn (s : State) (p : Place) (f : Group → Group) : (s.setGroup p f).turn = s.turn := rfl
@[simp] theorem State.setGroup_agenda (s : State) (p : Place) (f : Group → Group) : (s.setGroup p f).agenda = s.agenda := rfl
@[simp] theorem State.setGroup_later (s : State) (p : Place) (f : Group → Group) : (s.setGroup p f).later = s.later := rfl
@[simp] theorem State.setGroup_pointers (s : State) (p : Place) (f : Group → Group) : (s.setGroup p f).pointers = s.pointers := rfl
@[simp] theorem State.setGroup_matPtrs (s : State) (p : Place) (f : Group → Group) : (s.setGroup p f).matPtrs = s.matPtrs := rfl
@[simp] theorem State.setGroup_reinPtrs (s : State) (p : Place) (f : Group → Group) : (s.setGroup p f).reinPtrs = s.reinPtrs := rfl
@[simp] theorem State.setGroup_granted (s : State) (p : Place) (f : Group → Group) : (s.setGroup p f).granted = s.granted := rfl
@[simp] theorem State.setGroup_outbox (s : State) (p : Place) (f : Group → Group) : (s.setGroup p f).outbox = s.outbox := rfl
@[simp] theorem State.setGroup_pkgNum (s : State) (p : Place) (f : Group → Group) : (s.setGroup p f).pkgNum = s.pkgNum := rfl
@[simp] theorem State.setGroup_pod (s : State) (p : Place) (f : Group → Group) : (s.setGroup p f).pod = s.pod := rfl
@[simp] theorem State.setGroup_mem (s : State) (p : Place) (f : Group → Group) : (s.setGroup p f).mem = s.mem := rfl
@[simp] theorem State.setGroup_wrote (s : State) (p : Place) (f : Group → Group) : (s.setGroup p f).wrote = s.wrote := rfl
@[simp] theorem State.setGroup_poison (s : State) (p : Place) (f : Group → Group) : (s.setGroup p f).poison = s.poison := rfl
@[simp] theorem State.setGroup_foreign (s : State) (p : Place) (f : Group → Group) : (s.setGroup p f).foreign = s.foreign := rfl
@[simp] theorem State.setGroup_exports (s : State) (p : Place) (f : Group → Group) : (s.setGroup p f).exports = s.exports := rfl
@[simp] theorem State.setGroup_tlb (s : State) (p : Place) (f : Group → Group) : (s.setGroup p f).tlb = s.tlb := rfl
@[simp] theorem State.setGroup_gens (s : State) (p : Place) (f : Group → Group) : (s.setGroup p f).gens = s.gens := rfl
@[simp] theorem State.setGroup_ctxs (s : State) (p : Place) (f : Group → Group) : (s.setGroup p f).ctxs = s.ctxs := rfl
@[simp] theorem State.setGroup_recs (s : State) (p : Place) (f : Group → Group) : (s.setGroup p f).recs = s.recs := rfl
@[simp] theorem State.setGroup_ended (s : State) (p : Place) (f : Group → Group) : (s.setGroup p f).ended = s.ended := rfl
@[simp] theorem State.setGroup_progs (s : State) (p : Place) (f : Group → Group) : (s.setGroup p f).progs = s.progs := rfl
@[simp] theorem State.setGroup_insts (s : State) (p : Place) (f : Group → Group) : (s.setGroup p f).insts = s.insts := rfl
@[simp] theorem State.setGroup_landings (s : State) (p : Place) (f : Group → Group) : (s.setGroup p f).landings = s.landings := rfl
@[simp] theorem State.setGroup_signals (s : State) (p : Place) (f : Group → Group) : (s.setGroup p f).signals = s.signals := rfl
@[simp] theorem State.setGroup_decs (s : State) (p : Place) (f : Group → Group) : (s.setGroup p f).decs = s.decs := rfl
@[simp] theorem State.setGroup_keys (s : State) (p : Place) (f : Group → Group) : (s.setGroup p f).keys = s.keys := rfl
@[simp] theorem State.setGroup_session (s : State) (p : Place) (f : Group → Group) : (s.setGroup p f).session = s.session := rfl
@[simp] theorem State.setGroup_features (s : State) (p : Place) (f : Group → Group) : (s.setGroup p f).features = s.features := rfl
@[simp] theorem State.setGroup_queues (s : State) (p : Place) (f : Group → Group) : (s.setGroup p f).queues = s.queues := rfl
@[simp] theorem State.setGroup_links (s : State) (p : Place) (f : Group → Group) : (s.setGroup p f).links = s.links := rfl
@[simp] theorem State.setGroup_regions (s : State) (p : Place) (f : Group → Group) : (s.setGroup p f).regions = s.regions := rfl
@[simp] theorem State.setGroup_qps (s : State) (p : Place) (f : Group → Group) : (s.setGroup p f).qps = s.qps := rfl
@[simp] theorem State.setGroup_tolerance (s : State) (p : Place) (f : Group → Group) : (s.setGroup p f).tolerance = s.tolerance := rfl
@[simp] theorem State.setGroup_pstate (s : State) (p : Place) (f : Group → Group) : (s.setGroup p f).pstate = s.pstate := rfl
@[simp] theorem State.setGroup_fwPieces (s : State) (p : Place) (f : Group → Group) : (s.setGroup p f).fwPieces = s.fwPieces := rfl
@[simp] theorem State.setGroup_fwNext (s : State) (p : Place) (f : Group → Group) : (s.setGroup p f).fwNext = s.fwNext := rfl
@[simp] theorem State.setGroup_fwStored (s : State) (p : Place) (f : Group → Group) : (s.setGroup p f).fwStored = s.fwStored := rfl
@[simp] theorem State.setGroup_fwRunning (s : State) (p : Place) (f : Group → Group) : (s.setGroup p f).fwRunning = s.fwRunning := rfl
@[simp] theorem State.setGroup_errs (s : State) (p : Place) (f : Group → Group) : (s.setGroup p f).errs = s.errs := rfl
@[simp] theorem State.setGroup_retired (s : State) (p : Place) (f : Group → Group) : (s.setGroup p f).retired = s.retired := rfl
@[simp] theorem State.setGroup_errSelect (s : State) (p : Place) (f : Group → Group) : (s.setGroup p f).errSelect = s.errSelect := rfl
@[simp] theorem State.setGroup_powerLimit (s : State) (p : Place) (f : Group → Group) : (s.setGroup p f).powerLimit = s.powerLimit := rfl
@[simp] theorem State.setGroup_mirrored (s : State) (p : Place) (f : Group → Group) : (s.setGroup p f).mirrored = s.mirrored := rfl
@[simp] theorem State.setGroup_applied (s : State) (p : Place) (f : Group → Group) : (s.setGroup p f).applied = s.applied := rfl
@[simp] theorem State.setGroup_failedPkgs (s : State) (p : Place) (f : Group → Group) : (s.setGroup p f).failedPkgs = s.failedPkgs := rfl
@[simp] theorem State.setGroup_stalled (s : State) (p : Place) (f : Group → Group) : (s.setGroup p f).stalled = s.stalled := rfl
@[simp] theorem State.setGroup_podHolds (s : State) (p : Place) (f : Group → Group) : (s.setGroup p f).podHolds = s.podHolds := rfl
@[simp] theorem State.setGroup_spares (s : State) (p : Place) (f : Group → Group) : (s.setGroup p f).spares = s.spares := rfl
@[simp] theorem State.setCtx_cycle (s : State) (c : Nat) (f : Ctx → Ctx) : (s.setCtx c f).cycle = s.cycle := rfl
@[simp] theorem State.setCtx_fresh (s : State) (c : Nat) (f : Ctx → Ctx) : (s.setCtx c f).fresh = s.fresh := rfl
@[simp] theorem State.setCtx_turn (s : State) (c : Nat) (f : Ctx → Ctx) : (s.setCtx c f).turn = s.turn := rfl
@[simp] theorem State.setCtx_agenda (s : State) (c : Nat) (f : Ctx → Ctx) : (s.setCtx c f).agenda = s.agenda := rfl
@[simp] theorem State.setCtx_later (s : State) (c : Nat) (f : Ctx → Ctx) : (s.setCtx c f).later = s.later := rfl
@[simp] theorem State.setCtx_pointers (s : State) (c : Nat) (f : Ctx → Ctx) : (s.setCtx c f).pointers = s.pointers := rfl
@[simp] theorem State.setCtx_matPtrs (s : State) (c : Nat) (f : Ctx → Ctx) : (s.setCtx c f).matPtrs = s.matPtrs := rfl
@[simp] theorem State.setCtx_reinPtrs (s : State) (c : Nat) (f : Ctx → Ctx) : (s.setCtx c f).reinPtrs = s.reinPtrs := rfl
@[simp] theorem State.setCtx_granted (s : State) (c : Nat) (f : Ctx → Ctx) : (s.setCtx c f).granted = s.granted := rfl
@[simp] theorem State.setCtx_outbox (s : State) (c : Nat) (f : Ctx → Ctx) : (s.setCtx c f).outbox = s.outbox := rfl
@[simp] theorem State.setCtx_pkgNum (s : State) (c : Nat) (f : Ctx → Ctx) : (s.setCtx c f).pkgNum = s.pkgNum := rfl
@[simp] theorem State.setCtx_pod (s : State) (c : Nat) (f : Ctx → Ctx) : (s.setCtx c f).pod = s.pod := rfl
@[simp] theorem State.setCtx_mem (s : State) (c : Nat) (f : Ctx → Ctx) : (s.setCtx c f).mem = s.mem := rfl
@[simp] theorem State.setCtx_wrote (s : State) (c : Nat) (f : Ctx → Ctx) : (s.setCtx c f).wrote = s.wrote := rfl
@[simp] theorem State.setCtx_poison (s : State) (c : Nat) (f : Ctx → Ctx) : (s.setCtx c f).poison = s.poison := rfl
@[simp] theorem State.setCtx_foreign (s : State) (c : Nat) (f : Ctx → Ctx) : (s.setCtx c f).foreign = s.foreign := rfl
@[simp] theorem State.setCtx_exports (s : State) (c : Nat) (f : Ctx → Ctx) : (s.setCtx c f).exports = s.exports := rfl
@[simp] theorem State.setCtx_tlb (s : State) (c : Nat) (f : Ctx → Ctx) : (s.setCtx c f).tlb = s.tlb := rfl
@[simp] theorem State.setCtx_gens (s : State) (c : Nat) (f : Ctx → Ctx) : (s.setCtx c f).gens = s.gens := rfl
@[simp] theorem State.setCtx_groups (s : State) (c : Nat) (f : Ctx → Ctx) : (s.setCtx c f).groups = s.groups := rfl
@[simp] theorem State.setCtx_recs (s : State) (c : Nat) (f : Ctx → Ctx) : (s.setCtx c f).recs = s.recs := rfl
@[simp] theorem State.setCtx_ended (s : State) (c : Nat) (f : Ctx → Ctx) : (s.setCtx c f).ended = s.ended := rfl
@[simp] theorem State.setCtx_progs (s : State) (c : Nat) (f : Ctx → Ctx) : (s.setCtx c f).progs = s.progs := rfl
@[simp] theorem State.setCtx_insts (s : State) (c : Nat) (f : Ctx → Ctx) : (s.setCtx c f).insts = s.insts := rfl
@[simp] theorem State.setCtx_landings (s : State) (c : Nat) (f : Ctx → Ctx) : (s.setCtx c f).landings = s.landings := rfl
@[simp] theorem State.setCtx_signals (s : State) (c : Nat) (f : Ctx → Ctx) : (s.setCtx c f).signals = s.signals := rfl
@[simp] theorem State.setCtx_decs (s : State) (c : Nat) (f : Ctx → Ctx) : (s.setCtx c f).decs = s.decs := rfl
@[simp] theorem State.setCtx_keys (s : State) (c : Nat) (f : Ctx → Ctx) : (s.setCtx c f).keys = s.keys := rfl
@[simp] theorem State.setCtx_session (s : State) (c : Nat) (f : Ctx → Ctx) : (s.setCtx c f).session = s.session := rfl
@[simp] theorem State.setCtx_features (s : State) (c : Nat) (f : Ctx → Ctx) : (s.setCtx c f).features = s.features := rfl
@[simp] theorem State.setCtx_queues (s : State) (c : Nat) (f : Ctx → Ctx) : (s.setCtx c f).queues = s.queues := rfl
@[simp] theorem State.setCtx_links (s : State) (c : Nat) (f : Ctx → Ctx) : (s.setCtx c f).links = s.links := rfl
@[simp] theorem State.setCtx_regions (s : State) (c : Nat) (f : Ctx → Ctx) : (s.setCtx c f).regions = s.regions := rfl
@[simp] theorem State.setCtx_qps (s : State) (c : Nat) (f : Ctx → Ctx) : (s.setCtx c f).qps = s.qps := rfl
@[simp] theorem State.setCtx_tolerance (s : State) (c : Nat) (f : Ctx → Ctx) : (s.setCtx c f).tolerance = s.tolerance := rfl
@[simp] theorem State.setCtx_pstate (s : State) (c : Nat) (f : Ctx → Ctx) : (s.setCtx c f).pstate = s.pstate := rfl
@[simp] theorem State.setCtx_fwPieces (s : State) (c : Nat) (f : Ctx → Ctx) : (s.setCtx c f).fwPieces = s.fwPieces := rfl
@[simp] theorem State.setCtx_fwNext (s : State) (c : Nat) (f : Ctx → Ctx) : (s.setCtx c f).fwNext = s.fwNext := rfl
@[simp] theorem State.setCtx_fwStored (s : State) (c : Nat) (f : Ctx → Ctx) : (s.setCtx c f).fwStored = s.fwStored := rfl
@[simp] theorem State.setCtx_fwRunning (s : State) (c : Nat) (f : Ctx → Ctx) : (s.setCtx c f).fwRunning = s.fwRunning := rfl
@[simp] theorem State.setCtx_errs (s : State) (c : Nat) (f : Ctx → Ctx) : (s.setCtx c f).errs = s.errs := rfl
@[simp] theorem State.setCtx_retired (s : State) (c : Nat) (f : Ctx → Ctx) : (s.setCtx c f).retired = s.retired := rfl
@[simp] theorem State.setCtx_errSelect (s : State) (c : Nat) (f : Ctx → Ctx) : (s.setCtx c f).errSelect = s.errSelect := rfl
@[simp] theorem State.setCtx_powerLimit (s : State) (c : Nat) (f : Ctx → Ctx) : (s.setCtx c f).powerLimit = s.powerLimit := rfl
@[simp] theorem State.setCtx_mirrored (s : State) (c : Nat) (f : Ctx → Ctx) : (s.setCtx c f).mirrored = s.mirrored := rfl
@[simp] theorem State.setCtx_applied (s : State) (c : Nat) (f : Ctx → Ctx) : (s.setCtx c f).applied = s.applied := rfl
@[simp] theorem State.setCtx_failedPkgs (s : State) (c : Nat) (f : Ctx → Ctx) : (s.setCtx c f).failedPkgs = s.failedPkgs := rfl
@[simp] theorem State.setCtx_stalled (s : State) (c : Nat) (f : Ctx → Ctx) : (s.setCtx c f).stalled = s.stalled := rfl
@[simp] theorem State.setCtx_podHolds (s : State) (c : Nat) (f : Ctx → Ctx) : (s.setCtx c f).podHolds = s.podHolds := rfl
@[simp] theorem State.setCtx_spares (s : State) (c : Nat) (f : Ctx → Ctx) : (s.setCtx c f).spares = s.spares := rfl
@[simp] theorem State.setRec_cycle (s : State) (die idx : Nat) (f : TaskRec → TaskRec) : (s.setRec die idx f).cycle = s.cycle := rfl
@[simp] theorem State.setRec_fresh (s : State) (die idx : Nat) (f : TaskRec → TaskRec) : (s.setRec die idx f).fresh = s.fresh := rfl
@[simp] theorem State.setRec_turn (s : State) (die idx : Nat) (f : TaskRec → TaskRec) : (s.setRec die idx f).turn = s.turn := rfl
@[simp] theorem State.setRec_agenda (s : State) (die idx : Nat) (f : TaskRec → TaskRec) : (s.setRec die idx f).agenda = s.agenda := rfl
@[simp] theorem State.setRec_later (s : State) (die idx : Nat) (f : TaskRec → TaskRec) : (s.setRec die idx f).later = s.later := rfl
@[simp] theorem State.setRec_pointers (s : State) (die idx : Nat) (f : TaskRec → TaskRec) : (s.setRec die idx f).pointers = s.pointers := rfl
@[simp] theorem State.setRec_matPtrs (s : State) (die idx : Nat) (f : TaskRec → TaskRec) : (s.setRec die idx f).matPtrs = s.matPtrs := rfl
@[simp] theorem State.setRec_reinPtrs (s : State) (die idx : Nat) (f : TaskRec → TaskRec) : (s.setRec die idx f).reinPtrs = s.reinPtrs := rfl
@[simp] theorem State.setRec_granted (s : State) (die idx : Nat) (f : TaskRec → TaskRec) : (s.setRec die idx f).granted = s.granted := rfl
@[simp] theorem State.setRec_outbox (s : State) (die idx : Nat) (f : TaskRec → TaskRec) : (s.setRec die idx f).outbox = s.outbox := rfl
@[simp] theorem State.setRec_pkgNum (s : State) (die idx : Nat) (f : TaskRec → TaskRec) : (s.setRec die idx f).pkgNum = s.pkgNum := rfl
@[simp] theorem State.setRec_pod (s : State) (die idx : Nat) (f : TaskRec → TaskRec) : (s.setRec die idx f).pod = s.pod := rfl
@[simp] theorem State.setRec_mem (s : State) (die idx : Nat) (f : TaskRec → TaskRec) : (s.setRec die idx f).mem = s.mem := rfl
@[simp] theorem State.setRec_wrote (s : State) (die idx : Nat) (f : TaskRec → TaskRec) : (s.setRec die idx f).wrote = s.wrote := rfl
@[simp] theorem State.setRec_poison (s : State) (die idx : Nat) (f : TaskRec → TaskRec) : (s.setRec die idx f).poison = s.poison := rfl
@[simp] theorem State.setRec_foreign (s : State) (die idx : Nat) (f : TaskRec → TaskRec) : (s.setRec die idx f).foreign = s.foreign := rfl
@[simp] theorem State.setRec_exports (s : State) (die idx : Nat) (f : TaskRec → TaskRec) : (s.setRec die idx f).exports = s.exports := rfl
@[simp] theorem State.setRec_tlb (s : State) (die idx : Nat) (f : TaskRec → TaskRec) : (s.setRec die idx f).tlb = s.tlb := rfl
@[simp] theorem State.setRec_gens (s : State) (die idx : Nat) (f : TaskRec → TaskRec) : (s.setRec die idx f).gens = s.gens := rfl
@[simp] theorem State.setRec_ctxs (s : State) (die idx : Nat) (f : TaskRec → TaskRec) : (s.setRec die idx f).ctxs = s.ctxs := rfl
@[simp] theorem State.setRec_groups (s : State) (die idx : Nat) (f : TaskRec → TaskRec) : (s.setRec die idx f).groups = s.groups := rfl
@[simp] theorem State.setRec_ended (s : State) (die idx : Nat) (f : TaskRec → TaskRec) : (s.setRec die idx f).ended = s.ended := rfl
@[simp] theorem State.setRec_progs (s : State) (die idx : Nat) (f : TaskRec → TaskRec) : (s.setRec die idx f).progs = s.progs := rfl
@[simp] theorem State.setRec_insts (s : State) (die idx : Nat) (f : TaskRec → TaskRec) : (s.setRec die idx f).insts = s.insts := rfl
@[simp] theorem State.setRec_landings (s : State) (die idx : Nat) (f : TaskRec → TaskRec) : (s.setRec die idx f).landings = s.landings := rfl
@[simp] theorem State.setRec_signals (s : State) (die idx : Nat) (f : TaskRec → TaskRec) : (s.setRec die idx f).signals = s.signals := rfl
@[simp] theorem State.setRec_decs (s : State) (die idx : Nat) (f : TaskRec → TaskRec) : (s.setRec die idx f).decs = s.decs := rfl
@[simp] theorem State.setRec_keys (s : State) (die idx : Nat) (f : TaskRec → TaskRec) : (s.setRec die idx f).keys = s.keys := rfl
@[simp] theorem State.setRec_session (s : State) (die idx : Nat) (f : TaskRec → TaskRec) : (s.setRec die idx f).session = s.session := rfl
@[simp] theorem State.setRec_features (s : State) (die idx : Nat) (f : TaskRec → TaskRec) : (s.setRec die idx f).features = s.features := rfl
@[simp] theorem State.setRec_queues (s : State) (die idx : Nat) (f : TaskRec → TaskRec) : (s.setRec die idx f).queues = s.queues := rfl
@[simp] theorem State.setRec_links (s : State) (die idx : Nat) (f : TaskRec → TaskRec) : (s.setRec die idx f).links = s.links := rfl
@[simp] theorem State.setRec_regions (s : State) (die idx : Nat) (f : TaskRec → TaskRec) : (s.setRec die idx f).regions = s.regions := rfl
@[simp] theorem State.setRec_qps (s : State) (die idx : Nat) (f : TaskRec → TaskRec) : (s.setRec die idx f).qps = s.qps := rfl
@[simp] theorem State.setRec_tolerance (s : State) (die idx : Nat) (f : TaskRec → TaskRec) : (s.setRec die idx f).tolerance = s.tolerance := rfl
@[simp] theorem State.setRec_pstate (s : State) (die idx : Nat) (f : TaskRec → TaskRec) : (s.setRec die idx f).pstate = s.pstate := rfl
@[simp] theorem State.setRec_fwPieces (s : State) (die idx : Nat) (f : TaskRec → TaskRec) : (s.setRec die idx f).fwPieces = s.fwPieces := rfl
@[simp] theorem State.setRec_fwNext (s : State) (die idx : Nat) (f : TaskRec → TaskRec) : (s.setRec die idx f).fwNext = s.fwNext := rfl
@[simp] theorem State.setRec_fwStored (s : State) (die idx : Nat) (f : TaskRec → TaskRec) : (s.setRec die idx f).fwStored = s.fwStored := rfl
@[simp] theorem State.setRec_fwRunning (s : State) (die idx : Nat) (f : TaskRec → TaskRec) : (s.setRec die idx f).fwRunning = s.fwRunning := rfl
@[simp] theorem State.setRec_errs (s : State) (die idx : Nat) (f : TaskRec → TaskRec) : (s.setRec die idx f).errs = s.errs := rfl
@[simp] theorem State.setRec_retired (s : State) (die idx : Nat) (f : TaskRec → TaskRec) : (s.setRec die idx f).retired = s.retired := rfl
@[simp] theorem State.setRec_errSelect (s : State) (die idx : Nat) (f : TaskRec → TaskRec) : (s.setRec die idx f).errSelect = s.errSelect := rfl
@[simp] theorem State.setRec_powerLimit (s : State) (die idx : Nat) (f : TaskRec → TaskRec) : (s.setRec die idx f).powerLimit = s.powerLimit := rfl
@[simp] theorem State.setRec_mirrored (s : State) (die idx : Nat) (f : TaskRec → TaskRec) : (s.setRec die idx f).mirrored = s.mirrored := rfl
@[simp] theorem State.setRec_applied (s : State) (die idx : Nat) (f : TaskRec → TaskRec) : (s.setRec die idx f).applied = s.applied := rfl
@[simp] theorem State.setRec_failedPkgs (s : State) (die idx : Nat) (f : TaskRec → TaskRec) : (s.setRec die idx f).failedPkgs = s.failedPkgs := rfl
@[simp] theorem State.setRec_stalled (s : State) (die idx : Nat) (f : TaskRec → TaskRec) : (s.setRec die idx f).stalled = s.stalled := rfl
@[simp] theorem State.setRec_podHolds (s : State) (die idx : Nat) (f : TaskRec → TaskRec) : (s.setRec die idx f).podHolds = s.podHolds := rfl
@[simp] theorem State.setRec_spares (s : State) (die idx : Nat) (f : TaskRec → TaskRec) : (s.setRec die idx f).spares = s.spares := rfl
@[simp] theorem State.setInst_cycle (s : State) (k : Nat) (f : Inst → Inst) : (s.setInst k f).cycle = s.cycle := rfl
@[simp] theorem State.setInst_fresh (s : State) (k : Nat) (f : Inst → Inst) : (s.setInst k f).fresh = s.fresh := rfl
@[simp] theorem State.setInst_turn (s : State) (k : Nat) (f : Inst → Inst) : (s.setInst k f).turn = s.turn := rfl
@[simp] theorem State.setInst_agenda (s : State) (k : Nat) (f : Inst → Inst) : (s.setInst k f).agenda = s.agenda := rfl
@[simp] theorem State.setInst_later (s : State) (k : Nat) (f : Inst → Inst) : (s.setInst k f).later = s.later := rfl
@[simp] theorem State.setInst_pointers (s : State) (k : Nat) (f : Inst → Inst) : (s.setInst k f).pointers = s.pointers := rfl
@[simp] theorem State.setInst_matPtrs (s : State) (k : Nat) (f : Inst → Inst) : (s.setInst k f).matPtrs = s.matPtrs := rfl
@[simp] theorem State.setInst_reinPtrs (s : State) (k : Nat) (f : Inst → Inst) : (s.setInst k f).reinPtrs = s.reinPtrs := rfl
@[simp] theorem State.setInst_granted (s : State) (k : Nat) (f : Inst → Inst) : (s.setInst k f).granted = s.granted := rfl
@[simp] theorem State.setInst_outbox (s : State) (k : Nat) (f : Inst → Inst) : (s.setInst k f).outbox = s.outbox := rfl
@[simp] theorem State.setInst_pkgNum (s : State) (k : Nat) (f : Inst → Inst) : (s.setInst k f).pkgNum = s.pkgNum := rfl
@[simp] theorem State.setInst_pod (s : State) (k : Nat) (f : Inst → Inst) : (s.setInst k f).pod = s.pod := rfl
@[simp] theorem State.setInst_mem (s : State) (k : Nat) (f : Inst → Inst) : (s.setInst k f).mem = s.mem := rfl
@[simp] theorem State.setInst_wrote (s : State) (k : Nat) (f : Inst → Inst) : (s.setInst k f).wrote = s.wrote := rfl
@[simp] theorem State.setInst_poison (s : State) (k : Nat) (f : Inst → Inst) : (s.setInst k f).poison = s.poison := rfl
@[simp] theorem State.setInst_foreign (s : State) (k : Nat) (f : Inst → Inst) : (s.setInst k f).foreign = s.foreign := rfl
@[simp] theorem State.setInst_exports (s : State) (k : Nat) (f : Inst → Inst) : (s.setInst k f).exports = s.exports := rfl
@[simp] theorem State.setInst_tlb (s : State) (k : Nat) (f : Inst → Inst) : (s.setInst k f).tlb = s.tlb := rfl
@[simp] theorem State.setInst_gens (s : State) (k : Nat) (f : Inst → Inst) : (s.setInst k f).gens = s.gens := rfl
@[simp] theorem State.setInst_ctxs (s : State) (k : Nat) (f : Inst → Inst) : (s.setInst k f).ctxs = s.ctxs := rfl
@[simp] theorem State.setInst_groups (s : State) (k : Nat) (f : Inst → Inst) : (s.setInst k f).groups = s.groups := rfl
@[simp] theorem State.setInst_recs (s : State) (k : Nat) (f : Inst → Inst) : (s.setInst k f).recs = s.recs := rfl
@[simp] theorem State.setInst_ended (s : State) (k : Nat) (f : Inst → Inst) : (s.setInst k f).ended = s.ended := rfl
@[simp] theorem State.setInst_progs (s : State) (k : Nat) (f : Inst → Inst) : (s.setInst k f).progs = s.progs := rfl
@[simp] theorem State.setInst_landings (s : State) (k : Nat) (f : Inst → Inst) : (s.setInst k f).landings = s.landings := rfl
@[simp] theorem State.setInst_signals (s : State) (k : Nat) (f : Inst → Inst) : (s.setInst k f).signals = s.signals := rfl
@[simp] theorem State.setInst_decs (s : State) (k : Nat) (f : Inst → Inst) : (s.setInst k f).decs = s.decs := rfl
@[simp] theorem State.setInst_keys (s : State) (k : Nat) (f : Inst → Inst) : (s.setInst k f).keys = s.keys := rfl
@[simp] theorem State.setInst_session (s : State) (k : Nat) (f : Inst → Inst) : (s.setInst k f).session = s.session := rfl
@[simp] theorem State.setInst_features (s : State) (k : Nat) (f : Inst → Inst) : (s.setInst k f).features = s.features := rfl
@[simp] theorem State.setInst_queues (s : State) (k : Nat) (f : Inst → Inst) : (s.setInst k f).queues = s.queues := rfl
@[simp] theorem State.setInst_links (s : State) (k : Nat) (f : Inst → Inst) : (s.setInst k f).links = s.links := rfl
@[simp] theorem State.setInst_regions (s : State) (k : Nat) (f : Inst → Inst) : (s.setInst k f).regions = s.regions := rfl
@[simp] theorem State.setInst_qps (s : State) (k : Nat) (f : Inst → Inst) : (s.setInst k f).qps = s.qps := rfl
@[simp] theorem State.setInst_tolerance (s : State) (k : Nat) (f : Inst → Inst) : (s.setInst k f).tolerance = s.tolerance := rfl
@[simp] theorem State.setInst_pstate (s : State) (k : Nat) (f : Inst → Inst) : (s.setInst k f).pstate = s.pstate := rfl
@[simp] theorem State.setInst_fwPieces (s : State) (k : Nat) (f : Inst → Inst) : (s.setInst k f).fwPieces = s.fwPieces := rfl
@[simp] theorem State.setInst_fwNext (s : State) (k : Nat) (f : Inst → Inst) : (s.setInst k f).fwNext = s.fwNext := rfl
@[simp] theorem State.setInst_fwStored (s : State) (k : Nat) (f : Inst → Inst) : (s.setInst k f).fwStored = s.fwStored := rfl
@[simp] theorem State.setInst_fwRunning (s : State) (k : Nat) (f : Inst → Inst) : (s.setInst k f).fwRunning = s.fwRunning := rfl
@[simp] theorem State.setInst_errs (s : State) (k : Nat) (f : Inst → Inst) : (s.setInst k f).errs = s.errs := rfl
@[simp] theorem State.setInst_retired (s : State) (k : Nat) (f : Inst → Inst) : (s.setInst k f).retired = s.retired := rfl
@[simp] theorem State.setInst_errSelect (s : State) (k : Nat) (f : Inst → Inst) : (s.setInst k f).errSelect = s.errSelect := rfl
@[simp] theorem State.setInst_powerLimit (s : State) (k : Nat) (f : Inst → Inst) : (s.setInst k f).powerLimit = s.powerLimit := rfl
@[simp] theorem State.setInst_mirrored (s : State) (k : Nat) (f : Inst → Inst) : (s.setInst k f).mirrored = s.mirrored := rfl
@[simp] theorem State.setInst_applied (s : State) (k : Nat) (f : Inst → Inst) : (s.setInst k f).applied = s.applied := rfl
@[simp] theorem State.setInst_failedPkgs (s : State) (k : Nat) (f : Inst → Inst) : (s.setInst k f).failedPkgs = s.failedPkgs := rfl
@[simp] theorem State.setInst_stalled (s : State) (k : Nat) (f : Inst → Inst) : (s.setInst k f).stalled = s.stalled := rfl
@[simp] theorem State.setInst_podHolds (s : State) (k : Nat) (f : Inst → Inst) : (s.setInst k f).podHolds = s.podHolds := rfl
@[simp] theorem State.setInst_spares (s : State) (k : Nat) (f : Inst → Inst) : (s.setInst k f).spares = s.spares := rfl
@[simp] theorem State.setProg_cycle (s : State) (die c id : Nat) (f : Prog → Prog) : (s.setProg die c id f).cycle = s.cycle := rfl
@[simp] theorem State.setProg_fresh (s : State) (die c id : Nat) (f : Prog → Prog) : (s.setProg die c id f).fresh = s.fresh := rfl
@[simp] theorem State.setProg_turn (s : State) (die c id : Nat) (f : Prog → Prog) : (s.setProg die c id f).turn = s.turn := rfl
@[simp] theorem State.setProg_agenda (s : State) (die c id : Nat) (f : Prog → Prog) : (s.setProg die c id f).agenda = s.agenda := rfl
@[simp] theorem State.setProg_later (s : State) (die c id : Nat) (f : Prog → Prog) : (s.setProg die c id f).later = s.later := rfl
@[simp] theorem State.setProg_pointers (s : State) (die c id : Nat) (f : Prog → Prog) : (s.setProg die c id f).pointers = s.pointers := rfl
@[simp] theorem State.setProg_matPtrs (s : State) (die c id : Nat) (f : Prog → Prog) : (s.setProg die c id f).matPtrs = s.matPtrs := rfl
@[simp] theorem State.setProg_reinPtrs (s : State) (die c id : Nat) (f : Prog → Prog) : (s.setProg die c id f).reinPtrs = s.reinPtrs := rfl
@[simp] theorem State.setProg_granted (s : State) (die c id : Nat) (f : Prog → Prog) : (s.setProg die c id f).granted = s.granted := rfl
@[simp] theorem State.setProg_outbox (s : State) (die c id : Nat) (f : Prog → Prog) : (s.setProg die c id f).outbox = s.outbox := rfl
@[simp] theorem State.setProg_pkgNum (s : State) (die c id : Nat) (f : Prog → Prog) : (s.setProg die c id f).pkgNum = s.pkgNum := rfl
@[simp] theorem State.setProg_pod (s : State) (die c id : Nat) (f : Prog → Prog) : (s.setProg die c id f).pod = s.pod := rfl
@[simp] theorem State.setProg_mem (s : State) (die c id : Nat) (f : Prog → Prog) : (s.setProg die c id f).mem = s.mem := rfl
@[simp] theorem State.setProg_wrote (s : State) (die c id : Nat) (f : Prog → Prog) : (s.setProg die c id f).wrote = s.wrote := rfl
@[simp] theorem State.setProg_poison (s : State) (die c id : Nat) (f : Prog → Prog) : (s.setProg die c id f).poison = s.poison := rfl
@[simp] theorem State.setProg_foreign (s : State) (die c id : Nat) (f : Prog → Prog) : (s.setProg die c id f).foreign = s.foreign := rfl
@[simp] theorem State.setProg_exports (s : State) (die c id : Nat) (f : Prog → Prog) : (s.setProg die c id f).exports = s.exports := rfl
@[simp] theorem State.setProg_tlb (s : State) (die c id : Nat) (f : Prog → Prog) : (s.setProg die c id f).tlb = s.tlb := rfl
@[simp] theorem State.setProg_gens (s : State) (die c id : Nat) (f : Prog → Prog) : (s.setProg die c id f).gens = s.gens := rfl
@[simp] theorem State.setProg_ctxs (s : State) (die c id : Nat) (f : Prog → Prog) : (s.setProg die c id f).ctxs = s.ctxs := rfl
@[simp] theorem State.setProg_groups (s : State) (die c id : Nat) (f : Prog → Prog) : (s.setProg die c id f).groups = s.groups := rfl
@[simp] theorem State.setProg_recs (s : State) (die c id : Nat) (f : Prog → Prog) : (s.setProg die c id f).recs = s.recs := rfl
@[simp] theorem State.setProg_ended (s : State) (die c id : Nat) (f : Prog → Prog) : (s.setProg die c id f).ended = s.ended := rfl
@[simp] theorem State.setProg_insts (s : State) (die c id : Nat) (f : Prog → Prog) : (s.setProg die c id f).insts = s.insts := rfl
@[simp] theorem State.setProg_landings (s : State) (die c id : Nat) (f : Prog → Prog) : (s.setProg die c id f).landings = s.landings := rfl
@[simp] theorem State.setProg_signals (s : State) (die c id : Nat) (f : Prog → Prog) : (s.setProg die c id f).signals = s.signals := rfl
@[simp] theorem State.setProg_decs (s : State) (die c id : Nat) (f : Prog → Prog) : (s.setProg die c id f).decs = s.decs := rfl
@[simp] theorem State.setProg_keys (s : State) (die c id : Nat) (f : Prog → Prog) : (s.setProg die c id f).keys = s.keys := rfl
@[simp] theorem State.setProg_session (s : State) (die c id : Nat) (f : Prog → Prog) : (s.setProg die c id f).session = s.session := rfl
@[simp] theorem State.setProg_features (s : State) (die c id : Nat) (f : Prog → Prog) : (s.setProg die c id f).features = s.features := rfl
@[simp] theorem State.setProg_queues (s : State) (die c id : Nat) (f : Prog → Prog) : (s.setProg die c id f).queues = s.queues := rfl
@[simp] theorem State.setProg_links (s : State) (die c id : Nat) (f : Prog → Prog) : (s.setProg die c id f).links = s.links := rfl
@[simp] theorem State.setProg_regions (s : State) (die c id : Nat) (f : Prog → Prog) : (s.setProg die c id f).regions = s.regions := rfl
@[simp] theorem State.setProg_qps (s : State) (die c id : Nat) (f : Prog → Prog) : (s.setProg die c id f).qps = s.qps := rfl
@[simp] theorem State.setProg_tolerance (s : State) (die c id : Nat) (f : Prog → Prog) : (s.setProg die c id f).tolerance = s.tolerance := rfl
@[simp] theorem State.setProg_pstate (s : State) (die c id : Nat) (f : Prog → Prog) : (s.setProg die c id f).pstate = s.pstate := rfl
@[simp] theorem State.setProg_fwPieces (s : State) (die c id : Nat) (f : Prog → Prog) : (s.setProg die c id f).fwPieces = s.fwPieces := rfl
@[simp] theorem State.setProg_fwNext (s : State) (die c id : Nat) (f : Prog → Prog) : (s.setProg die c id f).fwNext = s.fwNext := rfl
@[simp] theorem State.setProg_fwStored (s : State) (die c id : Nat) (f : Prog → Prog) : (s.setProg die c id f).fwStored = s.fwStored := rfl
@[simp] theorem State.setProg_fwRunning (s : State) (die c id : Nat) (f : Prog → Prog) : (s.setProg die c id f).fwRunning = s.fwRunning := rfl
@[simp] theorem State.setProg_errs (s : State) (die c id : Nat) (f : Prog → Prog) : (s.setProg die c id f).errs = s.errs := rfl
@[simp] theorem State.setProg_retired (s : State) (die c id : Nat) (f : Prog → Prog) : (s.setProg die c id f).retired = s.retired := rfl
@[simp] theorem State.setProg_errSelect (s : State) (die c id : Nat) (f : Prog → Prog) : (s.setProg die c id f).errSelect = s.errSelect := rfl
@[simp] theorem State.setProg_powerLimit (s : State) (die c id : Nat) (f : Prog → Prog) : (s.setProg die c id f).powerLimit = s.powerLimit := rfl
@[simp] theorem State.setProg_mirrored (s : State) (die c id : Nat) (f : Prog → Prog) : (s.setProg die c id f).mirrored = s.mirrored := rfl
@[simp] theorem State.setProg_applied (s : State) (die c id : Nat) (f : Prog → Prog) : (s.setProg die c id f).applied = s.applied := rfl
@[simp] theorem State.setProg_failedPkgs (s : State) (die c id : Nat) (f : Prog → Prog) : (s.setProg die c id f).failedPkgs = s.failedPkgs := rfl
@[simp] theorem State.setProg_stalled (s : State) (die c id : Nat) (f : Prog → Prog) : (s.setProg die c id f).stalled = s.stalled := rfl
@[simp] theorem State.setProg_podHolds (s : State) (die c id : Nat) (f : Prog → Prog) : (s.setProg die c id f).podHolds = s.podHolds := rfl
@[simp] theorem State.setProg_spares (s : State) (die c id : Nat) (f : Prog → Prog) : (s.setProg die c id f).spares = s.spares := rfl
@[simp] theorem State.setQueue_cycle (s : State) (n : Nat) (f : Queue → Queue) : (s.setQueue n f).cycle = s.cycle := rfl
@[simp] theorem State.setQueue_fresh (s : State) (n : Nat) (f : Queue → Queue) : (s.setQueue n f).fresh = s.fresh := rfl
@[simp] theorem State.setQueue_turn (s : State) (n : Nat) (f : Queue → Queue) : (s.setQueue n f).turn = s.turn := rfl
@[simp] theorem State.setQueue_agenda (s : State) (n : Nat) (f : Queue → Queue) : (s.setQueue n f).agenda = s.agenda := rfl
@[simp] theorem State.setQueue_later (s : State) (n : Nat) (f : Queue → Queue) : (s.setQueue n f).later = s.later := rfl
@[simp] theorem State.setQueue_pointers (s : State) (n : Nat) (f : Queue → Queue) : (s.setQueue n f).pointers = s.pointers := rfl
@[simp] theorem State.setQueue_matPtrs (s : State) (n : Nat) (f : Queue → Queue) : (s.setQueue n f).matPtrs = s.matPtrs := rfl
@[simp] theorem State.setQueue_reinPtrs (s : State) (n : Nat) (f : Queue → Queue) : (s.setQueue n f).reinPtrs = s.reinPtrs := rfl
@[simp] theorem State.setQueue_granted (s : State) (n : Nat) (f : Queue → Queue) : (s.setQueue n f).granted = s.granted := rfl
@[simp] theorem State.setQueue_outbox (s : State) (n : Nat) (f : Queue → Queue) : (s.setQueue n f).outbox = s.outbox := rfl
@[simp] theorem State.setQueue_pkgNum (s : State) (n : Nat) (f : Queue → Queue) : (s.setQueue n f).pkgNum = s.pkgNum := rfl
@[simp] theorem State.setQueue_pod (s : State) (n : Nat) (f : Queue → Queue) : (s.setQueue n f).pod = s.pod := rfl
@[simp] theorem State.setQueue_mem (s : State) (n : Nat) (f : Queue → Queue) : (s.setQueue n f).mem = s.mem := rfl
@[simp] theorem State.setQueue_wrote (s : State) (n : Nat) (f : Queue → Queue) : (s.setQueue n f).wrote = s.wrote := rfl
@[simp] theorem State.setQueue_poison (s : State) (n : Nat) (f : Queue → Queue) : (s.setQueue n f).poison = s.poison := rfl
@[simp] theorem State.setQueue_foreign (s : State) (n : Nat) (f : Queue → Queue) : (s.setQueue n f).foreign = s.foreign := rfl
@[simp] theorem State.setQueue_exports (s : State) (n : Nat) (f : Queue → Queue) : (s.setQueue n f).exports = s.exports := rfl
@[simp] theorem State.setQueue_tlb (s : State) (n : Nat) (f : Queue → Queue) : (s.setQueue n f).tlb = s.tlb := rfl
@[simp] theorem State.setQueue_gens (s : State) (n : Nat) (f : Queue → Queue) : (s.setQueue n f).gens = s.gens := rfl
@[simp] theorem State.setQueue_ctxs (s : State) (n : Nat) (f : Queue → Queue) : (s.setQueue n f).ctxs = s.ctxs := rfl
@[simp] theorem State.setQueue_groups (s : State) (n : Nat) (f : Queue → Queue) : (s.setQueue n f).groups = s.groups := rfl
@[simp] theorem State.setQueue_recs (s : State) (n : Nat) (f : Queue → Queue) : (s.setQueue n f).recs = s.recs := rfl
@[simp] theorem State.setQueue_ended (s : State) (n : Nat) (f : Queue → Queue) : (s.setQueue n f).ended = s.ended := rfl
@[simp] theorem State.setQueue_progs (s : State) (n : Nat) (f : Queue → Queue) : (s.setQueue n f).progs = s.progs := rfl
@[simp] theorem State.setQueue_insts (s : State) (n : Nat) (f : Queue → Queue) : (s.setQueue n f).insts = s.insts := rfl
@[simp] theorem State.setQueue_landings (s : State) (n : Nat) (f : Queue → Queue) : (s.setQueue n f).landings = s.landings := rfl
@[simp] theorem State.setQueue_signals (s : State) (n : Nat) (f : Queue → Queue) : (s.setQueue n f).signals = s.signals := rfl
@[simp] theorem State.setQueue_decs (s : State) (n : Nat) (f : Queue → Queue) : (s.setQueue n f).decs = s.decs := rfl
@[simp] theorem State.setQueue_keys (s : State) (n : Nat) (f : Queue → Queue) : (s.setQueue n f).keys = s.keys := rfl
@[simp] theorem State.setQueue_session (s : State) (n : Nat) (f : Queue → Queue) : (s.setQueue n f).session = s.session := rfl
@[simp] theorem State.setQueue_features (s : State) (n : Nat) (f : Queue → Queue) : (s.setQueue n f).features = s.features := rfl
@[simp] theorem State.setQueue_links (s : State) (n : Nat) (f : Queue → Queue) : (s.setQueue n f).links = s.links := rfl
@[simp] theorem State.setQueue_regions (s : State) (n : Nat) (f : Queue → Queue) : (s.setQueue n f).regions = s.regions := rfl
@[simp] theorem State.setQueue_qps (s : State) (n : Nat) (f : Queue → Queue) : (s.setQueue n f).qps = s.qps := rfl
@[simp] theorem State.setQueue_tolerance (s : State) (n : Nat) (f : Queue → Queue) : (s.setQueue n f).tolerance = s.tolerance := rfl
@[simp] theorem State.setQueue_pstate (s : State) (n : Nat) (f : Queue → Queue) : (s.setQueue n f).pstate = s.pstate := rfl
@[simp] theorem State.setQueue_fwPieces (s : State) (n : Nat) (f : Queue → Queue) : (s.setQueue n f).fwPieces = s.fwPieces := rfl
@[simp] theorem State.setQueue_fwNext (s : State) (n : Nat) (f : Queue → Queue) : (s.setQueue n f).fwNext = s.fwNext := rfl
@[simp] theorem State.setQueue_fwStored (s : State) (n : Nat) (f : Queue → Queue) : (s.setQueue n f).fwStored = s.fwStored := rfl
@[simp] theorem State.setQueue_fwRunning (s : State) (n : Nat) (f : Queue → Queue) : (s.setQueue n f).fwRunning = s.fwRunning := rfl
@[simp] theorem State.setQueue_errs (s : State) (n : Nat) (f : Queue → Queue) : (s.setQueue n f).errs = s.errs := rfl
@[simp] theorem State.setQueue_retired (s : State) (n : Nat) (f : Queue → Queue) : (s.setQueue n f).retired = s.retired := rfl
@[simp] theorem State.setQueue_errSelect (s : State) (n : Nat) (f : Queue → Queue) : (s.setQueue n f).errSelect = s.errSelect := rfl
@[simp] theorem State.setQueue_powerLimit (s : State) (n : Nat) (f : Queue → Queue) : (s.setQueue n f).powerLimit = s.powerLimit := rfl
@[simp] theorem State.setQueue_mirrored (s : State) (n : Nat) (f : Queue → Queue) : (s.setQueue n f).mirrored = s.mirrored := rfl
@[simp] theorem State.setQueue_applied (s : State) (n : Nat) (f : Queue → Queue) : (s.setQueue n f).applied = s.applied := rfl
@[simp] theorem State.setQueue_failedPkgs (s : State) (n : Nat) (f : Queue → Queue) : (s.setQueue n f).failedPkgs = s.failedPkgs := rfl
@[simp] theorem State.setQueue_stalled (s : State) (n : Nat) (f : Queue → Queue) : (s.setQueue n f).stalled = s.stalled := rfl
@[simp] theorem State.setQueue_podHolds (s : State) (n : Nat) (f : Queue → Queue) : (s.setQueue n f).podHolds = s.podHolds := rfl
@[simp] theorem State.setQueue_spares (s : State) (n : Nat) (f : Queue → Queue) : (s.setQueue n f).spares = s.spares := rfl
@[simp] theorem State.draw_cycle (s : State) : (s.draw).cycle = s.cycle := rfl
@[simp] theorem State.draw_turn (s : State) : (s.draw).turn = s.turn := rfl
@[simp] theorem State.draw_agenda (s : State) : (s.draw).agenda = s.agenda := rfl
@[simp] theorem State.draw_later (s : State) : (s.draw).later = s.later := rfl
@[simp] theorem State.draw_pointers (s : State) : (s.draw).pointers = s.pointers := rfl
@[simp] theorem State.draw_matPtrs (s : State) : (s.draw).matPtrs = s.matPtrs := rfl
@[simp] theorem State.draw_reinPtrs (s : State) : (s.draw).reinPtrs = s.reinPtrs := rfl
@[simp] theorem State.draw_granted (s : State) : (s.draw).granted = s.granted := rfl
@[simp] theorem State.draw_outbox (s : State) : (s.draw).outbox = s.outbox := rfl
@[simp] theorem State.draw_pkgNum (s : State) : (s.draw).pkgNum = s.pkgNum := rfl
@[simp] theorem State.draw_pod (s : State) : (s.draw).pod = s.pod := rfl
@[simp] theorem State.draw_mem (s : State) : (s.draw).mem = s.mem := rfl
@[simp] theorem State.draw_wrote (s : State) : (s.draw).wrote = s.wrote := rfl
@[simp] theorem State.draw_poison (s : State) : (s.draw).poison = s.poison := rfl
@[simp] theorem State.draw_foreign (s : State) : (s.draw).foreign = s.foreign := rfl
@[simp] theorem State.draw_exports (s : State) : (s.draw).exports = s.exports := rfl
@[simp] theorem State.draw_tlb (s : State) : (s.draw).tlb = s.tlb := rfl
@[simp] theorem State.draw_gens (s : State) : (s.draw).gens = s.gens := rfl
@[simp] theorem State.draw_ctxs (s : State) : (s.draw).ctxs = s.ctxs := rfl
@[simp] theorem State.draw_groups (s : State) : (s.draw).groups = s.groups := rfl
@[simp] theorem State.draw_recs (s : State) : (s.draw).recs = s.recs := rfl
@[simp] theorem State.draw_ended (s : State) : (s.draw).ended = s.ended := rfl
@[simp] theorem State.draw_progs (s : State) : (s.draw).progs = s.progs := rfl
@[simp] theorem State.draw_insts (s : State) : (s.draw).insts = s.insts := rfl
@[simp] theorem State.draw_landings (s : State) : (s.draw).landings = s.landings := rfl
@[simp] theorem State.draw_signals (s : State) : (s.draw).signals = s.signals := rfl
@[simp] theorem State.draw_decs (s : State) : (s.draw).decs = s.decs := rfl
@[simp] theorem State.draw_keys (s : State) : (s.draw).keys = s.keys := rfl
@[simp] theorem State.draw_session (s : State) : (s.draw).session = s.session := rfl
@[simp] theorem State.draw_features (s : State) : (s.draw).features = s.features := rfl
@[simp] theorem State.draw_queues (s : State) : (s.draw).queues = s.queues := rfl
@[simp] theorem State.draw_links (s : State) : (s.draw).links = s.links := rfl
@[simp] theorem State.draw_regions (s : State) : (s.draw).regions = s.regions := rfl
@[simp] theorem State.draw_qps (s : State) : (s.draw).qps = s.qps := rfl
@[simp] theorem State.draw_tolerance (s : State) : (s.draw).tolerance = s.tolerance := rfl
@[simp] theorem State.draw_pstate (s : State) : (s.draw).pstate = s.pstate := rfl
@[simp] theorem State.draw_fwPieces (s : State) : (s.draw).fwPieces = s.fwPieces := rfl
@[simp] theorem State.draw_fwNext (s : State) : (s.draw).fwNext = s.fwNext := rfl
@[simp] theorem State.draw_fwStored (s : State) : (s.draw).fwStored = s.fwStored := rfl
@[simp] theorem State.draw_fwRunning (s : State) : (s.draw).fwRunning = s.fwRunning := rfl
@[simp] theorem State.draw_errs (s : State) : (s.draw).errs = s.errs := rfl
@[simp] theorem State.draw_retired (s : State) : (s.draw).retired = s.retired := rfl
@[simp] theorem State.draw_errSelect (s : State) : (s.draw).errSelect = s.errSelect := rfl
@[simp] theorem State.draw_powerLimit (s : State) : (s.draw).powerLimit = s.powerLimit := rfl
@[simp] theorem State.draw_mirrored (s : State) : (s.draw).mirrored = s.mirrored := rfl
@[simp] theorem State.draw_applied (s : State) : (s.draw).applied = s.applied := rfl
@[simp] theorem State.draw_failedPkgs (s : State) : (s.draw).failedPkgs = s.failedPkgs := rfl
@[simp] theorem State.draw_stalled (s : State) : (s.draw).stalled = s.stalled := rfl
@[simp] theorem State.draw_podHolds (s : State) : (s.draw).podHolds = s.podHolds := rfl
@[simp] theorem State.draw_spares (s : State) : (s.draw).spares = s.spares := rfl
@[simp] theorem State.release_cycle (s : State) : (s.release).cycle = s.cycle := rfl
@[simp] theorem State.release_fresh (s : State) : (s.release).fresh = s.fresh := rfl
@[simp] theorem State.release_turn (s : State) : (s.release).turn = s.turn := rfl
@[simp] theorem State.release_pointers (s : State) : (s.release).pointers = s.pointers := rfl
@[simp] theorem State.release_matPtrs (s : State) : (s.release).matPtrs = s.matPtrs := rfl
@[simp] theorem State.release_reinPtrs (s : State) : (s.release).reinPtrs = s.reinPtrs := rfl
@[simp] theorem State.release_granted (s : State) : (s.release).granted = s.granted := rfl
@[simp] theorem State.release_outbox (s : State) : (s.release).outbox = s.outbox := rfl
@[simp] theorem State.release_pkgNum (s : State) : (s.release).pkgNum = s.pkgNum := rfl
@[simp] theorem State.release_pod (s : State) : (s.release).pod = s.pod := rfl
@[simp] theorem State.release_mem (s : State) : (s.release).mem = s.mem := rfl
@[simp] theorem State.release_wrote (s : State) : (s.release).wrote = s.wrote := rfl
@[simp] theorem State.release_poison (s : State) : (s.release).poison = s.poison := rfl
@[simp] theorem State.release_foreign (s : State) : (s.release).foreign = s.foreign := rfl
@[simp] theorem State.release_exports (s : State) : (s.release).exports = s.exports := rfl
@[simp] theorem State.release_tlb (s : State) : (s.release).tlb = s.tlb := rfl
@[simp] theorem State.release_gens (s : State) : (s.release).gens = s.gens := rfl
@[simp] theorem State.release_ctxs (s : State) : (s.release).ctxs = s.ctxs := rfl
@[simp] theorem State.release_groups (s : State) : (s.release).groups = s.groups := rfl
@[simp] theorem State.release_recs (s : State) : (s.release).recs = s.recs := rfl
@[simp] theorem State.release_ended (s : State) : (s.release).ended = s.ended := rfl
@[simp] theorem State.release_progs (s : State) : (s.release).progs = s.progs := rfl
@[simp] theorem State.release_insts (s : State) : (s.release).insts = s.insts := rfl
@[simp] theorem State.release_landings (s : State) : (s.release).landings = s.landings := rfl
@[simp] theorem State.release_signals (s : State) : (s.release).signals = s.signals := rfl
@[simp] theorem State.release_decs (s : State) : (s.release).decs = s.decs := rfl
@[simp] theorem State.release_keys (s : State) : (s.release).keys = s.keys := rfl
@[simp] theorem State.release_session (s : State) : (s.release).session = s.session := rfl
@[simp] theorem State.release_features (s : State) : (s.release).features = s.features := rfl
@[simp] theorem State.release_queues (s : State) : (s.release).queues = s.queues := rfl
@[simp] theorem State.release_links (s : State) : (s.release).links = s.links := rfl
@[simp] theorem State.release_regions (s : State) : (s.release).regions = s.regions := rfl
@[simp] theorem State.release_qps (s : State) : (s.release).qps = s.qps := rfl
@[simp] theorem State.release_tolerance (s : State) : (s.release).tolerance = s.tolerance := rfl
@[simp] theorem State.release_pstate (s : State) : (s.release).pstate = s.pstate := rfl
@[simp] theorem State.release_fwPieces (s : State) : (s.release).fwPieces = s.fwPieces := rfl
@[simp] theorem State.release_fwNext (s : State) : (s.release).fwNext = s.fwNext := rfl
@[simp] theorem State.release_fwStored (s : State) : (s.release).fwStored = s.fwStored := rfl
@[simp] theorem State.release_fwRunning (s : State) : (s.release).fwRunning = s.fwRunning := rfl
@[simp] theorem State.release_errs (s : State) : (s.release).errs = s.errs := rfl
@[simp] theorem State.release_retired (s : State) : (s.release).retired = s.retired := rfl
@[simp] theorem State.release_errSelect (s : State) : (s.release).errSelect = s.errSelect := rfl
@[simp] theorem State.release_powerLimit (s : State) : (s.release).powerLimit = s.powerLimit := rfl
@[simp] theorem State.release_mirrored (s : State) : (s.release).mirrored = s.mirrored := rfl
@[simp] theorem State.release_applied (s : State) : (s.release).applied = s.applied := rfl
@[simp] theorem State.release_failedPkgs (s : State) : (s.release).failedPkgs = s.failedPkgs := rfl
@[simp] theorem State.release_stalled (s : State) : (s.release).stalled = s.stalled := rfl
@[simp] theorem State.release_podHolds (s : State) : (s.release).podHolds = s.podHolds := rfl
@[simp] theorem State.release_spares (s : State) : (s.release).spares = s.spares := rfl
@[simp] theorem State.setGroup_ctx? (s : State) (p : Place) (f : Group → Group) (c : Nat) : (s.setGroup p f).ctx? c = s.ctx? c := rfl
@[simp] theorem State.setCtx_group? (s : State) (c : Nat) (f : Ctx → Ctx) (p : Place) : (s.setCtx c f).group? p = s.group? p := rfl
@[simp] theorem State.setGroup_rec? (s : State) (p : Place) (f : Group → Group) (die idx : Nat) : (s.setGroup p f).rec? die idx = s.rec? die idx := rfl
@[simp] theorem State.setCtx_rec? (s : State) (c : Nat) (f : Ctx → Ctx) (die idx : Nat) : (s.setCtx c f).rec? die idx = s.rec? die idx := rfl
@[simp] theorem State.setRec_group? (s : State) (die idx : Nat) (f : TaskRec → TaskRec) (p : Place) : (s.setRec die idx f).group? p = s.group? p := rfl
@[simp] theorem State.setRec_ctx? (s : State) (die idx : Nat) (f : TaskRec → TaskRec) (c : Nat) : (s.setRec die idx f).ctx? c = s.ctx? c := rfl
@[simp] theorem State.release_group? (s : State) (p : Place) : (s.release).group? p = s.group? p := rfl
@[simp] theorem State.release_ctx? (s : State) (c : Nat) : (s.release).ctx? c = s.ctx? c := rfl
@[simp] theorem State.draw_group? (s : State) (p : Place) : (s.draw).group? p = s.group? p := rfl
@[simp] theorem State.draw_ctx? (s : State) (c : Nat) : (s.draw).ctx? c = s.ctx? c := rfl

end Sys2Proof.Machine
end

