-- ==== Sys2Proof/Laws/Settle.lean ====
section
/-!
SUPPORT. Laws/Settle.lean: what settling an instruction can do, and what the shared operations on groups leave alone.
-/
namespace Sys2Proof.Machine

/-! ## Settling (07 R145) -/

/-- An instruction without a running block under its turn stops. -/
theorem settle_noBlock {i : Instr} {s : State} {f : Env → Fire} (h : s.turnNode = none) : settle i s f = .fault .noBlock := by
  simp [settle, h]

/-- A guard that lets no lane execute, or a wholly void operand, nullifies. -/
theorem settle_null {i : Instr} {s : State} {f : Env → Fire} {g : Group} {r : BlockRun} {n : Node}
    (h : s.turnNode = some (g, r, n))
    (hv : guardLanes g.shape.lanes (ctlOf i).guard n.g = none ∨ (dataTokens i n).any (Token.voidAll g.shape.lanes) = true) :
    settle i s f = .next (s.resolveVoid g.place i) := by
  simp only [settle, h]
  split
  · rfl
  · rename_i e
    rcases hv with hv | hv
    · simp [hv] at e
    · simp [hv]

/-- An instruction that may fire does what its firing says. -/
theorem settle_fire {i : Instr} {s : State} {f : Env → Fire} {g : Group} {r : BlockRun} {n : Node} {ls : List Nat}
    (h : s.turnNode = some (g, r, n)) (hg : guardLanes g.shape.lanes (ctlOf i).guard n.g = some ls)
    (hd : ∀ t ∈ dataTokens i n, t.voidAll g.shape.lanes = false) :
    settle i s f = match f ⟨s, g, r, n, i, ls⟩ with
      | .ok x => .next (State.resolveFired g.place i x)
      | .wait => .next (s.resolveWait g.place (decide (g.fails = 0)))
      | .queue pa k pt => .next (s.resolveQueue g.place (decide (g.fails = 0)) pa k pt)
      | .fault c va acc => .next (s.resolveFault g.place (.faulted ⟨c, va, acc⟩))
      | .touch va acc => .next (s.resolveFault g.place (.touched va acc)) := by
  have hd' : (dataTokens i n).any (Token.voidAll g.shape.lanes) = false := by
    simpa [List.any_eq_false] using hd
  simp only [settle, h, hg, hd', Bool.false_eq_true, if_false]
  all_goals cases f ⟨s, g, r, n, i, ls⟩ <;> rfl

/-- Everything that settling an instruction can come to. -/
theorem settle_cases {i : Instr} {s t : State} {f : Env → Fire} (h : settle i s f = .next t) :
    ∃ g r n, s.turnNode = some (g, r, n) ∧
      (t = s.resolveVoid g.place i ∨
        ∃ ls, guardLanes g.shape.lanes (ctlOf i).guard n.g = some ls ∧
          ((∃ x, f ⟨s, g, r, n, i, ls⟩ = .ok x ∧ t = State.resolveFired g.place i x) ∨
            (f ⟨s, g, r, n, i, ls⟩ = .wait ∧ t = s.resolveWait g.place (decide (g.fails = 0))) ∨
            (∃ pa k pt, f ⟨s, g, r, n, i, ls⟩ = .queue pa k pt ∧ t = s.resolveQueue g.place (decide (g.fails = 0)) pa k pt) ∨
            (∃ c va acc, f ⟨s, g, r, n, i, ls⟩ = .fault c va acc ∧ t = s.resolveFault g.place (.faulted ⟨c, va, acc⟩)) ∨
            (∃ va acc, f ⟨s, g, r, n, i, ls⟩ = .touch va acc ∧ t = s.resolveFault g.place (.touched va acc)))) := by
  unfold settle at h
  split at h
  · cases h
  · rename_i g r n hn
    refine ⟨g, r, n, hn, ?_⟩
    split at h
    · exact .inl (by simpa using h.symm)
    · rename_i ls hg
      split at h
      · exact .inl (by simpa using h.symm)
      · refine .inr ⟨ls, hg, ?_⟩
        split at h <;> rename_i e <;> simp only [Host.Outcome.next.injEq] at h
        · exact .inl ⟨_, e, h.symm⟩
        · exact .inr (.inl ⟨e, h.symm⟩)
        · exact .inr (.inr (.inl ⟨_, _, _, e, h.symm⟩))
        · exact .inr (.inr (.inr (.inl ⟨_, _, _, e, h.symm⟩)))
        · exact .inr (.inr (.inr (.inr ⟨_, _, e, h.symm⟩)))

/-- Settling answers a next state wherever the turn stands at a running block. -/
theorem settle_answers {i : Instr} {s : State} {f : Env → Fire} {x : Group × BlockRun × Node} (h : s.turnNode = some x) :
    ∃ t, settle i s f = .next t := by
  obtain ⟨g, r, n⟩ := x
  simp only [settle, h]
  split
  · exact ⟨_, rfl⟩
  · split
    · exact ⟨_, rfl⟩
    · split <;> exact ⟨_, rfl⟩

/-! ## Changing a running block -/

/-- A change of the running block changes no other field of any group. -/
theorem State.setRun_groups (s : State) (p : Place) (f : BlockRun → BlockRun) :
    ((s.setRun p f).groups.map fun g => { g with run := none }) = s.groups.map fun g => { g with run := none } :=
  map_updFirst (by intro _; rfl) _

/-- A change of the running block of a group is found in the group. -/
theorem State.group?_setRun (s : State) (p : Place) (f : BlockRun → BlockRun) :
    (s.setRun p f).group? p = (s.group? p).map fun g => { g with run := g.run.map f } := State.group?_setGroup (by intro _; rfl)

/-- Another group is found as before. -/
theorem State.group?_setRun_ne {s : State} {p q : Place} (f : BlockRun → BlockRun) (h : q ≠ p) :
    (s.setRun p f).group? q = s.group? q := State.group?_setGroup_ne h (by intro _; rfl)

/-! ## Traps (14 R276, R280) -/

/-- What a block that ends gives up at other packages changes only what is sent. -/
theorem State.unask_eq (s : State) (g : Group) :
    s.unask g = { s with outbox := (s.unask g).outbox, stalled := (s.unask g).stalled } := by
  unfold State.unask
  split
  · rfl
  · refine foldl_keeps (P := fun (x : State) => x = { s with outbox := x.outbox, stalled := x.stalled }) (fun x n h => ?_) rfl
    split
    · rw [h, State.toPod]
      split <;> rfl
    · exact h

/-- It changes no group. -/
@[simp] theorem State.unask_group? (s : State) (g : Group) (p : Place) : (s.unask g).group? p = s.group? p := by
  rw [State.unask_eq]
  rfl

/-- It changes no context. -/
@[simp] theorem State.unask_ctx? (s : State) (g : Group) (c : Nat) : (s.unask g).ctx? c = s.ctx? c := by
  rw [State.unask_eq]
  rfl

/-- It changes no byte of memory. -/
@[simp] theorem State.unask_mem (s : State) (g : Group) : (s.unask g).mem = s.mem := by rw [State.unask_eq]

/-- What a trap does to its group. -/
theorem State.group?_takeTrap {s : State} {p : Place} {t : Trap} {rs : Resume} {g : Group} (h : s.group? p = some g) :
    (s.takeTrap p t rs).group? p = some { g with
      phase := .parked rs false, run := none, ahead := none, grace := false, fails := 0
      cause := wordN (t.cause + t.idx * 2 ^ 16), faultva := if hasAddr t.cause then wordN t.va else 0 } := by
  simp only [State.takeTrap, h, State.release_group?]
  rw [State.group?_setGroup (by intro _; rfl)]
  simp [h]

/-- What a trap leaves to other groups. -/
theorem State.group?_takeTrap_ne {s : State} {p q : Place} {t : Trap} {rs : Resume} (h : q ≠ p) :
    (s.takeTrap p t rs).group? q = s.group? q := by
  unfold State.takeTrap
  split
  · rfl
  · simp only [State.release_group?]
    rw [State.group?_setGroup_ne h (by intro _; rfl)]
    simp

/-- A trap changes no byte of memory. -/
@[simp] theorem State.takeTrap_mem (s : State) (p : Place) (t : Trap) (rs : Resume) : (s.takeTrap p t rs).mem = s.mem := by
  unfold State.takeTrap
  split
  · rfl
  · exact State.unask_mem _ _

/-- What a trap gives its context. -/
theorem State.ctx?_takeTrap {s : State} {p : Place} {t : Trap} {rs : Resume} {g : Group} {x : Ctx} (h : s.group? p = some g)
    (hx : s.ctx? g.ctx = some x) :
    (s.takeTrap p t rs).ctx? g.ctx = some { x with held := x.held ++ [⟨s.trapWords g t rs, some p, g.handler⟩] } := by
  simp only [State.takeTrap, h, State.release_ctx?, State.setGroup_ctx?]
  rw [State.ctx?_setCtx (by intro _; rfl)]
  simp [hx]

/-! ## Addresses -/

/-- An engine's or instruction's checks: nothing fails exactly when no fault is listed. -/
theorem checked_nil (k : Fire) : checked [] k = k := rfl

/-- A global access goes on exactly with a checked, translated address. -/
theorem Env.glob_ok {e : Env} {a n pa : Nat} {acc : Access} {k : Nat → Fire} (h : a < 2 ^ 56) (hn : a % n = 0)
    (ht : e.s.translate e.g.ctx a acc = .ok pa) : e.glob a n acc k = k pa := by
  have : gaddrCause a n = none := by
    unfold gaddrCause
    have h1 : ¬ 2 ^ 56 ≤ a := by omega
    rw [if_neg h1, if_neg (by simpa using hn)]
  simp [Env.glob, this, ht]

/-- A scratch access goes on exactly with a checked address. -/
theorem Env.scr_ok {e : Env} {peer : Bool} {tok : Word} {off : BitVec 24} {n align : Nat} {k : ScrAt → Fire} {a : ScrAt}
    (h : e.s.saddr e.g peer tok off n align = .ok a) : e.scr peer tok off n align k = k a := by
  simp [Env.scr, h]

/-- A scratch load goes on once the lower accesses have resolved and no byte is poisoned. -/
theorem Env.scrLoad_ok {e : Env} {a : ScrAt} {n : Nat} {k : List Byte → Fire} (h : e.loadReady = true)
    (hp : (e.readScr a n).2 = none) : e.scrLoad a n k = k (e.readScr a n).1 := by
  unfold Env.scrLoad
  rw [if_neg (by simp [h])]
  generalize e.readScr a n = x at hp
  obtain ⟨bs, o⟩ := x
  cases hp
  rfl

end Sys2Proof.Machine
end

