-- ==== Sys2Proof/Laws/Dispatch.lean ====
section
/-!
SUPPORT. Laws/Dispatch.lean: the shape of every meaning: a tile instruction settles, an event answers a next state.
-/
namespace Sys2Proof.Machine

/-! ## Tile instructions settle -/

theorem execRead_settles (c : Ctl) (t : ITy) (r : RReg) : ∃ F : Env → Fire, ∀ σ, execRead c t r σ = settle (.read c t r) σ F := by
  unfold execRead; exact ⟨_, fun _ => rfl⟩
theorem execWrite_settles (c : Ctl) (t : ITy) (r : WReg) : ∃ F : Env → Fire, ∀ σ, execWrite c t r σ = settle (.write c t r) σ F := by
  unfold execWrite; exact ⟨_, fun _ => rfl⟩
theorem execMov_settles (c : Ctl) (t : ITy) : ∃ F : Env → Fire, ∀ σ, execMov c t σ = settle (.mov c t) σ F := by
  unfold execMov; exact ⟨_, fun _ => rfl⟩
theorem execFan_settles (t : ITy) (t0 t1 t2 t3 : Tgt) : ∃ F : Env → Fire, ∀ σ, execFan t t0 t1 t2 t3 σ = settle (.fan t t0 t1 t2 t3) σ F := by
  unfold execFan; exact ⟨_, fun _ => rfl⟩
theorem execMovi_settles (c : Ctl) (t : ITy) (imm : BitVec 32) : ∃ F : Env → Fire, ∀ σ, execMovi c t imm σ = settle (.movi c t imm) σ F := by
  unfold execMovi; exact ⟨_, fun _ => rfl⟩
theorem execMovl_settles (c : Ctl) (t : ITy) (lit : BitVec 4) : ∃ F : Env → Fire, ∀ σ, execMovl c t lit σ = settle (.movl c t lit) σ F := by
  unfold execMovl; exact ⟨_, fun _ => rfl⟩
theorem execVoid_settles (t : ITy) (t0 t1 : Tgt) : ∃ F : Env → Fire, ∀ σ, execVoid t t0 t1 σ = settle (.void t t0 t1) σ F := by
  unfold execVoid; exact ⟨_, fun _ => rfl⟩
theorem execSel_settles (c : Ctl) (t : ITy) : ∃ F : Env → Fire, ∀ σ, execSel c t σ = settle (.sel c t) σ F := by
  unfold execSel; exact ⟨_, fun _ => rfl⟩
theorem execAdd_settles (c : Ctl) (t : ITy) (f : SatForm) : ∃ F : Env → Fire, ∀ σ, execAdd c t f σ = settle (.add c t f) σ F := by
  unfold execAdd; exact ⟨_, fun _ => rfl⟩
theorem execSub_settles (c : Ctl) (t : ITy) (f : SatForm) : ∃ F : Env → Fire, ∀ σ, execSub c t f σ = settle (.sub c t f) σ F := by
  unfold execSub; exact ⟨_, fun _ => rfl⟩
theorem execMul_settles (c : Ctl) (t : ITy) (f : SatForm) : ∃ F : Env → Fire, ∀ σ, execMul c t f σ = settle (.mul c t f) σ F := by
  unfold execMul; exact ⟨_, fun _ => rfl⟩
theorem execMulh_settles (c : Ctl) (t : ITy) (f : SForm) : ∃ F : Env → Fire, ∀ σ, execMulh c t f σ = settle (.mulh c t f) σ F := by
  unfold execMulh; exact ⟨_, fun _ => rfl⟩
theorem execMad_settles (c : Ctl) (t : ITy) (f : MadForm) : ∃ F : Env → Fire, ∀ σ, execMad c t f σ = settle (.mad c t f) σ F := by
  unfold execMad; exact ⟨_, fun _ => rfl⟩
theorem execDiv_settles (c : Ctl) (t : ITy) (f : SatForm) : ∃ F : Env → Fire, ∀ σ, execDiv c t f σ = settle (.div c t f) σ F := by
  unfold execDiv; exact ⟨_, fun _ => rfl⟩
theorem execRem_settles (c : Ctl) (t : ITy) (f : SatForm) : ∃ F : Env → Fire, ∀ σ, execRem c t f σ = settle (.rem c t f) σ F := by
  unfold execRem; exact ⟨_, fun _ => rfl⟩
theorem execNeg_settles (c : Ctl) (t : ITy) (sat : Bool) : ∃ F : Env → Fire, ∀ σ, execNeg c t sat σ = settle (.neg c t sat) σ F := by
  unfold execNeg; exact ⟨_, fun _ => rfl⟩
theorem execAbs_settles (c : Ctl) (t : ITy) (sat : Bool) : ∃ F : Env → Fire, ∀ σ, execAbs c t sat σ = settle (.abs c t sat) σ F := by
  unfold execAbs; exact ⟨_, fun _ => rfl⟩
theorem execMin_settles (c : Ctl) (t : ITy) (f : SForm) : ∃ F : Env → Fire, ∀ σ, execMin c t f σ = settle (.min c t f) σ F := by
  unfold execMin; exact ⟨_, fun _ => rfl⟩
theorem execMax_settles (c : Ctl) (t : ITy) (f : SForm) : ∃ F : Env → Fire, ∀ σ, execMax c t f σ = settle (.max c t f) σ F := by
  unfold execMax; exact ⟨_, fun _ => rfl⟩
theorem execAnd_settles (c : Ctl) (t : ITy) (f : SForm) : ∃ F : Env → Fire, ∀ σ, execAnd c t f σ = settle (.and c t f) σ F := by
  unfold execAnd; exact ⟨_, fun _ => rfl⟩
theorem execOr_settles (c : Ctl) (t : ITy) (f : SForm) : ∃ F : Env → Fire, ∀ σ, execOr c t f σ = settle (.or c t f) σ F := by
  unfold execOr; exact ⟨_, fun _ => rfl⟩
theorem execXor_settles (c : Ctl) (t : ITy) (f : SForm) : ∃ F : Env → Fire, ∀ σ, execXor c t f σ = settle (.xor c t f) σ F := by
  unfold execXor; exact ⟨_, fun _ => rfl⟩
theorem execNot_settles (c : Ctl) (t : ITy) : ∃ F : Env → Fire, ∀ σ, execNot c t σ = settle (.not c t) σ F := by
  unfold execNot; exact ⟨_, fun _ => rfl⟩
theorem execShl_settles (c : Ctl) (t : ITy) (f : SForm) : ∃ F : Env → Fire, ∀ σ, execShl c t f σ = settle (.shl c t f) σ F := by
  unfold execShl; exact ⟨_, fun _ => rfl⟩
theorem execShr_settles (c : Ctl) (t : ITy) (f : SForm) : ∃ F : Env → Fire, ∀ σ, execShr c t f σ = settle (.shr c t f) σ F := by
  unfold execShr; exact ⟨_, fun _ => rfl⟩
theorem execSra_settles (c : Ctl) (t : ITy) (f : SForm) : ∃ F : Env → Fire, ∀ σ, execSra c t f σ = settle (.sra c t f) σ F := by
  unfold execSra; exact ⟨_, fun _ => rfl⟩
theorem execRot_settles (c : Ctl) (t : ITy) (f : SForm) : ∃ F : Env → Fire, ∀ σ, execRot c t f σ = settle (.rot c t f) σ F := by
  unfold execRot; exact ⟨_, fun _ => rfl⟩
theorem execClz_settles (c : Ctl) (t : ITy) : ∃ F : Env → Fire, ∀ σ, execClz c t σ = settle (.clz c t) σ F := by
  unfold execClz; exact ⟨_, fun _ => rfl⟩
theorem execPopc_settles (c : Ctl) (t : ITy) : ∃ F : Env → Fire, ∀ σ, execPopc c t σ = settle (.popc c t) σ F := by
  unfold execPopc; exact ⟨_, fun _ => rfl⟩
theorem execBfx_settles (c : Ctl) (t : ITy) (f : BfForm) : ∃ F : Env → Fire, ∀ σ, execBfx c t f σ = settle (.bfx c t f) σ F := by
  unfold execBfx; exact ⟨_, fun _ => rfl⟩
theorem execBfi_settles (c : Ctl) (t : ITy) (f : BfForm) : ∃ F : Env → Fire, ∀ σ, execBfi c t f σ = settle (.bfi c t f) σ F := by
  unfold execBfi; exact ⟨_, fun _ => rfl⟩
theorem execLea_settles (c : Ctl) (t : ITy) (f : SForm) : ∃ F : Env → Fire, ∀ σ, execLea c t f σ = settle (.lea c t f) σ F := by
  unfold execLea; exact ⟨_, fun _ => rfl⟩
theorem execSext_settles (c : Ctl) (t : ITy) : ∃ F : Env → Fire, ∀ σ, execSext c t σ = settle (.sext c t) σ F := by
  unfold execSext; exact ⟨_, fun _ => rfl⟩
theorem execZext_settles (c : Ctl) (t : ITy) : ∃ F : Env → Fire, ∀ σ, execZext c t σ = settle (.zext c t) σ F := by
  unfold execZext; exact ⟨_, fun _ => rfl⟩
theorem execCmp_settles (c : Ctl) (cond : Cond) (t : ITy) (f : SForm) : ∃ F : Env → Fire, ∀ σ, execCmp c cond t f σ = settle (.cmp c cond t f) σ F := by
  unfold execCmp; exact ⟨_, fun _ => rfl⟩
theorem execPand_settles (c : Ctl) : ∃ F : Env → Fire, ∀ σ, execPand c σ = settle (.pand c) σ F := by
  unfold execPand; exact ⟨_, fun _ => rfl⟩
theorem execPor_settles (c : Ctl) : ∃ F : Env → Fire, ∀ σ, execPor c σ = settle (.por c) σ F := by
  unfold execPor; exact ⟨_, fun _ => rfl⟩
theorem execPxor_settles (c : Ctl) : ∃ F : Env → Fire, ∀ σ, execPxor c σ = settle (.pxor c) σ F := by
  unfold execPxor; exact ⟨_, fun _ => rfl⟩
theorem execPnot_settles (c : Ctl) : ∃ F : Env → Fire, ∀ σ, execPnot c σ = settle (.pnot c) σ F := by
  unfold execPnot; exact ⟨_, fun _ => rfl⟩
theorem execPlane_settles (c : Ctl) (imm : BitVec 8) : ∃ F : Env → Fire, ∀ σ, execPlane c imm σ = settle (.plane c imm) σ F := by
  unfold execPlane; exact ⟨_, fun _ => rfl⟩
theorem execPcount_settles (c : Ctl) : ∃ F : Env → Fire, ∀ σ, execPcount c σ = settle (.pcount c) σ F := by
  unfold execPcount; exact ⟨_, fun _ => rfl⟩
theorem execBr_settles (c : Ctl) : ∃ F : Env → Fire, ∀ σ, execBr c σ = settle (.br c) σ F := by
  unfold execBr; exact ⟨_, fun _ => rfl⟩
theorem execBri_settles (c : Ctl) (off : BitVec 32) : ∃ F : Env → Fire, ∀ σ, execBri c off σ = settle (.bri c off) σ F := by
  unfold execBri; exact ⟨_, fun _ => rfl⟩
theorem execCall_settles (c : Ctl) (off : BitVec 32) : ∃ F : Env → Fire, ∀ σ, execCall c off σ = settle (.call c off) σ F := by
  unfold execCall; exact ⟨_, fun _ => rfl⟩
theorem execRet_settles (c : Ctl) : ∃ F : Env → Fire, ∀ σ, execRet c σ = settle (.ret c) σ F := by
  unfold execRet; exact ⟨_, fun _ => rfl⟩
theorem execEndg_settles (c : Ctl) : ∃ F : Env → Fire, ∀ σ, execEndg c σ = settle (.endg c) σ F := by
  unfold execEndg; exact ⟨_, fun _ => rfl⟩
theorem execTrap_settles (c : Ctl) (n : BitVec 6) : ∃ F : Env → Fire, ∀ σ, execTrap c n σ = settle (.trap c n) σ F := by
  unfold execTrap; exact ⟨_, fun _ => rfl⟩
theorem execVadd_settles (c : Ctl) (t : ETy) (f : VForm) (m : VMods) : ∃ F : Env → Fire, ∀ σ, execVadd c t f m σ = settle (.vadd c t f m) σ F := by
  unfold execVadd; exact ⟨_, fun _ => rfl⟩
theorem execVsub_settles (c : Ctl) (t : ETy) (f : VForm) (m : VMods) : ∃ F : Env → Fire, ∀ σ, execVsub c t f m σ = settle (.vsub c t f m) σ F := by
  unfold execVsub; exact ⟨_, fun _ => rfl⟩
theorem execVmul_settles (c : Ctl) (t : ETy) (f : VForm) (m : VMods) : ∃ F : Env → Fire, ∀ σ, execVmul c t f m σ = settle (.vmul c t f m) σ F := by
  unfold execVmul; exact ⟨_, fun _ => rfl⟩
theorem execVdiv_settles (c : Ctl) (t : FTy) (f : VForm) (m : VMods) : ∃ F : Env → Fire, ∀ σ, execVdiv c t f m σ = settle (.vdiv c t f m) σ F := by
  unfold execVdiv; exact ⟨_, fun _ => rfl⟩
theorem execVmin_settles (c : Ctl) (t : ETy) (f : VForm) (mask : MaskUse) : ∃ F : Env → Fire, ∀ σ, execVmin c t f mask σ = settle (.vmin c t f mask) σ F := by
  unfold execVmin; exact ⟨_, fun _ => rfl⟩
theorem execVmax_settles (c : Ctl) (t : ETy) (f : VForm) (mask : MaskUse) : ∃ F : Env → Fire, ∀ σ, execVmax c t f mask σ = settle (.vmax c t f mask) σ F := by
  unfold execVmax; exact ⟨_, fun _ => rfl⟩
theorem execVand_settles (c : Ctl) (t : ITy) (f : VForm) (mask : MaskUse) : ∃ F : Env → Fire, ∀ σ, execVand c t f mask σ = settle (.vand c t f mask) σ F := by
  unfold execVand; exact ⟨_, fun _ => rfl⟩
theorem execVor_settles (c : Ctl) (t : ITy) (f : VForm) (mask : MaskUse) : ∃ F : Env → Fire, ∀ σ, execVor c t f mask σ = settle (.vor c t f mask) σ F := by
  unfold execVor; exact ⟨_, fun _ => rfl⟩
theorem execVxor_settles (c : Ctl) (t : ITy) (f : VForm) (mask : MaskUse) : ∃ F : Env → Fire, ∀ σ, execVxor c t f mask σ = settle (.vxor c t f mask) σ F := by
  unfold execVxor; exact ⟨_, fun _ => rfl⟩
theorem execVshl_settles (c : Ctl) (t : ITy) (f : VForm) (mask : MaskUse) : ∃ F : Env → Fire, ∀ σ, execVshl c t f mask σ = settle (.vshl c t f mask) σ F := by
  unfold execVshl; exact ⟨_, fun _ => rfl⟩
theorem execVshr_settles (c : Ctl) (t : ITy) (f : VForm) (mask : MaskUse) : ∃ F : Env → Fire, ∀ σ, execVshr c t f mask σ = settle (.vshr c t f mask) σ F := by
  unfold execVshr; exact ⟨_, fun _ => rfl⟩
theorem execVsra_settles (c : Ctl) (t : ITy) (f : VForm) (mask : MaskUse) : ∃ F : Env → Fire, ∀ σ, execVsra c t f mask σ = settle (.vsra c t f mask) σ F := by
  unfold execVsra; exact ⟨_, fun _ => rfl⟩
theorem execVcmp_settles (c : Ctl) (cond : Cond) (t : ETy) (f : VForm) (mask : MaskUse) : ∃ F : Env → Fire, ∀ σ, execVcmp c cond t f mask σ = settle (.vcmp c cond t f mask) σ F := by
  unfold execVcmp; exact ⟨_, fun _ => rfl⟩
theorem execVfma_settles (c : Ctl) (t : FTy) (rnd : Rnd) (sat : Bool) : ∃ F : Env → Fire, ∀ σ, execVfma c t rnd sat σ = settle (.vfma c t rnd sat) σ F := by
  unfold execVfma; exact ⟨_, fun _ => rfl⟩
theorem execVabs_settles (c : Ctl) (t : ETy) (sat : Bool) (mask : MaskUse) : ∃ F : Env → Fire, ∀ σ, execVabs c t sat mask σ = settle (.vabs c t sat mask) σ F := by
  unfold execVabs; exact ⟨_, fun _ => rfl⟩
theorem execVneg_settles (c : Ctl) (t : ETy) (sat : Bool) (mask : MaskUse) : ∃ F : Env → Fire, ∀ σ, execVneg c t sat mask σ = settle (.vneg c t sat mask) σ F := by
  unfold execVneg; exact ⟨_, fun _ => rfl⟩
theorem execVnot_settles (c : Ctl) (t : ITy) (mask : MaskUse) : ∃ F : Env → Fire, ∀ σ, execVnot c t mask σ = settle (.vnot c t mask) σ F := by
  unfold execVnot; exact ⟨_, fun _ => rfl⟩
theorem execVsel_settles (c : Ctl) (t : ITy) : ∃ F : Env → Fire, ∀ σ, execVsel c t σ = settle (.vsel c t) σ F := by
  unfold execVsel; exact ⟨_, fun _ => rfl⟩
theorem execVcvt_settles (c : Ctl) (dst src : ETy) (m : VMods) : ∃ F : Env → Fire, ∀ σ, execVcvt c dst src m σ = settle (.vcvt c dst src m) σ F := by
  unfold execVcvt; exact ⟨_, fun _ => rfl⟩
theorem execVsqrt_settles (c : Ctl) (t : FTy) (m : VMods) : ∃ F : Env → Fire, ∀ σ, execVsqrt c t m σ = settle (.vsqrt c t m) σ F := by
  unfold execVsqrt; exact ⟨_, fun _ => rfl⟩
theorem execVrcp_settles (c : Ctl) (t : FTy) (m : VMods) : ∃ F : Env → Fire, ∀ σ, execVrcp c t m σ = settle (.vrcp c t m) σ F := by
  unfold execVrcp; exact ⟨_, fun _ => rfl⟩
theorem execVrsqrte_settles (c : Ctl) (t : FTy) (mask : MaskUse) : ∃ F : Env → Fire, ∀ σ, execVrsqrte c t mask σ = settle (.vrsqrte c t mask) σ F := by
  unfold execVrsqrte; exact ⟨_, fun _ => rfl⟩
theorem execVexp2_settles (c : Ctl) (t : FTy) (m : VMods) : ∃ F : Env → Fire, ∀ σ, execVexp2 c t m σ = settle (.vexp2 c t m) σ F := by
  unfold execVexp2; exact ⟨_, fun _ => rfl⟩
theorem execVlog2_settles (c : Ctl) (t : FTy) (m : VMods) : ∃ F : Env → Fire, ∀ σ, execVlog2 c t m σ = settle (.vlog2 c t m) σ F := by
  unfold execVlog2; exact ⟨_, fun _ => rfl⟩
theorem execVtanh_settles (c : Ctl) (t : FTy) (mask : MaskUse) : ∃ F : Env → Fire, ∀ σ, execVtanh c t mask σ = settle (.vtanh c t mask) σ F := by
  unfold execVtanh; exact ⟨_, fun _ => rfl⟩
theorem execVreduce_settles (c : Ctl) (t : ETy) (kind : Red) (m : VMods) : ∃ F : Env → Fire, ∀ σ, execVreduce c t kind m σ = settle (.vreduce c t kind m) σ F := by
  unfold execVreduce; exact ⟨_, fun _ => rfl⟩
theorem execVscan_settles (c : Ctl) (t : ETy) (kind : Red) (m : VMods) : ∃ F : Env → Fire, ∀ σ, execVscan c t kind m σ = settle (.vscan c t kind m) σ F := by
  unfold execVscan; exact ⟨_, fun _ => rfl⟩
theorem execVperm_settles (c : Ctl) (t : ITy) (mask : MaskUse) : ∃ F : Env → Fire, ∀ σ, execVperm c t mask σ = settle (.vperm c t mask) σ F := by
  unfold execVperm; exact ⟨_, fun _ => rfl⟩
theorem execVxlane_settles (c : Ctl) (t : ITy) : ∃ F : Env → Fire, ∀ σ, execVxlane c t σ = settle (.vxlane c t) σ F := by
  unfold execVxlane; exact ⟨_, fun _ => rfl⟩
theorem execVbcast_settles (c : Ctl) (t : ITy) (mask : MaskUse) : ∃ F : Env → Fire, ∀ σ, execVbcast c t mask σ = settle (.vbcast c t mask) σ F := by
  unfold execVbcast; exact ⟨_, fun _ => rfl⟩
theorem execVextr_settles (c : Ctl) (t : ITy) : ∃ F : Env → Fire, ∀ σ, execVextr c t σ = settle (.vextr c t) σ F := by
  unfold execVextr; exact ⟨_, fun _ => rfl⟩
theorem execVins_settles (c : Ctl) (t : ITy) : ∃ F : Env → Fire, ∀ σ, execVins c t σ = settle (.vins c t) σ F := by
  unfold execVins; exact ⟨_, fun _ => rfl⟩
theorem execViota_settles (c : Ctl) (t : ITy) (mask : MaskUse) : ∃ F : Env → Fire, ∀ σ, execViota c t mask σ = settle (.viota c t mask) σ F := by
  unfold execViota; exact ⟨_, fun _ => rfl⟩
theorem execVsortk_settles (c : Ctl) (t : ETy) (mask : MaskUse) : ∃ F : Env → Fire, ∀ σ, execVsortk c t mask σ = settle (.vsortk c t mask) σ F := by
  unfold execVsortk; exact ⟨_, fun _ => rfl⟩
theorem execVmerge_settles (c : Ctl) (t : ETy) : ∃ F : Env → Fire, ∀ σ, execVmerge c t σ = settle (.vmerge c t) σ F := by
  unfold execVmerge; exact ⟨_, fun _ => rfl⟩
theorem execKany_settles (c : Ctl) (t : ITy) : ∃ F : Env → Fire, ∀ σ, execKany c t σ = settle (.kany c t) σ F := by
  unfold execKany; exact ⟨_, fun _ => rfl⟩
theorem execKall_settles (c : Ctl) (t : ITy) : ∃ F : Env → Fire, ∀ σ, execKall c t σ = settle (.kall c t) σ F := by
  unfold execKall; exact ⟨_, fun _ => rfl⟩
theorem execKpop_settles (c : Ctl) (t : ITy) : ∃ F : Env → Fire, ∀ σ, execKpop c t σ = settle (.kpop c t) σ F := by
  unfold execKpop; exact ⟨_, fun _ => rfl⟩
theorem execMma_settles (c : Ctl) (t : FTy) (o : MmaOps) : ∃ F : Env → Fire, ∀ σ, execMma c t o σ = settle (.mma c t o) σ F := by
  unfold execMma; exact ⟨_, fun _ => rfl⟩
theorem execMmaG_settles (c : Ctl) (t : FTy) (o : MmaOps) : ∃ F : Env → Fire, ∀ σ, execMmaG c t o σ = settle (.mmaG c t o) σ F := by
  unfold execMmaG; exact ⟨_, fun _ => rfl⟩
theorem execMmas_settles (c : Ctl) (t : FTy) (o : MmaOps) : ∃ F : Env → Fire, ∀ σ, execMmas c t o σ = settle (.mmas c t o) σ F := by
  unfold execMmas; exact ⟨_, fun _ => rfl⟩
theorem execMzero_settles (c : Ctl) (lsid : BitVec 5) (accs : BitVec 16) : ∃ F : Env → Fire, ∀ σ, execMzero c lsid accs σ = settle (.mzero c lsid accs) σ F := by
  unfold execMzero; exact ⟨_, fun _ => rfl⟩
theorem execMld_settles (c : Ctl) (lsid : BitVec 5) (acc : BitVec 4) : ∃ F : Env → Fire, ∀ σ, execMld c lsid acc σ = settle (.mld c lsid acc) σ F := by
  unfold execMld; exact ⟨_, fun _ => rfl⟩
theorem execMst_settles (c : Ctl) (o : MstOps) : ∃ F : Env → Fire, ∀ σ, execMst c o σ = settle (.mst c o) σ F := by
  unfold execMst; exact ⟨_, fun _ => rfl⟩
theorem execQinit_settles (c : Ctl) (lsid : BitVec 5) (q : BitVec 3) (entry : BitVec 10) (cexp : BitVec 4) : ∃ F : Env → Fire, ∀ σ, execQinit c lsid q entry cexp σ = settle (.qinit c lsid q entry cexp) σ F := by
  unfold execQinit; exact ⟨_, fun _ => rfl⟩
theorem execQpush_settles (c : Ctl) (lsid : BitVec 5) (q : BitVec 3) : ∃ F : Env → Fire, ∀ σ, execQpush c lsid q σ = settle (.qpush c lsid q) σ F := by
  unfold execQpush; exact ⟨_, fun _ => rfl⟩
theorem execQpop_settles (c : Ctl) (lsid : BitVec 5) (q : BitVec 3) : ∃ F : Env → Fire, ∀ σ, execQpop c lsid q σ = settle (.qpop c lsid q) σ F := by
  unfold execQpop; exact ⟨_, fun _ => rfl⟩
theorem execQstat_settles (c : Ctl) (lsid : BitVec 5) (q : BitVec 3) : ∃ F : Env → Fire, ∀ σ, execQstat c lsid q σ = settle (.qstat c lsid q) σ F := by
  unfold execQstat; exact ⟨_, fun _ => rfl⟩
theorem execCpy_settles (c : Ctl) (o : CpyOps) : ∃ F : Env → Fire, ∀ σ, execCpy c o σ = settle (.cpy c o) σ F := by
  unfold execCpy; exact ⟨_, fun _ => rfl⟩
theorem execCpyS_settles (c : Ctl) (o : CpyOps) : ∃ F : Env → Fire, ∀ σ, execCpyS c o σ = settle (.cpyS c o) σ F := by
  unfold execCpyS; exact ⟨_, fun _ => rfl⟩
theorem execCpy2d_settles (c : Ctl) (o : CpyOps) : ∃ F : Env → Fire, ∀ σ, execCpy2d c o σ = settle (.cpy2d c o) σ F := by
  unfold execCpy2d; exact ⟨_, fun _ => rfl⟩
theorem execCpyPeer_settles (c : Ctl) (o : CpyOps) : ∃ F : Env → Fire, ∀ σ, execCpyPeer c o σ = settle (.cpyPeer c o) σ F := by
  unfold execCpyPeer; exact ⟨_, fun _ => rfl⟩
theorem execCpyMc_settles (c : Ctl) (o : CpyOps) : ∃ F : Env → Fire, ∀ σ, execCpyMc c o σ = settle (.cpyMc c o) σ F := by
  unfold execCpyMc; exact ⟨_, fun _ => rfl⟩
theorem execCpyg_settles (c : Ctl) (o : CpyOps) : ∃ F : Env → Fire, ∀ σ, execCpyg c o σ = settle (.cpyg c o) σ F := by
  unfold execCpyg; exact ⟨_, fun _ => rfl⟩
theorem execPref_settles (c : Ctl) (lsid : BitVec 5) (bytes : BitVec 12) : ∃ F : Env → Fire, ∀ σ, execPref c lsid bytes σ = settle (.pref c lsid bytes) σ F := by
  unfold execPref; exact ⟨_, fun _ => rfl⟩
theorem execBinit_settles (c : Ctl) (lsid : BitVec 5) (off : BitVec 24) : ∃ F : Env → Fire, ∀ σ, execBinit c lsid off σ = settle (.binit c lsid off) σ F := by
  unfold execBinit; exact ⟨_, fun _ => rfl⟩
theorem execBexpect_settles (c : Ctl) (lsid : BitVec 5) (off : BitVec 24) : ∃ F : Env → Fire, ∀ σ, execBexpect c lsid off σ = settle (.bexpect c lsid off) σ F := by
  unfold execBexpect; exact ⟨_, fun _ => rfl⟩
theorem execBarrive_settles (c : Ctl) (lsid : BitVec 5) (off : BitVec 24) : ∃ F : Env → Fire, ∀ σ, execBarrive c lsid off σ = settle (.barrive c lsid off) σ F := by
  unfold execBarrive; exact ⟨_, fun _ => rfl⟩
theorem execBwait_settles (c : Ctl) (lsid : BitVec 5) (off : BitVec 24) : ∃ F : Env → Fire, ∀ σ, execBwait c lsid off σ = settle (.bwait c lsid off) σ F := by
  unfold execBwait; exact ⟨_, fun _ => rfl⟩
theorem execBtest_settles (c : Ctl) (lsid : BitVec 5) (off : BitVec 24) : ∃ F : Env → Fire, ∀ σ, execBtest c lsid off σ = settle (.btest c lsid off) σ F := by
  unfold execBtest; exact ⟨_, fun _ => rfl⟩
theorem execSbind_settles (c : Ctl) (lsid : BitVec 5) (s : BitVec 3) (kind : SKind) : ∃ F : Env → Fire, ∀ σ, execSbind c lsid s kind σ = settle (.sbind c lsid s kind) σ F := by
  unfold execSbind; exact ⟨_, fun _ => rfl⟩
theorem execSemit_settles (c : Ctl) (t : ITy) (lsid : BitVec 5) (s : BitVec 3) : ∃ F : Env → Fire, ∀ σ, execSemit c t lsid s σ = settle (.semit c t lsid s) σ F := by
  unfold execSemit; exact ⟨_, fun _ => rfl⟩
theorem execSunbind_settles (c : Ctl) (lsid : BitVec 5) (s : BitVec 3) : ∃ F : Env → Fire, ∀ σ, execSunbind c lsid s σ = settle (.sunbind c lsid s) σ F := by
  unfold execSunbind; exact ⟨_, fun _ => rfl⟩
theorem execSst_settles (c : Ctl) (lsid : BitVec 5) (s : BitVec 3) : ∃ F : Env → Fire, ∀ σ, execSst c lsid s σ = settle (.sst c lsid s) σ F := by
  unfold execSst; exact ⟨_, fun _ => rfl⟩
theorem execLds_settles (c : Ctl) (t : ITy) (lsid : BitVec 5) (vec : Bool) (off : BitVec 24) : ∃ F : Env → Fire, ∀ σ, execLds c t lsid vec off σ = settle (.lds c t lsid vec off) σ F := by
  unfold execLds; exact ⟨_, fun _ => rfl⟩
theorem execSts_settles (c : Ctl) (t : ITy) (lsid : BitVec 5) (vec : Bool) (off : BitVec 24) : ∃ F : Env → Fire, ∀ σ, execSts c t lsid vec off σ = settle (.sts c t lsid vec off) σ F := by
  unfold execSts; exact ⟨_, fun _ => rfl⟩
theorem execLd_settles (c : Ctl) (t : ITy) (acq : Bool) (o : MemOps) : ∃ F : Env → Fire, ∀ σ, execLd c t acq o σ = settle (.ld c t acq o) σ F := by
  unfold execLd; exact ⟨_, fun _ => rfl⟩
theorem execSt_settles (c : Ctl) (t : ITy) (rel : Bool) (o : MemOps) : ∃ F : Env → Fire, ∀ σ, execSt c t rel o σ = settle (.st c t rel o) σ F := by
  unfold execSt; exact ⟨_, fun _ => rfl⟩
theorem execLdv_settles (c : Ctl) (t : ITy) (acq : Bool) (o : MemOps) : ∃ F : Env → Fire, ∀ σ, execLdv c t acq o σ = settle (.ldv c t acq o) σ F := by
  unfold execLdv; exact ⟨_, fun _ => rfl⟩
theorem execStv_settles (c : Ctl) (t : ITy) (rel : Bool) (o : MemOps) : ∃ F : Env → Fire, ∀ σ, execStv c t rel o σ = settle (.stv c t rel o) σ F := by
  unfold execStv; exact ⟨_, fun _ => rfl⟩
theorem execGather_settles (c : Ctl) (t : ITy) (lsid : BitVec 5) (mask : Bool) (off : BitVec 24) : ∃ F : Env → Fire, ∀ σ, execGather c t lsid mask off σ = settle (.gather c t lsid mask off) σ F := by
  unfold execGather; exact ⟨_, fun _ => rfl⟩
theorem execScatter_settles (c : Ctl) (t : ITy) (lsid : BitVec 5) (off : BitVec 24) : ∃ F : Env → Fire, ∀ σ, execScatter c t lsid off σ = settle (.scatter c t lsid off) σ F := by
  unfold execScatter; exact ⟨_, fun _ => rfl⟩
theorem execAmoAdd_settles (c : Ctl) (t : ITy) (ord : Order) (o : MemOps) : ∃ F : Env → Fire, ∀ σ, execAmoAdd c t ord o σ = settle (.amoAdd c t ord o) σ F := by
  unfold execAmoAdd; exact ⟨_, fun _ => rfl⟩
theorem execAmoMin_settles (c : Ctl) (t : ITy) (ord : Order) (o : MemOps) : ∃ F : Env → Fire, ∀ σ, execAmoMin c t ord o σ = settle (.amoMin c t ord o) σ F := by
  unfold execAmoMin; exact ⟨_, fun _ => rfl⟩
theorem execAmoMax_settles (c : Ctl) (t : ITy) (ord : Order) (o : MemOps) : ∃ F : Env → Fire, ∀ σ, execAmoMax c t ord o σ = settle (.amoMax c t ord o) σ F := by
  unfold execAmoMax; exact ⟨_, fun _ => rfl⟩
theorem execAmoAnd_settles (c : Ctl) (t : ITy) (ord : Order) (o : MemOps) : ∃ F : Env → Fire, ∀ σ, execAmoAnd c t ord o σ = settle (.amoAnd c t ord o) σ F := by
  unfold execAmoAnd; exact ⟨_, fun _ => rfl⟩
theorem execAmoOr_settles (c : Ctl) (t : ITy) (ord : Order) (o : MemOps) : ∃ F : Env → Fire, ∀ σ, execAmoOr c t ord o σ = settle (.amoOr c t ord o) σ F := by
  unfold execAmoOr; exact ⟨_, fun _ => rfl⟩
theorem execAmoXor_settles (c : Ctl) (t : ITy) (ord : Order) (o : MemOps) : ∃ F : Env → Fire, ∀ σ, execAmoXor c t ord o σ = settle (.amoXor c t ord o) σ F := by
  unfold execAmoXor; exact ⟨_, fun _ => rfl⟩
theorem execAmoSwap_settles (c : Ctl) (t : ITy) (ord : Order) (o : MemOps) : ∃ F : Env → Fire, ∀ σ, execAmoSwap c t ord o σ = settle (.amoSwap c t ord o) σ F := by
  unfold execAmoSwap; exact ⟨_, fun _ => rfl⟩
theorem execAmoCas_settles (c : Ctl) (t : ITy) (ord : Order) (o : MemOps) : ∃ F : Env → Fire, ∀ σ, execAmoCas c t ord o σ = settle (.amoCas c t ord o) σ F := by
  unfold execAmoCas; exact ⟨_, fun _ => rfl⟩
theorem execFence_settles (c : Ctl) (lsid : BitVec 5) (ord : FOrder) (scope : Scope) : ∃ F : Env → Fire, ∀ σ, execFence c lsid ord scope σ = settle (.fence c lsid ord scope) σ F := by
  unfold execFence; exact ⟨_, fun _ => rfl⟩
theorem execAlloc_settles (c : Ctl) (lsid : BitVec 5) (place : APlace) (j : BitVec 6) : ∃ F : Env → Fire, ∀ σ, execAlloc c lsid place j σ = settle (.alloc c lsid place j) σ F := by
  unfold execAlloc; exact ⟨_, fun _ => rfl⟩
theorem execFree_settles (c : Ctl) (lsid : BitVec 5) : ∃ F : Env → Fire, ∀ σ, execFree c lsid σ = settle (.free c lsid) σ F := by
  unfold execFree; exact ⟨_, fun _ => rfl⟩
theorem execVcommit_settles (c : Ctl) (lsid : BitVec 5) (sz : PgSize) : ∃ F : Env → Fire, ∀ σ, execVcommit c lsid sz σ = settle (.vcommit c lsid sz) σ F := by
  unfold execVcommit; exact ⟨_, fun _ => rfl⟩
theorem execVdecommit_settles (c : Ctl) (lsid : BitVec 5) (sz : PgSize) : ∃ F : Env → Fire, ∀ σ, execVdecommit c lsid sz σ = settle (.vdecommit c lsid sz) σ F := by
  unfold execVdecommit; exact ⟨_, fun _ => rfl⟩
theorem execVquery_settles (c : Ctl) (lsid : BitVec 5) : ∃ F : Env → Fire, ∀ σ, execVquery c lsid σ = settle (.vquery c lsid) σ F := by
  unfold execVquery; exact ⟨_, fun _ => rfl⟩
theorem execVmigrate_settles (c : Ctl) (lsid : BitVec 5) (tier1 : Bool) (place : BitVec 2) (arrive : Bool) (sz : PgSize) : ∃ F : Env → Fire, ∀ σ, execVmigrate c lsid tier1 place arrive sz σ = settle (.vmigrate c lsid tier1 place arrive sz) σ F := by
  unfold execVmigrate; exact ⟨_, fun _ => rfl⟩
theorem execPin_settles (c : Ctl) (lsid : BitVec 5) (sz : PgSize) : ∃ F : Env → Fire, ∀ σ, execPin c lsid sz σ = settle (.pin c lsid sz) σ F := by
  unfold execPin; exact ⟨_, fun _ => rfl⟩
theorem execUnpin_settles (c : Ctl) (lsid : BitVec 5) (sz : PgSize) : ∃ F : Env → Fire, ∀ σ, execUnpin c lsid sz σ = settle (.unpin c lsid sz) σ F := by
  unfold execUnpin; exact ⟨_, fun _ => rfl⟩
theorem execSrd_settles (c : Ctl) (r : SysReg) : ∃ F : Env → Fire, ∀ σ, execSrd c r σ = settle (.srd c r) σ F := by
  unfold execSrd; exact ⟨_, fun _ => rfl⟩
theorem execSwr_settles (c : Ctl) (lsid : BitVec 5) (r : SwReg) : ∃ F : Env → Fire, ∀ σ, execSwr c lsid r σ = settle (.swr c lsid r) σ F := by
  unfold execSwr; exact ⟨_, fun _ => rfl⟩
theorem execTspawn_settles (c : Ctl) (lsid : BitVec 5) (given : Bool) (d : BitVec 2) : ∃ F : Env → Fire, ∀ σ, execTspawn c lsid given d σ = settle (.tspawn c lsid given d) σ F := by
  unfold execTspawn; exact ⟨_, fun _ => rfl⟩
theorem execTdec_settles (c : Ctl) (lsid : BitVec 5) (n : BitVec 16) : ∃ F : Env → Fire, ∀ σ, execTdec c lsid n σ = settle (.tdec c lsid n) σ F := by
  unfold execTdec; exact ⟨_, fun _ => rfl⟩
theorem execTinst_settles (c : Ctl) (lsid : BitVec 5) (id : BitVec 12) : ∃ F : Env → Fire, ∀ σ, execTinst c lsid id σ = settle (.tinst c lsid id) σ F := by
  unfold execTinst; exact ⟨_, fun _ => rfl⟩
theorem execTstat_settles (c : Ctl) (lsid : BitVec 5) : ∃ F : Env → Fire, ∀ σ, execTstat c lsid σ = settle (.tstat c lsid) σ F := by
  unfold execTstat; exact ⟨_, fun _ => rfl⟩
theorem execRelay_settles (c : Ctl) (lsid : BitVec 5) : ∃ F : Env → Fire, ∀ σ, execRelay c lsid σ = settle (.relay c lsid) σ F := by
  unfold execRelay; exact ⟨_, fun _ => rfl⟩
theorem execRelaySig_settles (c : Ctl) (lsid : BitVec 5) : ∃ F : Env → Fire, ∀ σ, execRelaySig c lsid σ = settle (.relaySig c lsid) σ F := by
  unfold execRelaySig; exact ⟨_, fun _ => rfl⟩
theorem execRelayPrep_settles (c : Ctl) (lsid : BitVec 5) (n : BitVec 3) : ∃ F : Env → Fire, ∀ σ, execRelayPrep c lsid n σ = settle (.relayPrep c lsid n) σ F := by
  unfold execRelayPrep; exact ⟨_, fun _ => rfl⟩
theorem execGresume_settles (c : Ctl) (lsid : BitVec 5) (rank : BitVec 4) : ∃ F : Env → Fire, ∀ σ, execGresume c lsid rank σ = settle (.gresume c lsid rank) σ F := by
  unfold execGresume; exact ⟨_, fun _ => rfl⟩
theorem execGkill_settles (c : Ctl) (lsid : BitVec 5) (rank : BitVec 4) : ∃ F : Env → Fire, ∀ σ, execGkill c lsid rank σ = settle (.gkill c lsid rank) σ F := by
  unfold execGkill; exact ⟨_, fun _ => rfl⟩
theorem execRload_settles (c : Ctl) (lsid : BitVec 5) (stage parity : BitVec 12) : ∃ F : Env → Fire, ∀ σ, execRload c lsid stage parity σ = settle (.rload c lsid stage parity) σ F := by
  unfold execRload; exact ⟨_, fun _ => rfl⟩
theorem execRstart_settles (c : Ctl) (lsid : BitVec 5) (arrive credit rerun : Bool) (id : BitVec 12) : ∃ F : Env → Fire, ∀ σ, execRstart c lsid arrive credit rerun id σ = settle (.rstart c lsid arrive credit rerun id) σ F := by
  unfold execRstart; exact ⟨_, fun _ => rfl⟩
theorem execRabort_settles (c : Ctl) (lsid : BitVec 5) (id : BitVec 12) : ∃ F : Env → Fire, ∀ σ, execRabort c lsid id σ = settle (.rabort c lsid id) σ F := by
  unfold execRabort; exact ⟨_, fun _ => rfl⟩
theorem execRstat_settles (c : Ctl) (lsid : BitVec 5) (id : BitVec 12) : ∃ F : Env → Fire, ∀ σ, execRstat c lsid id σ = settle (.rstat c lsid id) σ F := by
  unfold execRstat; exact ⟨_, fun _ => rfl⟩

/-- The meaning of a tile instruction is that it settles, with a firing of its own. -/
theorem exec_tile {i : Instr} (h : i.isTile = true) : ∃ F : Env → Fire, ∀ s, exec i s = settle i s F := by
  cases i
  case read => exact execRead_settles _ _ _
  case write => exact execWrite_settles _ _ _
  case mov => exact execMov_settles _ _
  case fan => exact execFan_settles _ _ _ _ _
  case movi => exact execMovi_settles _ _ _
  case movl => exact execMovl_settles _ _ _
  case void => exact execVoid_settles _ _ _
  case sel => exact execSel_settles _ _
  case add => exact execAdd_settles _ _ _
  case sub => exact execSub_settles _ _ _
  case mul => exact execMul_settles _ _ _
  case mulh => exact execMulh_settles _ _ _
  case mad => exact execMad_settles _ _ _
  case div => exact execDiv_settles _ _ _
  case rem => exact execRem_settles _ _ _
  case neg => exact execNeg_settles _ _ _
  case abs => exact execAbs_settles _ _ _
  case min => exact execMin_settles _ _ _
  case max => exact execMax_settles _ _ _
  case and => exact execAnd_settles _ _ _
  case or => exact execOr_settles _ _ _
  case xor => exact execXor_settles _ _ _
  case not => exact execNot_settles _ _
  case shl => exact execShl_settles _ _ _
  case shr => exact execShr_settles _ _ _
  case sra => exact execSra_settles _ _ _
  case rot => exact execRot_settles _ _ _
  case clz => exact execClz_settles _ _
  case popc => exact execPopc_settles _ _
  case bfx => exact execBfx_settles _ _ _
  case bfi => exact execBfi_settles _ _ _
  case lea => exact execLea_settles _ _ _
  case sext => exact execSext_settles _ _
  case zext => exact execZext_settles _ _
  case cmp => exact execCmp_settles _ _ _ _
  case pand => exact execPand_settles _
  case por => exact execPor_settles _
  case pxor => exact execPxor_settles _
  case pnot => exact execPnot_settles _
  case plane => exact execPlane_settles _ _
  case pcount => exact execPcount_settles _
  case br => exact execBr_settles _
  case bri => exact execBri_settles _ _
  case call => exact execCall_settles _ _
  case ret => exact execRet_settles _
  case endg => exact execEndg_settles _
  case trap => exact execTrap_settles _ _
  case vadd => exact execVadd_settles _ _ _ _
  case vsub => exact execVsub_settles _ _ _ _
  case vmul => exact execVmul_settles _ _ _ _
  case vdiv => exact execVdiv_settles _ _ _ _
  case vmin => exact execVmin_settles _ _ _ _
  case vmax => exact execVmax_settles _ _ _ _
  case vand => exact execVand_settles _ _ _ _
  case vor => exact execVor_settles _ _ _ _
  case vxor => exact execVxor_settles _ _ _ _
  case vshl => exact execVshl_settles _ _ _ _
  case vshr => exact execVshr_settles _ _ _ _
  case vsra => exact execVsra_settles _ _ _ _
  case vcmp => exact execVcmp_settles _ _ _ _ _
  case vfma => exact execVfma_settles _ _ _ _
  case vabs => exact execVabs_settles _ _ _ _
  case vneg => exact execVneg_settles _ _ _ _
  case vnot => exact execVnot_settles _ _ _
  case vsel => exact execVsel_settles _ _
  case vcvt => exact execVcvt_settles _ _ _ _
  case vsqrt => exact execVsqrt_settles _ _ _
  case vrcp => exact execVrcp_settles _ _ _
  case vrsqrte => exact execVrsqrte_settles _ _ _
  case vexp2 => exact execVexp2_settles _ _ _
  case vlog2 => exact execVlog2_settles _ _ _
  case vtanh => exact execVtanh_settles _ _ _
  case vreduce => exact execVreduce_settles _ _ _ _
  case vscan => exact execVscan_settles _ _ _ _
  case vperm => exact execVperm_settles _ _ _
  case vxlane => exact execVxlane_settles _ _
  case vbcast => exact execVbcast_settles _ _ _
  case vextr => exact execVextr_settles _ _
  case vins => exact execVins_settles _ _
  case viota => exact execViota_settles _ _ _
  case vsortk => exact execVsortk_settles _ _ _
  case vmerge => exact execVmerge_settles _ _
  case kany => exact execKany_settles _ _
  case kall => exact execKall_settles _ _
  case kpop => exact execKpop_settles _ _
  case mma => exact execMma_settles _ _ _
  case mmaG => exact execMmaG_settles _ _ _
  case mmas => exact execMmas_settles _ _ _
  case mzero => exact execMzero_settles _ _ _
  case mld => exact execMld_settles _ _ _
  case mst => exact execMst_settles _ _
  case qinit => exact execQinit_settles _ _ _ _ _
  case qpush => exact execQpush_settles _ _ _
  case qpop => exact execQpop_settles _ _ _
  case qstat => exact execQstat_settles _ _ _
  case cpy => exact execCpy_settles _ _
  case cpyS => exact execCpyS_settles _ _
  case cpy2d => exact execCpy2d_settles _ _
  case cpyPeer => exact execCpyPeer_settles _ _
  case cpyMc => exact execCpyMc_settles _ _
  case cpyg => exact execCpyg_settles _ _
  case pref => exact execPref_settles _ _ _
  case binit => exact execBinit_settles _ _ _
  case bexpect => exact execBexpect_settles _ _ _
  case barrive => exact execBarrive_settles _ _ _
  case bwait => exact execBwait_settles _ _ _
  case btest => exact execBtest_settles _ _ _
  case sbind => exact execSbind_settles _ _ _ _
  case semit => exact execSemit_settles _ _ _ _
  case sunbind => exact execSunbind_settles _ _ _
  case sst => exact execSst_settles _ _ _
  case lds => exact execLds_settles _ _ _ _ _
  case sts => exact execSts_settles _ _ _ _ _
  case ld => exact execLd_settles _ _ _ _
  case st => exact execSt_settles _ _ _ _
  case ldv => exact execLdv_settles _ _ _ _
  case stv => exact execStv_settles _ _ _ _
  case gather => exact execGather_settles _ _ _ _ _
  case scatter => exact execScatter_settles _ _ _ _
  case amoAdd => exact execAmoAdd_settles _ _ _ _
  case amoMin => exact execAmoMin_settles _ _ _ _
  case amoMax => exact execAmoMax_settles _ _ _ _
  case amoAnd => exact execAmoAnd_settles _ _ _ _
  case amoOr => exact execAmoOr_settles _ _ _ _
  case amoXor => exact execAmoXor_settles _ _ _ _
  case amoSwap => exact execAmoSwap_settles _ _ _ _
  case amoCas => exact execAmoCas_settles _ _ _ _
  case fence => exact execFence_settles _ _ _ _
  case alloc => exact execAlloc_settles _ _ _ _
  case free => exact execFree_settles _ _
  case vcommit => exact execVcommit_settles _ _ _
  case vdecommit => exact execVdecommit_settles _ _ _
  case vquery => exact execVquery_settles _ _
  case vmigrate => exact execVmigrate_settles _ _ _ _ _ _
  case pin => exact execPin_settles _ _ _
  case unpin => exact execUnpin_settles _ _ _
  case srd => exact execSrd_settles _ _
  case swr => exact execSwr_settles _ _ _
  case tspawn => exact execTspawn_settles _ _ _ _
  case tdec => exact execTdec_settles _ _ _
  case tinst => exact execTinst_settles _ _ _
  case tstat => exact execTstat_settles _ _
  case relay => exact execRelay_settles _ _
  case relaySig => exact execRelaySig_settles _ _
  case relayPrep => exact execRelayPrep_settles _ _ _
  case gresume => exact execGresume_settles _ _ _
  case gkill => exact execGkill_settles _ _ _
  case rload => exact execRload_settles _ _ _ _
  case rstart => exact execRstart_settles _ _ _ _ _ _
  case rabort => exact execRabort_settles _ _ _
  case rstat => exact execRstat_settles _ _ _
  all_goals exact absurd (show false = true from h) Bool.false_ne_true

/-! ## Events answer -/

/-- A message of a queue is taken, answered or dropped: a next state in every case. -/
theorem State.bridle_answers (s : State) (m : BridleMsg) (op : Bool) (i : Instr) (k : State → State) :
    ∃ t, s.bridle m op i k = .next t := by
  unfold State.bridle
  dsimp only
  repeat' split
  all_goals exact ⟨_, rfl⟩

theorem execBlockFetchDecode_answers (p : Place) (s : State) : ∃ u, execBlockFetchDecode p s = .next u := by
  unfold execBlockFetchDecode
  first
  | exact State.bridle_answers ..
  | ((try dsimp only); repeat' split) <;> exact ⟨_, rfl⟩
theorem execAwaitedTokenArrives_answers (p : Place) (s : State) : ∃ u, execAwaitedTokenArrives p s = .next u := by
  unfold execAwaitedTokenArrives
  first
  | exact State.bridle_answers ..
  | ((try dsimp only); repeat' split) <;> exact ⟨_, rfl⟩
theorem execBlockComplete_answers (p : Place) (s : State) : ∃ u, execBlockComplete p s = .next u := by
  unfold execBlockComplete
  first
  | exact State.bridle_answers ..
  | ((try dsimp only); repeat' split) <;> exact ⟨_, rfl⟩
theorem execLeaseWaitExpiry_answers (p : Place) (s : State) : ∃ u, execLeaseWaitExpiry p s = .next u := by
  unfold execLeaseWaitExpiry
  first
  | exact State.bridle_answers ..
  | ((try dsimp only); repeat' split) <;> exact ⟨_, rfl⟩
theorem execRuntimeFaultDiscard_answers (p : Place) (s : State) : ∃ u, execRuntimeFaultDiscard p s = .next u := by
  unfold execRuntimeFaultDiscard
  first
  | exact State.bridle_answers ..
  | ((try dsimp only); repeat' split) <;> exact ⟨_, rfl⟩
theorem execCutGraceExpiry_answers (p : Place) (s : State) : ∃ u, execCutGraceExpiry p s = .next u := by
  unfold execCutGraceExpiry
  first
  | exact State.bridle_answers ..
  | ((try dsimp only); repeat' split) <;> exact ⟨_, rfl⟩
theorem execStorePerform_answers (p : Place) (s : State) : ∃ u, execStorePerform p s = .next u := by
  unfold execStorePerform
  first
  | exact State.bridle_answers ..
  | ((try dsimp only); repeat' split) <;> exact ⟨_, rfl⟩
theorem execLineEviction_answers (die line : Nat) (s : State) : ∃ u, execLineEviction die line s = .next u := by
  unfold execLineEviction
  first
  | exact State.bridle_answers ..
  | ((try dsimp only); repeat' split) <;> exact ⟨_, rfl⟩
theorem execTouchCommit_answers (ctx : Nat) (va : Word) (who : Option Place) (s : State) : ∃ u, execTouchCommit ctx va who s = .next u := by
  unfold execTouchCommit
  first
  | exact State.bridle_answers ..
  | ((try dsimp only); repeat' split) <;> exact ⟨_, rfl⟩
theorem execPageCommandPerform_answers (ctx : Nat) (s : State) : ∃ u, execPageCommandPerform ctx s = .next u := by
  unfold execPageCommandPerform
  first
  | exact State.bridle_answers ..
  | ((try dsimp only); repeat' split) <;> exact ⟨_, rfl⟩
theorem execInvalidation_answers (ctx : Nat) (s : State) : ∃ u, execInvalidation ctx s = .next u := by
  unfold execInvalidation
  first
  | exact State.bridle_answers ..
  | ((try dsimp only); repeat' split) <;> exact ⟨_, rfl⟩
theorem execInvalidationComplete_answers (ctx : Nat) (s : State) : ∃ u, execInvalidationComplete ctx s = .next u := by
  unfold execInvalidationComplete
  first
  | exact State.bridle_answers ..
  | ((try dsimp only); repeat' split) <;> exact ⟨_, rfl⟩
theorem execMigratePage_answers (ctx : Nat) (va : Word) (s : State) : ∃ u, execMigratePage ctx va s = .next u := by
  unfold execMigratePage
  first
  | exact State.bridle_answers ..
  | ((try dsimp only); repeat' split) <;> exact ⟨_, rfl⟩
theorem execMatrixCommandStart_answers (p : Place) (s : State) : ∃ u, execMatrixCommandStart p s = .next u := by
  unfold execMatrixCommandStart
  first
  | exact State.bridle_answers ..
  | ((try dsimp only); repeat' split) <;> exact ⟨_, rfl⟩
theorem execMatrixCommandRetire_answers (p : Place) (s : State) : ∃ u, execMatrixCommandRetire p s = .next u := by
  unfold execMatrixCommandRetire
  first
  | exact State.bridle_answers ..
  | ((try dsimp only); repeat' split) <;> exact ⟨_, rfl⟩
theorem execCopyPiece_answers (p : Place) (cmd piece : Nat) (s : State) : ∃ u, execCopyPiece p cmd piece s = .next u := by
  unfold execCopyPiece
  first
  | exact State.bridle_answers ..
  | ((try dsimp only); repeat' split) <;> exact ⟨_, rfl⟩
theorem execEngineFaultReport_answers (p : Place) (s : State) : ∃ u, execEngineFaultReport p s = .next u := by
  unfold execEngineFaultReport
  first
  | exact State.bridle_answers ..
  | ((try dsimp only); repeat' split) <;> exact ⟨_, rfl⟩
theorem execStreamPrefetch_answers (p : Place) (reg : Nat) (s : State) : ∃ u, execStreamPrefetch p reg s = .next u := by
  unfold execStreamPrefetch
  first
  | exact State.bridle_answers ..
  | ((try dsimp only); repeat' split) <;> exact ⟨_, rfl⟩
theorem execTrapRecordWrite_answers (ctx : Nat) (s : State) : ∃ u, execTrapRecordWrite ctx s = .next u := by
  unfold execTrapRecordWrite
  first
  | exact State.bridle_answers ..
  | ((try dsimp only); repeat' split) <;> exact ⟨_, rfl⟩
theorem execHandlerSpawn_answers (ctx : Nat) (s : State) : ∃ u, execHandlerSpawn ctx s = .next u := by
  unfold execHandlerSpawn
  first
  | exact State.bridle_answers ..
  | ((try dsimp only); repeat' split) <;> exact ⟨_, rfl⟩
theorem execDecrementApply_answers (k : Nat) (s : State) : ∃ u, execDecrementApply k s = .next u := by
  unfold execDecrementApply
  first
  | exact State.bridle_answers ..
  | ((try dsimp only); repeat' split) <;> exact ⟨_, rfl⟩
theorem execPlacement_answers (die idx : Nat) (tiles : List Nat) (s : State) : ∃ u, execPlacement die idx tiles s = .next u := by
  unfold execPlacement
  first
  | exact State.bridle_answers ..
  | ((try dsimp only); repeat' split) <;> exact ⟨_, rfl⟩
theorem execPrefetchLanded_answers (w : Prefetch) (s : State) : ∃ u, execPrefetchLanded w s = .next u := by
  unfold execPrefetchLanded
  first
  | exact State.bridle_answers ..
  | ((try dsimp only); repeat' split) <;> exact ⟨_, rfl⟩
theorem execMulticastWaitExpiry_answers (w : Prefetch) (s : State) : ∃ u, execMulticastWaitExpiry w s = .next u := by
  unfold execMulticastWaitExpiry
  first
  | exact State.bridle_answers ..
  | ((try dsimp only); repeat' split) <;> exact ⟨_, rfl⟩
theorem execBinding_answers (die idx : Nat) (slots : List Nat) (s : State) : ∃ u, execBinding die idx slots s = .next u := by
  unfold execBinding
  first
  | exact State.bridle_answers ..
  | ((try dsimp only); repeat' split) <;> exact ⟨_, rfl⟩
theorem execRunnableTimeout_answers (die idx : Nat) (tiles : List Nat) (s : State) : ∃ u, execRunnableTimeout die idx tiles s = .next u := by
  unfold execRunnableTimeout
  first
  | exact State.bridle_answers ..
  | ((try dsimp only); repeat' split) <;> exact ⟨_, rfl⟩
theorem execTaskCompletion_answers (die idx : Nat) (s : State) : ∃ u, execTaskCompletion die idx s = .next u := by
  unfold execTaskCompletion
  first
  | exact State.bridle_answers ..
  | ((try dsimp only); repeat' split) <;> exact ⟨_, rfl⟩
theorem execRelayHold_answers (p : Place) (s : State) : ∃ u, execRelayHold p s = .next u := by
  unfold execRelayHold
  first
  | exact State.bridle_answers ..
  | ((try dsimp only); repeat' split) <;> exact ⟨_, rfl⟩
theorem execStallWatchdogExpiry_answers (ctx : Nat) (s : State) : ∃ u, execStallWatchdogExpiry ctx s = .next u := by
  unfold execStallWatchdogExpiry
  first
  | exact State.bridle_answers ..
  | ((try dsimp only); repeat' split) <;> exact ⟨_, rfl⟩
theorem execInstanceStart_answers (die k : Nat) (s : State) : ∃ u, execInstanceStart die k s = .next u := by
  unfold execInstanceStart
  first
  | exact State.bridle_answers ..
  | ((try dsimp only); repeat' split) <;> exact ⟨_, rfl⟩
theorem execChunkArrival_answers (die : Nat) (ch : Chunk) (s : State) : ∃ u, execChunkArrival die ch s = .next u := by
  unfold execChunkArrival
  first
  | exact State.bridle_answers ..
  | ((try dsimp only); repeat' split) <;> exact ⟨_, rfl⟩
theorem execChunkLand_answers (die k : Nat) (s : State) : ∃ u, execChunkLand die k s = .next u := by
  unfold execChunkLand
  first
  | exact State.bridle_answers ..
  | ((try dsimp only); repeat' split) <;> exact ⟨_, rfl⟩
theorem execChunkAck_answers (nm : ChunkName) (s : State) : ∃ u, execChunkAck nm s = .next u := by
  unfold execChunkAck
  first
  | exact State.bridle_answers ..
  | ((try dsimp only); repeat' split) <;> exact ⟨_, rfl⟩
theorem execChunkNak_answers (nm : ChunkName) (s : State) : ∃ u, execChunkNak nm s = .next u := by
  unfold execChunkNak
  first
  | exact State.bridle_answers ..
  | ((try dsimp only); repeat' split) <;> exact ⟨_, rfl⟩
theorem execChunkRetryTimer_answers (nm : ChunkName) (s : State) : ∃ u, execChunkRetryTimer nm s = .next u := by
  unfold execChunkRetryTimer
  first
  | exact State.bridle_answers ..
  | ((try dsimp only); repeat' split) <;> exact ⟨_, rfl⟩
theorem execSignalArrival_answers (m : SignalMsg) (s : State) : ∃ u, execSignalArrival m s = .next u := by
  unfold execSignalArrival
  first
  | exact State.bridle_answers ..
  | ((try dsimp only); repeat' split) <;> exact ⟨_, rfl⟩
theorem execAbortArrival_answers (m : RankMsg) (s : State) : ∃ u, execAbortArrival m s = .next u := by
  unfold execAbortArrival
  first
  | exact State.bridle_answers ..
  | ((try dsimp only); repeat' split) <;> exact ⟨_, rfl⟩
theorem execSaveComplete_answers (ctx : Nat) (s : State) : ∃ u, execSaveComplete ctx s = .next u := by
  unfold execSaveComplete
  first
  | exact State.bridle_answers ..
  | ((try dsimp only); repeat' split) <;> exact ⟨_, rfl⟩
theorem execRestoreComplete_answers (ctx : Nat) (s : State) : ∃ u, execRestoreComplete ctx s = .next u := by
  unfold execRestoreComplete
  first
  | exact State.bridle_answers ..
  | ((try dsimp only); repeat' split) <;> exact ⟨_, rfl⟩
theorem execDrainReductionRound_answers (ctx : Nat) (others : List Int) (s : State) : ∃ u, execDrainReductionRound ctx others s = .next u := by
  unfold execDrainReductionRound
  first
  | exact State.bridle_answers ..
  | ((try dsimp only); repeat' split) <;> exact ⟨_, rfl⟩
theorem execCreateContext_answers (m : BridleMsg) (frames : List Nat) (s : State) : ∃ u, execCreateContext m frames s = .next u := by
  unfold execCreateContext
  first
  | exact State.bridle_answers ..
  | ((try dsimp only); repeat' split) <;> exact ⟨_, rfl⟩
theorem execTearDown_answers (m : BridleMsg) (s : State) : ∃ u, execTearDown m s = .next u := by
  unfold execTearDown
  first
  | exact State.bridle_answers ..
  | ((try dsimp only); repeat' split) <;> exact ⟨_, rfl⟩
theorem execPreEmpt_answers (m : BridleMsg) (s : State) : ∃ u, execPreEmpt m s = .next u := by
  unfold execPreEmpt
  first
  | exact State.bridle_answers ..
  | ((try dsimp only); repeat' split) <;> exact ⟨_, rfl⟩
theorem execResume_answers (m : BridleMsg) (s : State) : ∃ u, execResume m s = .next u := by
  unfold execResume
  first
  | exact State.bridle_answers ..
  | ((try dsimp only); repeat' split) <;> exact ⟨_, rfl⟩
theorem execPodSwitch_answers (m : BridleMsg) (s : State) : ∃ u, execPodSwitch m s = .next u := by
  unfold execPodSwitch
  first
  | exact State.bridle_answers ..
  | ((try dsimp only); repeat' split) <;> exact ⟨_, rfl⟩
theorem execRegisterTemplate_answers (m : BridleMsg) (s : State) : ∃ u, execRegisterTemplate m s = .next u := by
  unfold execRegisterTemplate
  first
  | exact State.bridle_answers ..
  | ((try dsimp only); repeat' split) <;> exact ⟨_, rfl⟩
theorem execLaunch_answers (m : BridleMsg) (s : State) : ∃ u, execLaunch m s = .next u := by
  unfold execLaunch
  first
  | exact State.bridle_answers ..
  | ((try dsimp only); repeat' split) <;> exact ⟨_, rfl⟩
theorem execSignal_answers (m : BridleMsg) (s : State) : ∃ u, execSignal m s = .next u := by
  unfold execSignal
  first
  | exact State.bridle_answers ..
  | ((try dsimp only); repeat' split) <;> exact ⟨_, rfl⟩
theorem execBridleWrite_answers (m : BridleMsg) (s : State) : ∃ u, execBridleWrite m s = .next u := by
  unfold execBridleWrite
  first
  | exact State.bridle_answers ..
  | ((try dsimp only); repeat' split) <;> exact ⟨_, rfl⟩
theorem execBridleRead_answers (m : BridleMsg) (s : State) : ∃ u, execBridleRead m s = .next u := by
  unfold execBridleRead
  first
  | exact State.bridle_answers ..
  | ((try dsimp only); repeat' split) <;> exact ⟨_, rfl⟩
theorem execStatus_answers (m : BridleMsg) (s : State) : ∃ u, execStatus m s = .next u := by
  unfold execStatus
  first
  | exact State.bridle_answers ..
  | ((try dsimp only); repeat' split) <;> exact ⟨_, rfl⟩
theorem execLinkQueues_answers (m : BridleMsg) (s : State) : ∃ u, execLinkQueues m s = .next u := by
  unfold execLinkQueues
  first
  | exact State.bridle_answers ..
  | ((try dsimp only); repeat' split) <;> exact ⟨_, rfl⟩
theorem execGatedCommandStart_answers (queue : Nat) (s : State) : ∃ u, execGatedCommandStart queue s = .next u := by
  unfold execGatedCommandStart
  first
  | exact State.bridle_answers ..
  | ((try dsimp only); repeat' split) <;> exact ⟨_, rfl⟩
theorem execMap_answers (m : BridleMsg) (s : State) : ∃ u, execMap m s = .next u := by
  unfold execMap
  first
  | exact State.bridle_answers ..
  | ((try dsimp only); repeat' split) <;> exact ⟨_, rfl⟩
theorem execPowerTolerance_answers (m : BridleMsg) (s : State) : ∃ u, execPowerTolerance m s = .next u := by
  unfold execPowerTolerance
  first
  | exact State.bridle_answers ..
  | ((try dsimp only); repeat' split) <;> exact ⟨_, rfl⟩
theorem execLoadFirmware_answers (m : BridleMsg) (s : State) : ∃ u, execLoadFirmware m s = .next u := by
  unfold execLoadFirmware
  first
  | exact State.bridle_answers ..
  | ((try dsimp only); repeat' split) <;> exact ⟨_, rfl⟩
theorem execAttest_answers (m : BridleMsg) (s : State) : ∃ u, execAttest m s = .next u := by
  unfold execAttest
  first
  | exact State.bridle_answers ..
  | ((try dsimp only); repeat' split) <;> exact ⟨_, rfl⟩
theorem execCreateTask_answers (m : BridleMsg) (s : State) : ∃ u, execCreateTask m s = .next u := by
  unfold execCreateTask
  first
  | exact State.bridle_answers ..
  | ((try dsimp only); repeat' split) <;> exact ⟨_, rfl⟩
theorem execHealth_answers (m : BridleMsg) (s : State) : ∃ u, execHealth m s = .next u := by
  unfold execHealth
  first
  | exact State.bridle_answers ..
  | ((try dsimp only); repeat' split) <;> exact ⟨_, rfl⟩
theorem execConfigurePackage_answers (m : BridleMsg) (s : State) : ∃ u, execConfigurePackage m s = .next u := by
  unfold execConfigurePackage
  first
  | exact State.bridle_answers ..
  | ((try dsimp only); repeat' split) <;> exact ⟨_, rfl⟩
theorem execRegisterRegion_answers (m : BridleMsg) (s : State) : ∃ u, execRegisterRegion m s = .next u := by
  unfold execRegisterRegion
  first
  | exact State.bridle_answers ..
  | ((try dsimp only); repeat' split) <;> exact ⟨_, rfl⟩
theorem execDeregisterRegion_answers (m : BridleMsg) (s : State) : ∃ u, execDeregisterRegion m s = .next u := by
  unfold execDeregisterRegion
  first
  | exact State.bridle_answers ..
  | ((try dsimp only); repeat' split) <;> exact ⟨_, rfl⟩
theorem execRunAhead_answers (p : Place) (addr : Word) (s : State) : ∃ u, execRunAhead p addr s = .next u := by
  unfold execRunAhead
  first
  | exact State.bridle_answers ..
  | ((try dsimp only); repeat' split) <;> exact ⟨_, rfl⟩
theorem execDecrementMessage_answers (m : DecMsg) (s : State) : ∃ u, execDecrementMessage m s = .next u := by
  unfold execDecrementMessage
  first
  | exact State.bridle_answers ..
  | ((try dsimp only); repeat' split) <;> exact ⟨_, rfl⟩
theorem execRdmaWrite_answers (qp key : Nat) (va : Word) (bytes : List Byte) (s : State) : ∃ u, execRdmaWrite qp key va bytes s = .next u := by
  unfold execRdmaWrite
  first
  | exact State.bridle_answers ..
  | ((try dsimp only); repeat' split) <;> exact ⟨_, rfl⟩
theorem execUalinkRemoteAccess_answers (pkg addr : Nat) (op : RemoteOp) (s : State) : ∃ u, execUalinkRemoteAccess pkg addr op s = .next u := by
  unfold execUalinkRemoteAccess
  first
  | exact State.bridle_answers ..
  | ((try dsimp only); repeat' split) <;> exact ⟨_, rfl⟩
theorem execTaskProbe_answers (w : Prober) (j : Nat) (s : State) : ∃ u, execTaskProbe w j s = .next u := by
  unfold execTaskProbe
  first
  | exact State.bridle_answers ..
  | ((try dsimp only); repeat' split) <;> exact ⟨_, rfl⟩
theorem execConnectQueuePair_answers (m : BridleMsg) (s : State) : ∃ u, execConnectQueuePair m s = .next u := by
  unfold execConnectQueuePair
  first
  | exact State.bridle_answers ..
  | ((try dsimp only); repeat' split) <;> exact ⟨_, rfl⟩
theorem execUnknownOpcode_answers (m : BridleMsg) (s : State) : ∃ u, execUnknownOpcode m s = .next u := by
  unfold execUnknownOpcode
  first
  | exact State.bridle_answers ..
  | ((try dsimp only); repeat' split) <;> exact ⟨_, rfl⟩
theorem execIdleEntry_answers (s : State) : ∃ u, execIdleEntry s = .next u := by
  unfold execIdleEntry
  first
  | exact State.bridle_answers ..
  | ((try dsimp only); repeat' split) <;> exact ⟨_, rfl⟩
theorem execRdmaRead_answers (qp key : Nat) (va : Word) (n : Nat) (s : State) : ∃ u, execRdmaRead qp key va n s = .next u := by
  unfold execRdmaRead
  first
  | exact State.bridle_answers ..
  | ((try dsimp only); repeat' split) <;> exact ⟨_, rfl⟩
theorem execPageWalk_answers (die tile ctx : Nat) (va : Word) (acc : Access) (s : State) : ∃ u, execPageWalk die tile ctx va acc s = .next u := by
  unfold execPageWalk
  first
  | exact State.bridle_answers ..
  | ((try dsimp only); repeat' split) <;> exact ⟨_, rfl⟩
theorem execPoisonError_answers (loc : PoisonHit) (s : State) : ∃ u, execPoisonError loc s = .next u := by
  unfold execPoisonError
  first
  | exact State.bridle_answers ..
  | ((try dsimp only); repeat' split) <;> exact ⟨_, rfl⟩
theorem execUncorrectableGroupState_answers (p : Place) (hit : StateHit) (s : State) : ∃ u, execUncorrectableGroupState p hit s = .next u := by
  unfold execUncorrectableGroupState
  first
  | exact State.bridle_answers ..
  | ((try dsimp only); repeat' split) <;> exact ⟨_, rfl⟩
theorem execCorrectedError_answers (unit : Word) (uncorrectable : Bool) (s : State) : ∃ u, execCorrectedError unit uncorrectable s = .next u := by
  unfold execCorrectedError
  first
  | exact State.bridle_answers ..
  | ((try dsimp only); repeat' split) <;> exact ⟨_, rfl⟩
theorem execErrorWindowExpiry_answers (unit : Word) (s : State) : ∃ u, execErrorWindowExpiry unit s = .next u := by
  unfold execErrorWindowExpiry
  first
  | exact State.bridle_answers ..
  | ((try dsimp only); repeat' split) <;> exact ⟨_, rfl⟩
theorem execTrapQueueHeadPoll_answers (ctx : Nat) (s : State) : ∃ u, execTrapQueueHeadPoll ctx s = .next u := by
  unfold execTrapQueueHeadPoll
  first
  | exact State.bridle_answers ..
  | ((try dsimp only); repeat' split) <;> exact ⟨_, rfl⟩
theorem execHello_answers (m : BridleMsg) (s : State) : ∃ u, execHello m s = .next u := by
  unfold execHello
  first
  | exact State.bridle_answers ..
  | ((try dsimp only); repeat' split) <;> exact ⟨_, rfl⟩
theorem execRemoteInvalidRequest_answers (qp : Nat) (s : State) : ∃ u, execRemoteInvalidRequest qp s = .next u := by
  unfold execRemoteInvalidRequest
  first
  | exact State.bridle_answers ..
  | ((try dsimp only); repeat' split) <;> exact ⟨_, rfl⟩
theorem execHeartbeat_answers (s : State) : ∃ u, execHeartbeat s = .next u := by
  unfold execHeartbeat
  first
  | exact State.bridle_answers ..
  | ((try dsimp only); repeat' split) <;> exact ⟨_, rfl⟩
theorem execPackageFailed_answers (pkg : Nat) (s : State) : ∃ u, execPackageFailed pkg s = .next u := by
  unfold execPackageFailed
  first
  | exact State.bridle_answers ..
  | ((try dsimp only); repeat' split) <;> exact ⟨_, rfl⟩
theorem execRecoveryRebuild_answers (pkg : Nat) (s : State) : ∃ u, execRecoveryRebuild pkg s = .next u := by
  unfold execRecoveryRebuild
  first
  | exact State.bridle_answers ..
  | ((try dsimp only); repeat' split) <;> exact ⟨_, rfl⟩
theorem execWake_answers (s : State) : ∃ u, execWake s = .next u := by
  unfold execWake
  first
  | exact State.bridle_answers ..
  | ((try dsimp only); repeat' split) <;> exact ⟨_, rfl⟩
theorem execErrorSelect_answers (v : Word) (s : State) : ∃ u, execErrorSelect v s = .next u := by
  unfold execErrorSelect
  first
  | exact State.bridle_answers ..
  | ((try dsimp only); repeat' split) <;> exact ⟨_, rfl⟩
theorem execPowerLimit_answers (v : Word) (s : State) : ∃ u, execPowerLimit v s = .next u := by
  unfold execPowerLimit
  first
  | exact State.bridle_answers ..
  | ((try dsimp only); repeat' split) <;> exact ⟨_, rfl⟩
theorem execReset_answers (s : State) : ∃ u, execReset s = .next u := by
  unfold execReset
  first
  | exact State.bridle_answers ..
  | ((try dsimp only); repeat' split) <;> exact ⟨_, rfl⟩
theorem execReadOnlyRegisterWrite_answers (off : Nat) (v : Word) (s : State) : ∃ u, execReadOnlyRegisterWrite off v s = .next u := by
  unfold execReadOnlyRegisterWrite
  first
  | exact State.bridle_answers ..
  | ((try dsimp only); repeat' split) <;> exact ⟨_, rfl⟩
theorem execRecoveryMirror_answers (m : Mirror) (s : State) : ∃ u, execRecoveryMirror m s = .next u := by
  unfold execRecoveryMirror
  first
  | exact State.bridle_answers ..
  | ((try dsimp only); repeat' split) <;> exact ⟨_, rfl⟩

/-- An event answers a next state, whatever the state. -/
theorem exec_event {i : Instr} (ht : i.isTile = false) (hr : i.isRein = false) (s : State) : ∃ u, exec i s = .next u := by
  cases i
  case blockFetchDecode => exact execBlockFetchDecode_answers _ s
  case awaitedTokenArrives => exact execAwaitedTokenArrives_answers _ s
  case blockComplete => exact execBlockComplete_answers _ s
  case leaseWaitExpiry => exact execLeaseWaitExpiry_answers _ s
  case runtimeFaultDiscard => exact execRuntimeFaultDiscard_answers _ s
  case cutGraceExpiry => exact execCutGraceExpiry_answers _ s
  case storePerform => exact execStorePerform_answers _ s
  case lineEviction => exact execLineEviction_answers _ _ s
  case touchCommit => exact execTouchCommit_answers _ _ _ s
  case pageCommandPerform => exact execPageCommandPerform_answers _ s
  case invalidation => exact execInvalidation_answers _ s
  case invalidationComplete => exact execInvalidationComplete_answers _ s
  case migratePage => exact execMigratePage_answers _ _ s
  case matrixCommandStart => exact execMatrixCommandStart_answers _ s
  case matrixCommandRetire => exact execMatrixCommandRetire_answers _ s
  case copyPiece => exact execCopyPiece_answers _ _ _ s
  case engineFaultReport => exact execEngineFaultReport_answers _ s
  case streamPrefetch => exact execStreamPrefetch_answers _ _ s
  case trapRecordWrite => exact execTrapRecordWrite_answers _ s
  case handlerSpawn => exact execHandlerSpawn_answers _ s
  case decrementApply => exact execDecrementApply_answers _ s
  case placement => exact execPlacement_answers _ _ _ s
  case prefetchLanded => exact execPrefetchLanded_answers _ s
  case multicastWaitExpiry => exact execMulticastWaitExpiry_answers _ s
  case binding => exact execBinding_answers _ _ _ s
  case runnableTimeout => exact execRunnableTimeout_answers _ _ _ s
  case taskCompletion => exact execTaskCompletion_answers _ _ s
  case relayHold => exact execRelayHold_answers _ s
  case stallWatchdogExpiry => exact execStallWatchdogExpiry_answers _ s
  case instanceStart => exact execInstanceStart_answers _ _ s
  case chunkArrival => exact execChunkArrival_answers _ _ s
  case chunkLand => exact execChunkLand_answers _ _ s
  case chunkAck => exact execChunkAck_answers _ s
  case chunkNak => exact execChunkNak_answers _ s
  case chunkRetryTimer => exact execChunkRetryTimer_answers _ s
  case signalArrival => exact execSignalArrival_answers _ s
  case abortArrival => exact execAbortArrival_answers _ s
  case saveComplete => exact execSaveComplete_answers _ s
  case restoreComplete => exact execRestoreComplete_answers _ s
  case drainReductionRound => exact execDrainReductionRound_answers _ _ s
  case createContext => exact execCreateContext_answers _ _ s
  case tearDown => exact execTearDown_answers _ s
  case preEmpt => exact execPreEmpt_answers _ s
  case resume => exact execResume_answers _ s
  case podSwitch => exact execPodSwitch_answers _ s
  case registerTemplate => exact execRegisterTemplate_answers _ s
  case launch => exact execLaunch_answers _ s
  case signal => exact execSignal_answers _ s
  case bridleWrite => exact execBridleWrite_answers _ s
  case bridleRead => exact execBridleRead_answers _ s
  case status => exact execStatus_answers _ s
  case linkQueues => exact execLinkQueues_answers _ s
  case gatedCommandStart => exact execGatedCommandStart_answers _ s
  case map => exact execMap_answers _ s
  case powerTolerance => exact execPowerTolerance_answers _ s
  case loadFirmware => exact execLoadFirmware_answers _ s
  case attest => exact execAttest_answers _ s
  case createTask => exact execCreateTask_answers _ s
  case health => exact execHealth_answers _ s
  case configurePackage => exact execConfigurePackage_answers _ s
  case registerRegion => exact execRegisterRegion_answers _ s
  case deregisterRegion => exact execDeregisterRegion_answers _ s
  case runAhead => exact execRunAhead_answers _ _ s
  case decrementMessage => exact execDecrementMessage_answers _ s
  case rdmaWrite => exact execRdmaWrite_answers _ _ _ _ s
  case ualinkRemoteAccess => exact execUalinkRemoteAccess_answers _ _ _ s
  case taskProbe => exact execTaskProbe_answers _ _ s
  case connectQueuePair => exact execConnectQueuePair_answers _ s
  case unknownOpcode => exact execUnknownOpcode_answers _ s
  case idleEntry => exact execIdleEntry_answers s
  case rdmaRead => exact execRdmaRead_answers _ _ _ _ s
  case pageWalk => exact execPageWalk_answers _ _ _ _ _ s
  case poisonError => exact execPoisonError_answers _ s
  case uncorrectableGroupState => exact execUncorrectableGroupState_answers _ _ s
  case correctedError => exact execCorrectedError_answers _ _ s
  case errorWindowExpiry => exact execErrorWindowExpiry_answers _ s
  case trapQueueHeadPoll => exact execTrapQueueHeadPoll_answers _ s
  case hello => exact execHello_answers _ s
  case remoteInvalidRequest => exact execRemoteInvalidRequest_answers _ s
  case heartbeat => exact execHeartbeat_answers s
  case packageFailed => exact execPackageFailed_answers _ s
  case recoveryRebuild => exact execRecoveryRebuild_answers _ s
  case wake => exact execWake_answers s
  case errorSelect => exact execErrorSelect_answers _ s
  case powerLimit => exact execPowerLimit_answers _ s
  case reset => exact execReset_answers s
  case readOnlyRegisterWrite => exact ⟨_, rfl⟩
  case recoveryMirror => exact execRecoveryMirror_answers _ s
  all_goals first
    | exact absurd (show true = false from ht) (by decide)
    | exact absurd (show true = false from hr) (by decide)

end Sys2Proof.Machine
end

