-- ==== Sys2Proof/Laws/Memory.lean ====
section
/-!
SUPPORT. Laws/Memory.lean: reading after writing, and that the operations over memory keep its canonical form.
-/
namespace Sys2Proof.Machine

/-! ## One list of cells -/

/-- A list in form from a bound is in form from a lower one. -/
theorem Cells.okFrom_mono {lo hi : Nat} {m : Cells} (h : lo ≤ hi) (w : Cells.okFrom hi m = true) : Cells.okFrom lo m = true := by
  cases m with
  | nil => rfl
  | cons c m =>
    obtain ⟨a, v⟩ := c
    simp only [Cells.okFrom, Bool.and_eq_true, decide_eq_true_eq] at w ⊢
    exact ⟨⟨Nat.le_trans h w.1.1, w.1.2⟩, w.2⟩

/-- An address below the bound is not listed. -/
theorem Cells.get_below {lo a : Nat} {m : Cells} (h : a < lo) (w : Cells.okFrom lo m = true) : m.get a = 0 := by
  induction m generalizing lo with
  | nil => rfl
  | cons c m ih =>
    obtain ⟨b, v⟩ := c
    simp only [Cells.okFrom, Bool.and_eq_true, decide_eq_true_eq] at w
    have hb : b ≠ a := by omega
    simp only [Cells.get, hb, if_false]
    exact ih (by omega) w.2

/-- A write keeps the form. -/
theorem Cells.okFrom_put {lo a : Nat} {m : Cells} (v : Byte) (h : lo ≤ a) (w : Cells.okFrom lo m = true) :
    Cells.okFrom lo (m.put a v) = true := by
  induction m generalizing lo with
  | nil =>
    simp only [Cells.put]
    split
    · rfl
    · simp only [Cells.okFrom, Bool.and_eq_true, decide_eq_true_eq]
      exact ⟨⟨h, by assumption⟩, trivial⟩
  | cons c m ih =>
    obtain ⟨b, x⟩ := c
    simp only [Cells.okFrom, Bool.and_eq_true, decide_eq_true_eq] at w
    simp only [Cells.put]
    split
    · split
      · simp only [Cells.okFrom, Bool.and_eq_true, decide_eq_true_eq]
        exact w
      · simp only [Cells.okFrom, Bool.and_eq_true, decide_eq_true_eq]
        exact ⟨⟨h, by assumption⟩, ⟨by omega, w.1.2⟩, w.2⟩
    · split
      · rename_i e
        subst e
        split
        · exact Cells.okFrom_mono (by omega) w.2
        · simp only [Cells.okFrom, Bool.and_eq_true, decide_eq_true_eq]
          exact ⟨⟨h, by assumption⟩, w.2⟩
      · simp only [Cells.okFrom, Bool.and_eq_true, decide_eq_true_eq]
        exact ⟨w.1, ih (by omega) w.2⟩

/-- A write leaves every other address alone, whatever the list. -/
theorem Cells.get_put_ne {a b : Nat} (m : Cells) (v : Byte) (h : b ≠ a) : (m.put a v).get b = m.get b := by
  induction m with
  | nil =>
    simp only [Cells.put]
    split
    · rfl
    · simp [Cells.get, Ne.symm h]
  | cons c m ih =>
    obtain ⟨d, x⟩ := c
    simp only [Cells.put]
    split
    · split
      · rfl
      · simp [Cells.get, Ne.symm h]
    · split
      · rename_i e
        subst e
        split <;> simp [Cells.get, Ne.symm h]
      · simp only [Cells.get, ih]

/-- A read after a write gives the byte written. -/
theorem Cells.get_put_same {lo a : Nat} {m : Cells} (v : Byte) (w : Cells.okFrom lo m = true) : (m.put a v).get a = v := by
  induction m generalizing lo with
  | nil =>
    simp only [Cells.put]
    split
    · rename_i e
      simp [Cells.get, e]
    · simp [Cells.get]
  | cons c m ih =>
    obtain ⟨d, x⟩ := c
    simp only [Cells.okFrom, Bool.and_eq_true, decide_eq_true_eq] at w
    simp only [Cells.put]
    split
    · split
      · rename_i e
        have hd : d ≠ a := by omega
        simp only [Cells.get, hd, if_false, e]
        exact Cells.get_below (by omega) w.2
      · simp [Cells.get]
    · split
      · rename_i e
        subst e
        split
        · rename_i e
          rw [e]
          exact Cells.get_below (by omega) w.2
        · simp [Cells.get]
      · rename_i e
        simp only [Cells.get, Ne.symm e, if_false]
        exact ih w.2

/-- Keeping some of the cells keeps the form. -/
theorem Cells.okFrom_filter {lo : Nat} {m : Cells} (f : Host.Cell → Bool) (w : Cells.okFrom lo m = true) :
    Cells.okFrom lo (List.filter f m) = true := by
  induction m generalizing lo with
  | nil => rfl
  | cons c m ih =>
    obtain ⟨b, x⟩ := c
    simp only [Cells.okFrom, Bool.and_eq_true, decide_eq_true_eq] at w
    simp only [List.filter]
    split
    · simp only [Cells.okFrom, Bool.and_eq_true, decide_eq_true_eq]
      exact ⟨w.1, ih w.2⟩
    · exact Cells.okFrom_mono (by omega) (ih w.2)

/-- Writing bytes keeps the form. -/
theorem Cells.okFrom_write {lo a : Nat} {m : Cells} (bs : List Byte) (h : lo ≤ a) (w : Cells.okFrom lo m = true) :
    Cells.okFrom lo (m.write a bs) = true := by
  induction bs generalizing a m with
  | nil => exact w
  | cons b bs ih => exact ih (by omega) (Cells.okFrom_put b h w)

/-- Writing bytes leaves the addresses outside them alone. -/
theorem Cells.get_write_outside {a b : Nat} (m : Cells) (bs : List Byte) (h : b < a ∨ a + bs.length ≤ b) :
    (m.write a bs).get b = m.get b := by
  induction bs generalizing a m with
  | nil => rfl
  | cons x bs ih =>
    simp only [List.length_cons] at h
    simp only [Cells.write]
    rw [ih _ (by omega), Cells.get_put_ne _ _ (by omega)]

/-- Reading a byte of those written gives it. -/
theorem Cells.get_write_inside {lo a k : Nat} {m : Cells} {bs : List Byte} (w : Cells.okFrom lo m = true) (hl : lo ≤ a)
    (h : k < bs.length) : (m.write a bs).get (a + k) = bs.getD k 0 := by
  induction bs generalizing a m k with
  | nil => simp at h
  | cons x bs ih =>
    simp only [Cells.write]
    cases k with
    | zero =>
      rw [Cells.get_write_outside _ _ (by omega)]
      simpa using Cells.get_put_same x w
    | succ k =>
      have e : a + (k + 1) = a + 1 + k := by omega
      rw [e, ih (Cells.okFrom_put x hl w) (by omega) (by simpa using h)]
      simp

/-- The form of a list of single writes. -/
theorem Cells.okFrom_foldl {α : Type} {lo : Nat} (at' : α → Nat) (b : α → Byte) (l : List α) {m : Cells}
    (h : ∀ x ∈ l, lo ≤ at' x) (w : Cells.okFrom lo m = true) :
    Cells.okFrom lo (l.foldl (fun (m : Cells) x => m.put (at' x) (b x)) m) = true := by
  induction l generalizing m with
  | nil => exact w
  | cons x l ih => exact ih (fun y hy => h y (List.mem_cons_of_mem _ hy)) (Cells.okFrom_put _ (h x (List.mem_cons_self ..)) w)

/-- A write keeps memory canonical. -/
theorem Memory.wf_put {m : Cells} (a : Nat) (v : Byte) (w : Memory.wf m = true) : Memory.wf (m.put a v) = true :=
  Cells.okFrom_put v (Nat.zero_le a) w

/-- Writing bytes keeps memory canonical. -/
theorem Memory.wf_write {m : Cells} (a : Nat) (bs : List Byte) (w : Memory.wf m = true) : Memory.wf (m.write a bs) = true :=
  Cells.okFrom_write bs (Nat.zero_le a) w

/-- Clearing a range keeps memory canonical. -/
theorem Memory.wf_clear {m : Cells} (a n : Nat) (w : Memory.wf m = true) : Memory.wf (m.clear a n) = true :=
  Cells.okFrom_filter _ w

/-! ## The operations of the package's memory -/



/-- A read of another package changes no byte of memory. -/
@[simp] theorem State.askFar_mem (s : State) (pa n : Nat) : (s.askFar pa n).mem = s.mem := by
  unfold State.askFar
  split <;> rfl

/-- Writes that leave for other packages change no byte of this one's memory. -/
@[simp] theorem State.sendFar_mem (s : State) (ws : List (Nat × Byte)) : (s.sendFar ws).mem = s.mem := rfl

/-- A byte written at its home, and at a moving page's destination, keeps the form. -/
theorem State.wf_homePut {s : State} (pa : Nat) (b : Byte) (w : Memory.wf s.mem = true) :
    Memory.wf (s.homePut pa b).mem = true := by
  unfold State.homePut
  split
  · exact w
  · split
    · exact Memory.wf_put _ _ (Memory.wf_put _ _ w)
    · exact Memory.wf_put _ _ w

/-- Byte writes at their homes keep the form. -/
theorem State.wf_putHome {s : State} (ws : List (Nat × Byte)) (w : Memory.wf s.mem = true) :
    Memory.wf (s.putHome ws).mem = true := by
  unfold State.putHome
  rw [State.sendFar_mem]
  exact foldl_keeps (P := fun (s : State) => Memory.wf s.mem = true) (fun s x h => State.wf_homePut x.1 x.2 h) w

/-- Bytes written at their home keep the form. -/
theorem State.wf_homeWrite {s : State} (pa : Nat) (bs : List Byte) (w : Memory.wf s.mem = true) :
    Memory.wf (s.homeWrite pa bs).mem = true := State.wf_putHome _ w

/-- A granule that loses its poison changes no byte of memory. -/
@[simp] theorem State.unpoison_mem (s : State) (pa n : Nat) : (s.unpoison pa n).mem = s.mem := rfl

/-- Poisoning changes no byte of memory. -/
@[simp] theorem State.taint_mem (s : State) (gs : List Nat) : (s.taint gs).mem = s.mem := rfl

/-- Granules that lose their poison one by one change no byte of memory. -/
@[simp] theorem State.unpoison_all_mem (s : State) (gs : List Nat) :
    (gs.foldl (fun s g => s.unpoison (g * 64) 64) s).mem = s.mem :=
  foldl_keeps (P := fun (x : State) => x.mem = s.mem) (fun _ _ h => h) rfl

/-- The poison that a write-back brings home changes no byte of memory. -/
@[simp] theorem State.carryBack_mem (s : State) (f : FLine) : (s.carryBack f).mem = s.mem := by
  unfold State.carryBack
  split <;> simp

/-- Granules that lose their poison at a point change no byte of memory. -/
@[simp] theorem State.cleanAt_mem (s : State) (die : Option Nat) (gs : List Nat) : (s.cleanAt die gs).mem = s.mem := by
  unfold State.cleanAt
  split <;> simp

/-- A line's write-back keeps the form. -/
theorem State.wf_writeBackLine {s : State} (f : FLine) (w : Memory.wf s.mem = true) : Memory.wf (s.writeBackLine f).mem = true := by
  rw [State.writeBackLine, State.carryBack_mem]
  exact State.wf_putHome _ w

/-- A write-back of a die keeps the form. -/
theorem State.wf_writeBack {s : State} (die : Nat) (w : Memory.wf s.mem = true) : Memory.wf (s.writeBack die).mem = true :=
  foldl_keeps (P := fun (s : State) => Memory.wf s.mem = true) (fun _ x h => State.wf_writeBackLine x h) w

/-- Dropping a die's foreign lines keeps the form. -/
theorem State.wf_dropForeign {s : State} (die : Nat) (w : Memory.wf s.mem = true) :
    Memory.wf (s.dropForeign die).mem = true := State.wf_writeBack die w

/-- Fetching a line changes no byte of memory. -/
@[simp] theorem State.fetchLine_mem (s : State) (die line : Nat) : (s.fetchLine die line).mem = s.mem := by
  unfold State.fetchLine
  split
  · rfl
  · split
    · rfl
    · split <;> simp

/-- Fetching lines changes no byte of memory. -/
@[simp] theorem State.fetchLines_mem (s : State) (die pa n : Nat) : (s.fetchLines die pa n).mem = s.mem :=
  foldl_keeps (P := fun (x : State) => x.mem = s.mem) (fun x l h => (State.fetchLine_mem x die l).trans h) rfl

/-- What a read leaves at a point changes no home memory. -/
@[simp] theorem State.bringAt_mem (s : State) (die : Option Nat) (pa n : Nat) : (s.bringAt die pa n).mem = s.mem := by
  cases die <;> simp [State.bringAt]

/-- Nor does that of a list of units. -/
@[simp] theorem State.bringAll_mem (die : Option Nat) (n : Nat) (pas : List Nat) (s : State) :
    (pas.foldl (fun s pa => s.bringAt die pa n) s).mem = s.mem := by
  induction pas generalizing s with
  | nil => rfl
  | cons pa pas ih => simp [ih]

/-- A die's copies of units that a tile instruction read change no home memory. -/
@[simp] theorem Env.bring_mem (e : Env) (n va : Nat) (s : State) : (e.bring va n s).mem = s.mem := by
  induction n generalizing va s with
  | zero => rfl
  | succ n ih =>
    simp only [Env.bring]
    split
    · rw [ih, State.fetchLines_mem]
    · rfl

/-- A byte written at a die keeps the form. -/
theorem State.wf_diePut {s : State} (die pa : Nat) (b : Byte) (w : Memory.wf s.mem = true) :
    Memory.wf (s.diePut die pa b).mem = true := by
  unfold State.diePut
  split
  · exact State.wf_homePut _ _ w
  · have w' : Memory.wf (s.fetchLine die (pa / 128)).mem = true := by rw [State.fetchLine_mem]; exact w
    dsimp only
    split
    · exact w'
    · exact State.wf_homePut _ _ w'

/-- Bytes written at a die keep the form. -/
theorem State.wf_dieWrite {s : State} (die pa : Nat) (bs : List Byte) (w : Memory.wf s.mem = true) :
    Memory.wf (s.dieWrite die pa bs).mem = true := by
  rw [State.dieWrite, State.cleanAt_mem]
  exact foldl_keeps (P := fun (s : State) => Memory.wf s.mem = true) (fun s x h => State.wf_diePut die (pa + x.1) x.2 h) w

/-- Zeroing frames keeps the form. -/
theorem State.wf_zeroFrames {s : State} (f n : Nat) (w : Memory.wf s.mem = true) : Memory.wf (s.zeroFrames f n).mem = true :=
  Memory.wf_clear _ _ w

/-- Moving a frame range keeps the form. -/
theorem State.wf_copyFrame {s : State} (old new n : Nat) (w : Memory.wf s.mem = true) :
    Memory.wf (s.copyFrame old new n).mem = true :=
  Cells.okFrom_foldl _ _ _ (fun _ _ => Nat.zero_le _) (State.wf_zeroFrames new n w)

/-- An image in device space keeps the form. -/
theorem State.wf_putImage {s : State} (base size : Nat) (ps : List Piece) (w : Memory.wf s.mem = true) :
    Memory.wf (s.putImage base size ps).mem = true :=
  foldl_keeps (P := fun (m : Cells) => Memory.wf m = true) (fun _ x h => Memory.wf_write (base + x.1) x.2 h)
    (Memory.wf_clear base size w)

/-- A write of a release or AMO wider than .die keeps the form. -/
theorem State.wf_homeRelease {s : State} (die pa : Nat) (bs : List Byte) (w : Memory.wf s.mem = true) :
    Memory.wf (s.homeRelease die pa bs).mem = true := State.wf_homeWrite pa bs (State.wf_writeBack die w)

end Sys2Proof.Machine
end

