-- ==== Sys2Proof/Laws/Ops.lean ====
section
/-!
SUPPORT. Laws/Ops.lean: what the shared operations can come to: addresses, the store buffer, a Rein instruction, a step.
-/
namespace Sys2Proof.Machine

/-- The windows that an access may name are windows of the group. -/
theorem Group.reach_le (g : Group) : g.reach ≤ g.shape.windows := by
  unfold Group.reach
  split
  · split <;> omega
  · split <;> omega
  · exact Nat.le_refl _

/-- A scratch address that passes its checks lies whole, aligned, in a window of a member of the gang (08 R161). -/
theorem State.saddr_ok {s : State} {g : Group} {peer : Bool} {tok : Word} {off : BitVec 24} {n align : Nat} {a : ScrAt}
    (h : s.saddr g peer tok off n align = .ok a) :
    ∃ m, s.memberAt g a.rank = some m ∧ a.win < m.reach ∧ a.off % align = 0 ∧ a.off + n ≤ 65536 := by
  unfold State.saddr at h
  dsimp only at h
  split at h
  · cases h
  · split at h
    · cases h
    · rename_i m hm
      split at h
      · cases h
      · split at h
        · cases h
        · split at h
          · cases h
          · cases h
            exact ⟨m, hm, Nat.lt_of_not_le (by assumption), Decidable.of_not_not (by assumption), Nat.le_of_not_lt (by assumption)⟩

/-- A global access faults, meets a Touch page, or goes on with its translated address (12 R236, 14 R265). -/
theorem Env.glob_cases (e : Env) (a n : Nat) (acc : Access) (k : Nat → Fire) :
    (∃ c, gaddrCause a n = some c ∧ e.glob a n acc k = .fault c a acc) ∨
    (gaddrCause a n = none ∧
      ((∃ pa, e.s.translate e.g.ctx a acc = .ok pa ∧ e.glob a n acc k = k pa) ∨
        (∃ c, e.s.translate e.g.ctx a acc = .fault c ∧ e.glob a n acc k = .fault c a acc) ∨
        (e.s.translate e.g.ctx a acc = .touch ∧ e.glob a n acc k = .touch a acc))) := by
  unfold Env.glob
  cases hc : gaddrCause a n with
  | some c => exact .inl ⟨c, rfl, rfl⟩
  | none =>
    refine .inr ⟨rfl, ?_⟩
    cases ht : e.s.translate e.g.ctx a acc with
    | ok pa => exact .inl ⟨pa, rfl, rfl⟩
    | fault c => exact .inr (.inl ⟨c, rfl, rfl⟩)
    | touch => exact .inr (.inr ⟨rfl, rfl⟩)

/-- What performing a group's oldest store does: it stores the head of a buffer that may be performed, and takes it off. -/
theorem State.performStore_some {s t : State} {p : Place} (h : s.performStore p = some t) :
    ∃ g x rest, s.group? p = some g ∧ g.sb = x :: rest ∧ s.storeReady g x = true ∧
      t = (s.doStore g x).setGroup p fun g => { g with sb := rest } := by
  unfold State.performStore at h
  split at h
  · cases h
  · rename_i g hg
    split at h
    · cases h
    · rename_i x rest hx
      split at h
      · rename_i hr
        exact ⟨g, x, rest, hg, hx, hr, (Option.some.inj h).symm⟩
      · cases h

/-- What performing stores keeps, draining keeps. -/
theorem State.drain_keeps {P : State → Prop} {p : Place} (hP : ∀ s t, P s → s.performStore p = some t → P t) (n : Nat) {s : State}
    (h : P s) : P (State.drain p n s) := by
  induction n generalizing s with
  | zero => exact h
  | succ n ih =>
    simp only [State.drain]
    cases e : s.performStore p with
    | none => exact h
    | some t => exact ih (hP s t h e)

/-- Everything a Rein instruction can come to (19 R345). -/
theorem reinRun_cases {s t : State} {f : Inst → Prog → ReinMove} (h : reinRun s f = .next t) :
    ∃ i p, s.turnInst = some (i, p) ∧
      ((∃ u idx, f i p = .go u idx ∧ t = { u.reinGo i p idx with turn := .idle }) ∨
        (∃ c, f i p = .wait c ∧ t = { s.setInst i.key (fun i => { i with wait := c }) with turn := .idle }) ∨
        (∃ c under va acc, f i p = .stop c under va acc ∧ t = { s.stopInst i c under va acc with turn := .idle }) ∨
        (∃ u, f i p = .finish u ∧ t = { u with turn := .idle })) := by
  unfold reinRun at h
  split at h
  · cases h
  · rename_i i p hi
    refine ⟨i, p, hi, ?_⟩
    dsimp only at h
    split at h <;> rename_i e <;> cases h
    · exact .inl ⟨_, _, e, rfl⟩
    · exact .inr (.inl ⟨_, e, rfl⟩)
    · exact .inr (.inr (.inl ⟨_, _, _, _, e, rfl⟩))
    · exact .inr (.inr (.inr ⟨_, e, rfl⟩))

/-! ## A step -/

/-- Mirror messages change the outbox alone. -/
theorem State.mirror_eq (s t : State) : s.mirror t = { t with outbox := (s.mirror t).outbox } := by
  unfold State.mirror
  dsimp only
  split <;> rfl

/-- The end of a step changes no memory. -/
@[simp] theorem State.tick_mem (s : State) : s.tick.mem = s.mem := rfl

/-- The end of a step changes no group. -/
@[simp] theorem State.tick_groups (s : State) : s.tick.groups = s.groups := rfl

/-- Mirror messages change no memory. -/
@[simp] theorem State.mirror_mem (s t : State) : (s.mirror t).mem = t.mem := by rw [State.mirror_eq]

/-- Mirror messages change no group. -/
@[simp] theorem State.mirror_groups (s t : State) : (s.mirror t).groups = t.groups := by rw [State.mirror_eq]

/-- A step with something on the agenda performs its head. -/
theorem step_agenda {s : State} {e : Instr} {rest : List Instr} (h : s.agenda = e :: rest) :
    step s = ticked s id (exec e { s with agenda := rest, turn := .own }) := by
  simp only [step, State.move, h]
  rfl

/-- A grant that is recorded changes no memory. -/
@[simp] theorem Move.after_mem (m : Move) (t : State) : (m.after t).mem = t.mem := by
  unfold Move.after State.granting
  repeat' split
  all_goals rfl

/-- A grant that is recorded changes no group. -/
@[simp] theorem Move.after_groups (m : Move) (t : State) : (m.after t).groups = t.groups := by
  unfold Move.after State.granting
  repeat' split
  all_goals rfl

/-- A step answers what its move's meaning answers, with its grant; without a move cycles pass. -/
theorem step_cases {s t : State} (h : step s = .next t) :
    (∃ m u, s.move = some m ∧ exec m.ins m.st = .next u ∧ t = (s.mirror (m.after u)).tick) ∨
      (s.move = none ∧ t = (s.mirror s.pass).tick) := by
  unfold step at h
  split at h
  · rename_i m hm
    refine .inl ⟨m, ?_⟩
    cases e : exec m.ins m.st with
    | next u =>
      rw [e] at h
      exact ⟨u, hm, rfl, (Host.Outcome.next.inj h).symm⟩
    | fault r =>
      rw [e] at h
      cases h
    | refused r =>
      rw [e] at h
      cases h
  · exact .inr ⟨by assumption, (Host.Outcome.next.inj h).symm⟩

/-! ## Choices of the device -/

/-- What the device picks is of the list. -/
theorem State.pick_mem {α : Type} {s : State} {l : List α} {x : α} (h : s.pick l = some x) : x ∈ l :=
  List.mem_of_getElem? h

/-- A multiple of `k` rounded up is one. -/
theorem roundUp_mod (n k : Nat) (h : 0 < k) : roundUp n k % k = 0 := by
  simp [roundUp, Nat.ne_of_gt h]

/-- The range that the device takes from a heap is aligned, lies in it and is free (12 R244). -/
theorem State.heapPick_some {s : State} {c : Nat} {more : List (Nat × Nat)} {n align a : Nat} (h : s.heapPick c more n align = some a) :
    ∃ x, s.ctx? c = some x ∧ rangeFree x.heapBase x.heapSize (more ++ s.taken c) a n = true ∧ (0 < align → a % align = 0) := by
  unfold State.heapPick at h
  split at h
  · rename_i b x hb hx
    refine ⟨x, hx, ?_⟩
    have hm := State.pick_mem hb
    simp only [State.heapFits, hx, List.mem_filter] at hm
    obtain ⟨hm, hf⟩ := hm
    obtain rfl := Option.some.inj h
    split
    · exact ⟨by assumption, roundUp_mod _ _⟩
    · obtain ⟨y, -, rfl⟩ := List.mem_map.mp hm
      exact ⟨hf, roundUp_mod _ _⟩
  · cases h

/-- The word that an engine runs is the one that RLOAD read, or one of the image, with what that read leaves. -/
theorem State.imageWord_cases (s : State) (p : Prog) (k : Nat) :
    s.imageWord p k = (p.words.getD (4 + k) 0, s) ∨ ∃ a bs t, p.img = some a ∧
      s.xread (some p.die) p.ctx (a + 32 + 8 * k) 8 .engineRead = .ok (bs, t) ∧
      s.imageWord p k = (BitVec.ofNat 64 (ofBytes (bs.map Prod.fst)), t) := by
  unfold State.imageWord
  dsimp only
  split
  · exact .inl rfl
  · rename_i a ha
    split
    · exact .inl rfl
    · split
      · exact .inl rfl
      · rename_i bs t hx
        split
        · exact .inl rfl
        · exact .inr ⟨a, bs, t, ha, hx, rfl⟩

end Sys2Proof.Machine
end

