-- ==== Sys2Proof/Laws/PerInstr.lean ====
section
/-!
SUPPORT. Laws/PerInstr.lean: the family Word, one lemma per constructor: an instruction has a word exactly when it is a tile
or a Rein instruction, and it is never both.
-/
namespace Sys2Proof.Laws

/-- An instruction has a word exactly when it is a tile or a Rein instruction, and it is never both. -/
def Word.Statement (i : Instr) : Prop := (encode i).isSome = (i.isTile || i.isRein) ∧ (i.isTile && i.isRein) = false

theorem Word.read (c : Ctl) (t : ITy) (r : RReg) : Word.Statement (.read c t r) := ⟨rfl, rfl⟩
theorem Word.write (c : Ctl) (t : ITy) (r : WReg) : Word.Statement (.write c t r) := ⟨rfl, rfl⟩
theorem Word.mov (c : Ctl) (t : ITy) : Word.Statement (.mov c t) := ⟨rfl, rfl⟩
theorem Word.fan (t : ITy) (t0 t1 t2 t3 : Tgt) : Word.Statement (.fan t t0 t1 t2 t3) := ⟨rfl, rfl⟩
theorem Word.movi (c : Ctl) (t : ITy) (imm : BitVec 32) : Word.Statement (.movi c t imm) := ⟨rfl, rfl⟩
theorem Word.movl (c : Ctl) (t : ITy) (lit : BitVec 4) : Word.Statement (.movl c t lit) := ⟨rfl, rfl⟩
theorem Word.void (t : ITy) (t0 t1 : Tgt) : Word.Statement (.void t t0 t1) := ⟨rfl, rfl⟩
theorem Word.sel (c : Ctl) (t : ITy) : Word.Statement (.sel c t) := ⟨rfl, rfl⟩
theorem Word.add (c : Ctl) (t : ITy) (f : SatForm) : Word.Statement (.add c t f) := ⟨rfl, rfl⟩
theorem Word.sub (c : Ctl) (t : ITy) (f : SatForm) : Word.Statement (.sub c t f) := ⟨rfl, rfl⟩
theorem Word.mul (c : Ctl) (t : ITy) (f : SatForm) : Word.Statement (.mul c t f) := ⟨rfl, rfl⟩
theorem Word.mulh (c : Ctl) (t : ITy) (f : SForm) : Word.Statement (.mulh c t f) := ⟨rfl, rfl⟩
theorem Word.mad (c : Ctl) (t : ITy) (f : MadForm) : Word.Statement (.mad c t f) := ⟨rfl, rfl⟩
theorem Word.div (c : Ctl) (t : ITy) (f : SatForm) : Word.Statement (.div c t f) := ⟨rfl, rfl⟩
theorem Word.rem (c : Ctl) (t : ITy) (f : SatForm) : Word.Statement (.rem c t f) := ⟨rfl, rfl⟩
theorem Word.neg (c : Ctl) (t : ITy) (sat : Bool) : Word.Statement (.neg c t sat) := ⟨rfl, rfl⟩
theorem Word.abs (c : Ctl) (t : ITy) (sat : Bool) : Word.Statement (.abs c t sat) := ⟨rfl, rfl⟩
theorem Word.min (c : Ctl) (t : ITy) (f : SForm) : Word.Statement (.min c t f) := ⟨rfl, rfl⟩
theorem Word.max (c : Ctl) (t : ITy) (f : SForm) : Word.Statement (.max c t f) := ⟨rfl, rfl⟩
theorem Word.and (c : Ctl) (t : ITy) (f : SForm) : Word.Statement (.and c t f) := ⟨rfl, rfl⟩
theorem Word.or (c : Ctl) (t : ITy) (f : SForm) : Word.Statement (.or c t f) := ⟨rfl, rfl⟩
theorem Word.xor (c : Ctl) (t : ITy) (f : SForm) : Word.Statement (.xor c t f) := ⟨rfl, rfl⟩
theorem Word.not (c : Ctl) (t : ITy) : Word.Statement (.not c t) := ⟨rfl, rfl⟩
theorem Word.shl (c : Ctl) (t : ITy) (f : SForm) : Word.Statement (.shl c t f) := ⟨rfl, rfl⟩
theorem Word.shr (c : Ctl) (t : ITy) (f : SForm) : Word.Statement (.shr c t f) := ⟨rfl, rfl⟩
theorem Word.sra (c : Ctl) (t : ITy) (f : SForm) : Word.Statement (.sra c t f) := ⟨rfl, rfl⟩
theorem Word.rot (c : Ctl) (t : ITy) (f : SForm) : Word.Statement (.rot c t f) := ⟨rfl, rfl⟩
theorem Word.clz (c : Ctl) (t : ITy) : Word.Statement (.clz c t) := ⟨rfl, rfl⟩
theorem Word.popc (c : Ctl) (t : ITy) : Word.Statement (.popc c t) := ⟨rfl, rfl⟩
theorem Word.bfx (c : Ctl) (t : ITy) (f : BfForm) : Word.Statement (.bfx c t f) := ⟨rfl, rfl⟩
theorem Word.bfi (c : Ctl) (t : ITy) (f : BfForm) : Word.Statement (.bfi c t f) := ⟨rfl, rfl⟩
theorem Word.lea (c : Ctl) (t : ITy) (f : SForm) : Word.Statement (.lea c t f) := ⟨rfl, rfl⟩
theorem Word.sext (c : Ctl) (t : ITy) : Word.Statement (.sext c t) := ⟨rfl, rfl⟩
theorem Word.zext (c : Ctl) (t : ITy) : Word.Statement (.zext c t) := ⟨rfl, rfl⟩
theorem Word.cmp (c : Ctl) (cond : Cond) (t : ITy) (f : SForm) : Word.Statement (.cmp c cond t f) := ⟨rfl, rfl⟩
theorem Word.pand (c : Ctl) : Word.Statement (.pand c) := ⟨rfl, rfl⟩
theorem Word.por (c : Ctl) : Word.Statement (.por c) := ⟨rfl, rfl⟩
theorem Word.pxor (c : Ctl) : Word.Statement (.pxor c) := ⟨rfl, rfl⟩
theorem Word.pnot (c : Ctl) : Word.Statement (.pnot c) := ⟨rfl, rfl⟩
theorem Word.plane (c : Ctl) (imm : BitVec 8) : Word.Statement (.plane c imm) := ⟨rfl, rfl⟩
theorem Word.pcount (c : Ctl) : Word.Statement (.pcount c) := ⟨rfl, rfl⟩
theorem Word.br (c : Ctl) : Word.Statement (.br c) := ⟨rfl, rfl⟩
theorem Word.bri (c : Ctl) (off : BitVec 32) : Word.Statement (.bri c off) := ⟨rfl, rfl⟩
theorem Word.call (c : Ctl) (off : BitVec 32) : Word.Statement (.call c off) := ⟨rfl, rfl⟩
theorem Word.ret (c : Ctl) : Word.Statement (.ret c) := ⟨rfl, rfl⟩
theorem Word.endg (c : Ctl) : Word.Statement (.endg c) := ⟨rfl, rfl⟩
theorem Word.trap (c : Ctl) (n : BitVec 6) : Word.Statement (.trap c n) := ⟨rfl, rfl⟩
theorem Word.vadd (c : Ctl) (t : ETy) (f : VForm) (m : VMods) : Word.Statement (.vadd c t f m) := ⟨rfl, rfl⟩
theorem Word.vsub (c : Ctl) (t : ETy) (f : VForm) (m : VMods) : Word.Statement (.vsub c t f m) := ⟨rfl, rfl⟩
theorem Word.vmul (c : Ctl) (t : ETy) (f : VForm) (m : VMods) : Word.Statement (.vmul c t f m) := ⟨rfl, rfl⟩
theorem Word.vdiv (c : Ctl) (t : FTy) (f : VForm) (m : VMods) : Word.Statement (.vdiv c t f m) := ⟨rfl, rfl⟩
theorem Word.vmin (c : Ctl) (t : ETy) (f : VForm) (mask : MaskUse) : Word.Statement (.vmin c t f mask) := ⟨rfl, rfl⟩
theorem Word.vmax (c : Ctl) (t : ETy) (f : VForm) (mask : MaskUse) : Word.Statement (.vmax c t f mask) := ⟨rfl, rfl⟩
theorem Word.vand (c : Ctl) (t : ITy) (f : VForm) (mask : MaskUse) : Word.Statement (.vand c t f mask) := ⟨rfl, rfl⟩
theorem Word.vor (c : Ctl) (t : ITy) (f : VForm) (mask : MaskUse) : Word.Statement (.vor c t f mask) := ⟨rfl, rfl⟩
theorem Word.vxor (c : Ctl) (t : ITy) (f : VForm) (mask : MaskUse) : Word.Statement (.vxor c t f mask) := ⟨rfl, rfl⟩
theorem Word.vshl (c : Ctl) (t : ITy) (f : VForm) (mask : MaskUse) : Word.Statement (.vshl c t f mask) := ⟨rfl, rfl⟩
theorem Word.vshr (c : Ctl) (t : ITy) (f : VForm) (mask : MaskUse) : Word.Statement (.vshr c t f mask) := ⟨rfl, rfl⟩
theorem Word.vsra (c : Ctl) (t : ITy) (f : VForm) (mask : MaskUse) : Word.Statement (.vsra c t f mask) := ⟨rfl, rfl⟩
theorem Word.vcmp (c : Ctl) (cond : Cond) (t : ETy) (f : VForm) (mask : MaskUse) : Word.Statement (.vcmp c cond t f mask) := ⟨rfl, rfl⟩
theorem Word.vfma (c : Ctl) (t : FTy) (rnd : Rnd) (sat : Bool) : Word.Statement (.vfma c t rnd sat) := ⟨rfl, rfl⟩
theorem Word.vabs (c : Ctl) (t : ETy) (sat : Bool) (mask : MaskUse) : Word.Statement (.vabs c t sat mask) := ⟨rfl, rfl⟩
theorem Word.vneg (c : Ctl) (t : ETy) (sat : Bool) (mask : MaskUse) : Word.Statement (.vneg c t sat mask) := ⟨rfl, rfl⟩
theorem Word.vnot (c : Ctl) (t : ITy) (mask : MaskUse) : Word.Statement (.vnot c t mask) := ⟨rfl, rfl⟩
theorem Word.vsel (c : Ctl) (t : ITy) : Word.Statement (.vsel c t) := ⟨rfl, rfl⟩
theorem Word.vcvt (c : Ctl) (dst src : ETy) (m : VMods) : Word.Statement (.vcvt c dst src m) := ⟨rfl, rfl⟩
theorem Word.vsqrt (c : Ctl) (t : FTy) (m : VMods) : Word.Statement (.vsqrt c t m) := ⟨rfl, rfl⟩
theorem Word.vrcp (c : Ctl) (t : FTy) (m : VMods) : Word.Statement (.vrcp c t m) := ⟨rfl, rfl⟩
theorem Word.vrsqrte (c : Ctl) (t : FTy) (mask : MaskUse) : Word.Statement (.vrsqrte c t mask) := ⟨rfl, rfl⟩
theorem Word.vexp2 (c : Ctl) (t : FTy) (m : VMods) : Word.Statement (.vexp2 c t m) := ⟨rfl, rfl⟩
theorem Word.vlog2 (c : Ctl) (t : FTy) (m : VMods) : Word.Statement (.vlog2 c t m) := ⟨rfl, rfl⟩
theorem Word.vtanh (c : Ctl) (t : FTy) (mask : MaskUse) : Word.Statement (.vtanh c t mask) := ⟨rfl, rfl⟩
theorem Word.vreduce (c : Ctl) (t : ETy) (kind : Red) (m : VMods) : Word.Statement (.vreduce c t kind m) := ⟨rfl, rfl⟩
theorem Word.vscan (c : Ctl) (t : ETy) (kind : Red) (m : VMods) : Word.Statement (.vscan c t kind m) := ⟨rfl, rfl⟩
theorem Word.vperm (c : Ctl) (t : ITy) (mask : MaskUse) : Word.Statement (.vperm c t mask) := ⟨rfl, rfl⟩
theorem Word.vxlane (c : Ctl) (t : ITy) : Word.Statement (.vxlane c t) := ⟨rfl, rfl⟩
theorem Word.vbcast (c : Ctl) (t : ITy) (mask : MaskUse) : Word.Statement (.vbcast c t mask) := ⟨rfl, rfl⟩
theorem Word.vextr (c : Ctl) (t : ITy) : Word.Statement (.vextr c t) := ⟨rfl, rfl⟩
theorem Word.vins (c : Ctl) (t : ITy) : Word.Statement (.vins c t) := ⟨rfl, rfl⟩
theorem Word.viota (c : Ctl) (t : ITy) (mask : MaskUse) : Word.Statement (.viota c t mask) := ⟨rfl, rfl⟩
theorem Word.vsortk (c : Ctl) (t : ETy) (mask : MaskUse) : Word.Statement (.vsortk c t mask) := ⟨rfl, rfl⟩
theorem Word.vmerge (c : Ctl) (t : ETy) : Word.Statement (.vmerge c t) := ⟨rfl, rfl⟩
theorem Word.kany (c : Ctl) (t : ITy) : Word.Statement (.kany c t) := ⟨rfl, rfl⟩
theorem Word.kall (c : Ctl) (t : ITy) : Word.Statement (.kall c t) := ⟨rfl, rfl⟩
theorem Word.kpop (c : Ctl) (t : ITy) : Word.Statement (.kpop c t) := ⟨rfl, rfl⟩
theorem Word.mma (c : Ctl) (t : FTy) (o : MmaOps) : Word.Statement (.mma c t o) := ⟨rfl, rfl⟩
theorem Word.mmaG (c : Ctl) (t : FTy) (o : MmaOps) : Word.Statement (.mmaG c t o) := ⟨rfl, rfl⟩
theorem Word.mmas (c : Ctl) (t : FTy) (o : MmaOps) : Word.Statement (.mmas c t o) := ⟨rfl, rfl⟩
theorem Word.mzero (c : Ctl) (lsid : BitVec 5) (accs : BitVec 16) : Word.Statement (.mzero c lsid accs) := ⟨rfl, rfl⟩
theorem Word.mld (c : Ctl) (lsid : BitVec 5) (acc : BitVec 4) : Word.Statement (.mld c lsid acc) := ⟨rfl, rfl⟩
theorem Word.mst (c : Ctl) (o : MstOps) : Word.Statement (.mst c o) := ⟨rfl, rfl⟩
theorem Word.qinit (c : Ctl) (lsid : BitVec 5) (q : BitVec 3) (entry : BitVec 10) (cexp : BitVec 4) : Word.Statement (.qinit c lsid q entry cexp) := ⟨rfl, rfl⟩
theorem Word.qpush (c : Ctl) (lsid : BitVec 5) (q : BitVec 3) : Word.Statement (.qpush c lsid q) := ⟨rfl, rfl⟩
theorem Word.qpop (c : Ctl) (lsid : BitVec 5) (q : BitVec 3) : Word.Statement (.qpop c lsid q) := ⟨rfl, rfl⟩
theorem Word.qstat (c : Ctl) (lsid : BitVec 5) (q : BitVec 3) : Word.Statement (.qstat c lsid q) := ⟨rfl, rfl⟩
theorem Word.cpy (c : Ctl) (o : CpyOps) : Word.Statement (.cpy c o) := ⟨rfl, rfl⟩
theorem Word.cpyS (c : Ctl) (o : CpyOps) : Word.Statement (.cpyS c o) := ⟨rfl, rfl⟩
theorem Word.cpy2d (c : Ctl) (o : CpyOps) : Word.Statement (.cpy2d c o) := ⟨rfl, rfl⟩
theorem Word.cpyPeer (c : Ctl) (o : CpyOps) : Word.Statement (.cpyPeer c o) := ⟨rfl, rfl⟩
theorem Word.cpyMc (c : Ctl) (o : CpyOps) : Word.Statement (.cpyMc c o) := ⟨rfl, rfl⟩
theorem Word.cpyg (c : Ctl) (o : CpyOps) : Word.Statement (.cpyg c o) := ⟨rfl, rfl⟩
theorem Word.pref (c : Ctl) (lsid : BitVec 5) (bytes : BitVec 12) : Word.Statement (.pref c lsid bytes) := ⟨rfl, rfl⟩
theorem Word.binit (c : Ctl) (lsid : BitVec 5) (off : BitVec 24) : Word.Statement (.binit c lsid off) := ⟨rfl, rfl⟩
theorem Word.bexpect (c : Ctl) (lsid : BitVec 5) (off : BitVec 24) : Word.Statement (.bexpect c lsid off) := ⟨rfl, rfl⟩
theorem Word.barrive (c : Ctl) (lsid : BitVec 5) (off : BitVec 24) : Word.Statement (.barrive c lsid off) := ⟨rfl, rfl⟩
theorem Word.bwait (c : Ctl) (lsid : BitVec 5) (off : BitVec 24) : Word.Statement (.bwait c lsid off) := ⟨rfl, rfl⟩
theorem Word.btest (c : Ctl) (lsid : BitVec 5) (off : BitVec 24) : Word.Statement (.btest c lsid off) := ⟨rfl, rfl⟩
theorem Word.sbind (c : Ctl) (lsid : BitVec 5) (s : BitVec 3) (kind : SKind) : Word.Statement (.sbind c lsid s kind) := ⟨rfl, rfl⟩
theorem Word.semit (c : Ctl) (t : ITy) (lsid : BitVec 5) (s : BitVec 3) : Word.Statement (.semit c t lsid s) := ⟨rfl, rfl⟩
theorem Word.sunbind (c : Ctl) (lsid : BitVec 5) (s : BitVec 3) : Word.Statement (.sunbind c lsid s) := ⟨rfl, rfl⟩
theorem Word.sst (c : Ctl) (lsid : BitVec 5) (s : BitVec 3) : Word.Statement (.sst c lsid s) := ⟨rfl, rfl⟩
theorem Word.lds (c : Ctl) (t : ITy) (lsid : BitVec 5) (vec : Bool) (off : BitVec 24) : Word.Statement (.lds c t lsid vec off) := ⟨rfl, rfl⟩
theorem Word.sts (c : Ctl) (t : ITy) (lsid : BitVec 5) (vec : Bool) (off : BitVec 24) : Word.Statement (.sts c t lsid vec off) := ⟨rfl, rfl⟩
theorem Word.ld (c : Ctl) (t : ITy) (acq : Bool) (o : MemOps) : Word.Statement (.ld c t acq o) := ⟨rfl, rfl⟩
theorem Word.st (c : Ctl) (t : ITy) (rel : Bool) (o : MemOps) : Word.Statement (.st c t rel o) := ⟨rfl, rfl⟩
theorem Word.ldv (c : Ctl) (t : ITy) (acq : Bool) (o : MemOps) : Word.Statement (.ldv c t acq o) := ⟨rfl, rfl⟩
theorem Word.stv (c : Ctl) (t : ITy) (rel : Bool) (o : MemOps) : Word.Statement (.stv c t rel o) := ⟨rfl, rfl⟩
theorem Word.gather (c : Ctl) (t : ITy) (lsid : BitVec 5) (mask : Bool) (off : BitVec 24) : Word.Statement (.gather c t lsid mask off) := ⟨rfl, rfl⟩
theorem Word.scatter (c : Ctl) (t : ITy) (lsid : BitVec 5) (off : BitVec 24) : Word.Statement (.scatter c t lsid off) := ⟨rfl, rfl⟩
theorem Word.amoAdd (c : Ctl) (t : ITy) (ord : Order) (o : MemOps) : Word.Statement (.amoAdd c t ord o) := ⟨rfl, rfl⟩
theorem Word.amoMin (c : Ctl) (t : ITy) (ord : Order) (o : MemOps) : Word.Statement (.amoMin c t ord o) := ⟨rfl, rfl⟩
theorem Word.amoMax (c : Ctl) (t : ITy) (ord : Order) (o : MemOps) : Word.Statement (.amoMax c t ord o) := ⟨rfl, rfl⟩
theorem Word.amoAnd (c : Ctl) (t : ITy) (ord : Order) (o : MemOps) : Word.Statement (.amoAnd c t ord o) := ⟨rfl, rfl⟩
theorem Word.amoOr (c : Ctl) (t : ITy) (ord : Order) (o : MemOps) : Word.Statement (.amoOr c t ord o) := ⟨rfl, rfl⟩
theorem Word.amoXor (c : Ctl) (t : ITy) (ord : Order) (o : MemOps) : Word.Statement (.amoXor c t ord o) := ⟨rfl, rfl⟩
theorem Word.amoSwap (c : Ctl) (t : ITy) (ord : Order) (o : MemOps) : Word.Statement (.amoSwap c t ord o) := ⟨rfl, rfl⟩
theorem Word.amoCas (c : Ctl) (t : ITy) (ord : Order) (o : MemOps) : Word.Statement (.amoCas c t ord o) := ⟨rfl, rfl⟩
theorem Word.fence (c : Ctl) (lsid : BitVec 5) (ord : FOrder) (scope : Scope) : Word.Statement (.fence c lsid ord scope) := ⟨rfl, rfl⟩
theorem Word.alloc (c : Ctl) (lsid : BitVec 5) (place : APlace) (j : BitVec 6) : Word.Statement (.alloc c lsid place j) := ⟨rfl, rfl⟩
theorem Word.free (c : Ctl) (lsid : BitVec 5) : Word.Statement (.free c lsid) := ⟨rfl, rfl⟩
theorem Word.vcommit (c : Ctl) (lsid : BitVec 5) (sz : PgSize) : Word.Statement (.vcommit c lsid sz) := ⟨rfl, rfl⟩
theorem Word.vdecommit (c : Ctl) (lsid : BitVec 5) (sz : PgSize) : Word.Statement (.vdecommit c lsid sz) := ⟨rfl, rfl⟩
theorem Word.vquery (c : Ctl) (lsid : BitVec 5) : Word.Statement (.vquery c lsid) := ⟨rfl, rfl⟩
theorem Word.vmigrate (c : Ctl) (lsid : BitVec 5) (tier1 : Bool) (place : BitVec 2) (arrive : Bool) (sz : PgSize) : Word.Statement (.vmigrate c lsid tier1 place arrive sz) := ⟨rfl, rfl⟩
theorem Word.pin (c : Ctl) (lsid : BitVec 5) (sz : PgSize) : Word.Statement (.pin c lsid sz) := ⟨rfl, rfl⟩
theorem Word.unpin (c : Ctl) (lsid : BitVec 5) (sz : PgSize) : Word.Statement (.unpin c lsid sz) := ⟨rfl, rfl⟩
theorem Word.srd (c : Ctl) (r : SysReg) : Word.Statement (.srd c r) := ⟨rfl, rfl⟩
theorem Word.swr (c : Ctl) (lsid : BitVec 5) (r : SwReg) : Word.Statement (.swr c lsid r) := ⟨rfl, rfl⟩
theorem Word.tspawn (c : Ctl) (lsid : BitVec 5) (given : Bool) (d : BitVec 2) : Word.Statement (.tspawn c lsid given d) := ⟨rfl, rfl⟩
theorem Word.tdec (c : Ctl) (lsid : BitVec 5) (n : BitVec 16) : Word.Statement (.tdec c lsid n) := ⟨rfl, rfl⟩
theorem Word.tinst (c : Ctl) (lsid : BitVec 5) (id : BitVec 12) : Word.Statement (.tinst c lsid id) := ⟨rfl, rfl⟩
theorem Word.tstat (c : Ctl) (lsid : BitVec 5) : Word.Statement (.tstat c lsid) := ⟨rfl, rfl⟩
theorem Word.relay (c : Ctl) (lsid : BitVec 5) : Word.Statement (.relay c lsid) := ⟨rfl, rfl⟩
theorem Word.relaySig (c : Ctl) (lsid : BitVec 5) : Word.Statement (.relaySig c lsid) := ⟨rfl, rfl⟩
theorem Word.relayPrep (c : Ctl) (lsid : BitVec 5) (n : BitVec 3) : Word.Statement (.relayPrep c lsid n) := ⟨rfl, rfl⟩
theorem Word.gresume (c : Ctl) (lsid : BitVec 5) (rank : BitVec 4) : Word.Statement (.gresume c lsid rank) := ⟨rfl, rfl⟩
theorem Word.gkill (c : Ctl) (lsid : BitVec 5) (rank : BitVec 4) : Word.Statement (.gkill c lsid rank) := ⟨rfl, rfl⟩
theorem Word.rload (c : Ctl) (lsid : BitVec 5) (stage parity : BitVec 12) : Word.Statement (.rload c lsid stage parity) := ⟨rfl, rfl⟩
theorem Word.rstart (c : Ctl) (lsid : BitVec 5) (arrive credit rerun : Bool) (id : BitVec 12) : Word.Statement (.rstart c lsid arrive credit rerun id) := ⟨rfl, rfl⟩
theorem Word.rabort (c : Ctl) (lsid : BitVec 5) (id : BitVec 12) : Word.Statement (.rabort c lsid id) := ⟨rfl, rfl⟩
theorem Word.rstat (c : Ctl) (lsid : BitVec 5) (id : BitVec 12) : Word.Statement (.rstat c lsid id) := ⟨rfl, rfl⟩
theorem Word.nop : Word.Statement (.nop) := ⟨rfl, rfl⟩
theorem Word.movg (a b : BitVec 4) : Word.Statement (.movg a b) := ⟨rfl, rfl⟩
theorem Word.reinMovi (a : BitVec 4) (imm : BitVec 32) : Word.Statement (.reinMovi a imm) := ⟨rfl, rfl⟩
theorem Word.addg (a b c : BitVec 4) : Word.Statement (.addg a b c) := ⟨rfl, rfl⟩
theorem Word.addi (a b : BitVec 4) (imm : BitVec 32) : Word.Statement (.addi a b imm) := ⟨rfl, rfl⟩
theorem Word.subg (a b c : BitVec 4) : Word.Statement (.subg a b c) := ⟨rfl, rfl⟩
theorem Word.mulg (a b c : BitVec 4) : Word.Statement (.mulg a b c) := ⟨rfl, rfl⟩
theorem Word.modg (a b c : BitVec 4) : Word.Statement (.modg a b c) := ⟨rfl, rfl⟩
theorem Word.andg (a b c : BitVec 4) : Word.Statement (.andg a b c) := ⟨rfl, rfl⟩
theorem Word.shrg (a b c : BitVec 4) : Word.Statement (.shrg a b c) := ⟨rfl, rfl⟩
theorem Word.jmp (imm : BitVec 32) : Word.Statement (.jmp imm) := ⟨rfl, rfl⟩
theorem Word.loop (a : BitVec 4) (imm : BitVec 32) : Word.Statement (.loop a imm) := ⟨rfl, rfl⟩
theorem Word.bnz (a : BitVec 4) (imm : BitVec 32) : Word.Statement (.bnz a imm) := ⟨rfl, rfl⟩
theorem Word.bz (a : BitVec 4) (imm : BitVec 32) : Word.Statement (.bz a imm) := ⟨rfl, rfl⟩
theorem Word.setchunk (a : BitVec 3) (b c : BitVec 4) (sp : BitVec 2) : Word.Statement (.setchunk a b c sp) := ⟨rfl, rfl⟩
theorem Word.addc (a : BitVec 3) (b : BitVec 4) : Word.Statement (.addc a b) := ⟨rfl, rfl⟩
theorem Word.peer (a b : BitVec 4) (kind : PeerKind) : Word.Statement (.peer a b kind) := ⟨rfl, rfl⟩
theorem Word.send (a : BitVec 3) (b : BitVec 4) (c : BitVec 3) : Word.Statement (.send a b c) := ⟨rfl, rfl⟩
theorem Word.recv (a : BitVec 3) (b : BitVec 4) : Word.Statement (.recv a b) := ⟨rfl, rfl⟩
theorem Word.reduce (a b c : BitVec 3) (op : Red) (t : ETy) : Word.Statement (.reduce a b c op t) := ⟨rfl, rfl⟩
theorem Word.copy (a b : BitVec 3) : Word.Statement (.copy a b) := ⟨rfl, rfl⟩
theorem Word.wait (b : BitVec 4) : Word.Statement (.wait b) := ⟨rfl, rfl⟩
theorem Word.reinSignal (b : BitVec 4) : Word.Statement (.reinSignal b) := ⟨rfl, rfl⟩
theorem Word.tagchk (a : BitVec 4) (b : BitVec 3) : Word.Statement (.tagchk a b) := ⟨rfl, rfl⟩
theorem Word.blockFetchDecode (p : Place) : Word.Statement (.blockFetchDecode p) := ⟨rfl, rfl⟩
theorem Word.awaitedTokenArrives (p : Place) : Word.Statement (.awaitedTokenArrives p) := ⟨rfl, rfl⟩
theorem Word.blockComplete (p : Place) : Word.Statement (.blockComplete p) := ⟨rfl, rfl⟩
theorem Word.leaseWaitExpiry (p : Place) : Word.Statement (.leaseWaitExpiry p) := ⟨rfl, rfl⟩
theorem Word.runtimeFaultDiscard (p : Place) : Word.Statement (.runtimeFaultDiscard p) := ⟨rfl, rfl⟩
theorem Word.cutGraceExpiry (p : Place) : Word.Statement (.cutGraceExpiry p) := ⟨rfl, rfl⟩
theorem Word.storePerform (p : Place) : Word.Statement (.storePerform p) := ⟨rfl, rfl⟩
theorem Word.lineEviction (die line : Nat) : Word.Statement (.lineEviction die line) := ⟨rfl, rfl⟩
theorem Word.touchCommit (ctx : Nat) (va : Word) (who : Option Place) : Word.Statement (.touchCommit ctx va who) := ⟨rfl, rfl⟩
theorem Word.pageCommandPerform (ctx : Nat) : Word.Statement (.pageCommandPerform ctx) := ⟨rfl, rfl⟩
theorem Word.invalidation (ctx : Nat) : Word.Statement (.invalidation ctx) := ⟨rfl, rfl⟩
theorem Word.invalidationComplete (ctx : Nat) : Word.Statement (.invalidationComplete ctx) := ⟨rfl, rfl⟩
theorem Word.migratePage (ctx : Nat) (va : Word) : Word.Statement (.migratePage ctx va) := ⟨rfl, rfl⟩
theorem Word.matrixCommandStart (p : Place) : Word.Statement (.matrixCommandStart p) := ⟨rfl, rfl⟩
theorem Word.matrixCommandRetire (p : Place) : Word.Statement (.matrixCommandRetire p) := ⟨rfl, rfl⟩
theorem Word.copyPiece (p : Place) (cmd piece : Nat) : Word.Statement (.copyPiece p cmd piece) := ⟨rfl, rfl⟩
theorem Word.engineFaultReport (p : Place) : Word.Statement (.engineFaultReport p) := ⟨rfl, rfl⟩
theorem Word.streamPrefetch (p : Place) (reg : Nat) : Word.Statement (.streamPrefetch p reg) := ⟨rfl, rfl⟩
theorem Word.trapRecordWrite (ctx : Nat) : Word.Statement (.trapRecordWrite ctx) := ⟨rfl, rfl⟩
theorem Word.handlerSpawn (ctx : Nat) : Word.Statement (.handlerSpawn ctx) := ⟨rfl, rfl⟩
theorem Word.decrementApply (k : Nat) : Word.Statement (.decrementApply k) := ⟨rfl, rfl⟩
theorem Word.placement (die idx : Nat) (tiles : List Nat) : Word.Statement (.placement die idx tiles) := ⟨rfl, rfl⟩
theorem Word.prefetchLanded (w : Prefetch) : Word.Statement (.prefetchLanded w) := ⟨rfl, rfl⟩
theorem Word.multicastWaitExpiry (w : Prefetch) : Word.Statement (.multicastWaitExpiry w) := ⟨rfl, rfl⟩
theorem Word.binding (die idx : Nat) (slots : List Nat) : Word.Statement (.binding die idx slots) := ⟨rfl, rfl⟩
theorem Word.runnableTimeout (die idx : Nat) (tiles : List Nat) : Word.Statement (.runnableTimeout die idx tiles) := ⟨rfl, rfl⟩
theorem Word.taskCompletion (die idx : Nat) : Word.Statement (.taskCompletion die idx) := ⟨rfl, rfl⟩
theorem Word.relayHold (p : Place) : Word.Statement (.relayHold p) := ⟨rfl, rfl⟩
theorem Word.stallWatchdogExpiry (ctx : Nat) : Word.Statement (.stallWatchdogExpiry ctx) := ⟨rfl, rfl⟩
theorem Word.instanceStart (die k : Nat) : Word.Statement (.instanceStart die k) := ⟨rfl, rfl⟩
theorem Word.chunkArrival (die : Nat) (ch : Chunk) : Word.Statement (.chunkArrival die ch) := ⟨rfl, rfl⟩
theorem Word.chunkLand (die k : Nat) : Word.Statement (.chunkLand die k) := ⟨rfl, rfl⟩
theorem Word.chunkAck (nm : ChunkName) : Word.Statement (.chunkAck nm) := ⟨rfl, rfl⟩
theorem Word.chunkNak (nm : ChunkName) : Word.Statement (.chunkNak nm) := ⟨rfl, rfl⟩
theorem Word.chunkRetryTimer (nm : ChunkName) : Word.Statement (.chunkRetryTimer nm) := ⟨rfl, rfl⟩
theorem Word.signalArrival (m : SignalMsg) : Word.Statement (.signalArrival m) := ⟨rfl, rfl⟩
theorem Word.abortArrival (m : RankMsg) : Word.Statement (.abortArrival m) := ⟨rfl, rfl⟩
theorem Word.saveComplete (ctx : Nat) : Word.Statement (.saveComplete ctx) := ⟨rfl, rfl⟩
theorem Word.restoreComplete (ctx : Nat) : Word.Statement (.restoreComplete ctx) := ⟨rfl, rfl⟩
theorem Word.drainReductionRound (ctx : Nat) (others : List Int) : Word.Statement (.drainReductionRound ctx others) := ⟨rfl, rfl⟩
theorem Word.createContext (m : BridleMsg) (frames : List Nat) : Word.Statement (.createContext m frames) := ⟨rfl, rfl⟩
theorem Word.tearDown (m : BridleMsg) : Word.Statement (.tearDown m) := ⟨rfl, rfl⟩
theorem Word.preEmpt (m : BridleMsg) : Word.Statement (.preEmpt m) := ⟨rfl, rfl⟩
theorem Word.resume (m : BridleMsg) : Word.Statement (.resume m) := ⟨rfl, rfl⟩
theorem Word.podSwitch (m : BridleMsg) : Word.Statement (.podSwitch m) := ⟨rfl, rfl⟩
theorem Word.registerTemplate (m : BridleMsg) : Word.Statement (.registerTemplate m) := ⟨rfl, rfl⟩
theorem Word.launch (m : BridleMsg) : Word.Statement (.launch m) := ⟨rfl, rfl⟩
theorem Word.signal (m : BridleMsg) : Word.Statement (.signal m) := ⟨rfl, rfl⟩
theorem Word.bridleWrite (m : BridleMsg) : Word.Statement (.bridleWrite m) := ⟨rfl, rfl⟩
theorem Word.bridleRead (m : BridleMsg) : Word.Statement (.bridleRead m) := ⟨rfl, rfl⟩
theorem Word.status (m : BridleMsg) : Word.Statement (.status m) := ⟨rfl, rfl⟩
theorem Word.linkQueues (m : BridleMsg) : Word.Statement (.linkQueues m) := ⟨rfl, rfl⟩
theorem Word.gatedCommandStart (queue : Nat) : Word.Statement (.gatedCommandStart queue) := ⟨rfl, rfl⟩
theorem Word.map (m : BridleMsg) : Word.Statement (.map m) := ⟨rfl, rfl⟩
theorem Word.powerTolerance (m : BridleMsg) : Word.Statement (.powerTolerance m) := ⟨rfl, rfl⟩
theorem Word.loadFirmware (m : BridleMsg) : Word.Statement (.loadFirmware m) := ⟨rfl, rfl⟩
theorem Word.attest (m : BridleMsg) : Word.Statement (.attest m) := ⟨rfl, rfl⟩
theorem Word.createTask (m : BridleMsg) : Word.Statement (.createTask m) := ⟨rfl, rfl⟩
theorem Word.health (m : BridleMsg) : Word.Statement (.health m) := ⟨rfl, rfl⟩
theorem Word.configurePackage (m : BridleMsg) : Word.Statement (.configurePackage m) := ⟨rfl, rfl⟩
theorem Word.registerRegion (m : BridleMsg) : Word.Statement (.registerRegion m) := ⟨rfl, rfl⟩
theorem Word.deregisterRegion (m : BridleMsg) : Word.Statement (.deregisterRegion m) := ⟨rfl, rfl⟩
theorem Word.runAhead (p : Place) (addr : Word) : Word.Statement (.runAhead p addr) := ⟨rfl, rfl⟩
theorem Word.decrementMessage (m : DecMsg) : Word.Statement (.decrementMessage m) := ⟨rfl, rfl⟩
theorem Word.rdmaWrite (qp key : Nat) (va : Word) (bytes : List Byte) : Word.Statement (.rdmaWrite qp key va bytes) := ⟨rfl, rfl⟩
theorem Word.ualinkRemoteAccess (pkg addr : Nat) (op : RemoteOp) : Word.Statement (.ualinkRemoteAccess pkg addr op) := ⟨rfl, rfl⟩
theorem Word.taskProbe (w : Prober) (j : Nat) : Word.Statement (.taskProbe w j) := ⟨rfl, rfl⟩
theorem Word.connectQueuePair (m : BridleMsg) : Word.Statement (.connectQueuePair m) := ⟨rfl, rfl⟩
theorem Word.unknownOpcode (m : BridleMsg) : Word.Statement (.unknownOpcode m) := ⟨rfl, rfl⟩
theorem Word.reinFence : Word.Statement (.reinFence) := ⟨rfl, rfl⟩
theorem Word.done : Word.Statement (.done) := ⟨rfl, rfl⟩
theorem Word.idleEntry : Word.Statement (.idleEntry) := ⟨rfl, rfl⟩
theorem Word.rdmaRead (qp key : Nat) (va : Word) (n : Nat) : Word.Statement (.rdmaRead qp key va n) := ⟨rfl, rfl⟩
theorem Word.pageWalk (die tile ctx : Nat) (va : Word) (acc : Access) : Word.Statement (.pageWalk die tile ctx va acc) := ⟨rfl, rfl⟩
theorem Word.poisonError (loc : PoisonHit) : Word.Statement (.poisonError loc) := ⟨rfl, rfl⟩
theorem Word.uncorrectableGroupState (p : Place) (hit : StateHit) : Word.Statement (.uncorrectableGroupState p hit) := ⟨rfl, rfl⟩
theorem Word.correctedError (unit : Word) (uncorrectable : Bool) : Word.Statement (.correctedError unit uncorrectable) := ⟨rfl, rfl⟩
theorem Word.errorWindowExpiry (unit : Word) : Word.Statement (.errorWindowExpiry unit) := ⟨rfl, rfl⟩
theorem Word.trapQueueHeadPoll (ctx : Nat) : Word.Statement (.trapQueueHeadPoll ctx) := ⟨rfl, rfl⟩
theorem Word.hello (m : BridleMsg) : Word.Statement (.hello m) := ⟨rfl, rfl⟩
theorem Word.remoteInvalidRequest (qp : Nat) : Word.Statement (.remoteInvalidRequest qp) := ⟨rfl, rfl⟩
theorem Word.heartbeat : Word.Statement (.heartbeat) := ⟨rfl, rfl⟩
theorem Word.packageFailed (pkg : Nat) : Word.Statement (.packageFailed pkg) := ⟨rfl, rfl⟩
theorem Word.recoveryRebuild (pkg : Nat) : Word.Statement (.recoveryRebuild pkg) := ⟨rfl, rfl⟩
theorem Word.wake : Word.Statement (.wake) := ⟨rfl, rfl⟩
theorem Word.errorSelect (v : Word) : Word.Statement (.errorSelect v) := ⟨rfl, rfl⟩
theorem Word.powerLimit (v : Word) : Word.Statement (.powerLimit v) := ⟨rfl, rfl⟩
theorem Word.reset : Word.Statement (.reset) := ⟨rfl, rfl⟩
theorem Word.readOnlyRegisterWrite (off : Nat) (v : Word) : Word.Statement (.readOnlyRegisterWrite off v) := ⟨rfl, rfl⟩
theorem Word.recoveryMirror (m : Mirror) : Word.Statement (.recoveryMirror m) := ⟨rfl, rfl⟩

end Sys2Proof.Laws
end

