-- ==== Sys2Proof/Tests/Slice0.lean ====
section
/-!
SUPPORT. Tests/Slice0.lean: small checks of the model. Words and values come from the tables and worked examples of spec/;
theorems named test_meets_* give states and operands that meet the hypotheses of the statements.
-/
namespace Sys2Proof.Tests
open Sys2Proof Sys2Proof.Machine

/-! ## States to test on -/

/-- A place for every test: slot 0 of tile 0 of CD0. -/
def here : Place := ⟨0, 0, 0⟩

/-- A second place, slot 1 of the same tile. -/
def there : Place := ⟨0, 0, 1⟩

/-- A live context in slot 0. Page 0 of its first 64 KiB pages is committed on frame 16 with every permission, page 1 is reserved
with Touch, page 2 reserved without; frames 32 and 33 are its pool; its heap is page 4. -/
def ctxT : Ctx where
  slot := 0
  gen := 1
  st := .live
  tag := 7
  weight := 1
  q0 := 1
  q1 := 2
  heapBase := 0x40000
  heapSize := 0x10000
  tqBase := 0
  tqS := 6
  handlerDesc := 0
  stall := 0
  mapBase := 0
  mapSize := 0
  saveBase := 0
  saveSize := 0
  cap := 16
  buddy := 0
  noBuddy := true
  durable := []
  payload := []
  pte := [(⟨1, 0⟩, 1), (⟨2, 0⟩, 1), (⟨3, 0⟩, 0x1001CA), (⟨3, 1⟩, 0x3C6), (⟨3, 2⟩, 0x1C6)]
  pool := [16, 32, 33]
  frames := [32, 33]
  allocs := []
  pageCmds := []
  invals := []
  migs := []
  templates := []
  ginsts := []
  counters := {}
  tail := 0
  overflows := 0
  spell := false
  held := []
  handlerRec := none
  handlerLive := false
  tried := 0
  slotLog := []
  watch := 0
  sent := 0
  applied := 0
  cut := .preempt
  drain := none
  cutAt := 0
  mapFault := 0
  epoch := 0
  podPkgs := []
  savedGroups := []
  waits := []
  aborts := []
  asked := false

/-- A node of an instruction whose slots hold the tokens. -/
def nodeT (i : Instr) (l r t g : Option Token) : Node := { freshNode ((encode i).getD 0) i with l := l, r := r, t := t, g := g }

/-- A running block at address 0 of one of these nodes, the first in turn, with the literals. -/
def runT (lits : List Word) (ns : List Node) : BlockRun := ⟨0, ns.length, lits.length, 0, false, false, lits, ns, 0, []⟩

/-- A group of the largest shape that runs a block. -/
def groupT (p : Place) (run : Option BlockRun) : Group :=
  { freshGroup p 0 1 0x80000 0 [p] false widestDesc (List.replicate 8 {}) (List.replicate 8 none) [] [] 0 with run := run }

/-- The package with one context and groups. -/
def stateT (gs : List Group) : State := { State.reset with ctxs := [ctxT], groups := gs, turn := .group here }

/-- The turn stands at an instruction with these tokens. -/
def atT (i : Instr) (l r t g : Option Token) : State := stateT [groupT here (some (runT [7, 9] [nodeT i l r t g]))]

/-- The turn stands at an instruction that fires, and more holds of it. -/
def Met (s : State) (i : Instr) (H : Group → BlockRun → Node → List Nat → Prop) : Prop :=
  ∃ g r n ls, Claims.Fires s i g r n ls ∧ H g r n ls

/-- Unguarded, without targets. -/
def free : Ctl := ⟨.off, .off, .off⟩

/-- An S token. -/
abbrev sTok (w : Word) : Option Token := some (.s w)

/-- A P token with the same bit in every lane, -/
def pTok (b : Bool) : Option Token := some (.p (laneAll (some b)))

/-- a K token, -/
def kTok (m : MaskBits) : Option Token := some (.k (laneAll (some m)))

/-- and a V token. -/
def vTok (x : LaneBits) : Option Token := some (.v (laneAll (some x)))

/-- The token an instruction delivers to its first target .l of a second node. -/
def resultOf (i : Instr) (l r t g : Option Token) : Option Token :=
  match exec i (stateT [groupT here (some (runT [7, 9] [nodeT i l r t g, nodeT (.mov free .s64) none none none none]))]) with
  | .next s => (s.group? here).bind fun g => g.run.bind fun r => (r.nodes[1]?).bind Node.l
  | _ => none

/-- The S value it delivers. -/
def valueOf (i : Instr) (l r t : Option Token) : Option Word :=
  match resultOf i l r t none with
  | some (.s w) => some w
  | _ => none

/-- Unguarded, delivering to .l of node 1. -/
def toOne : Ctl := ⟨.off, .to .l 1, .off⟩

/-- A scratch or page address at its edge: the last granule of the last window. -/
abbrev last : Word := 0x7FFF0

set_option maxRecDepth 100000

/-- An answer that a kernel computation shows. -/
theorem isOk {ε α : Type} [DecidableEq α] {x : Except ε α} {a : α}
    (h : (match x with | .ok b => decide (b = a) | .error _ => false) = true) : x = .ok a := by
  cases x <;> simp_all

/-! ## Decoding: the words that spec/ writes out -/

/-- Every word of the list decodes to what it stands for. -/
def Decodes : List (Word × Instr) → Prop
  | [] => True
  | x :: l => decode x.1 = .ok x.2 ∧ Decodes l

/-- The same of Rein words. -/
def DecodesRein : List (Word × Instr) → Prop
  | [] => True
  | x :: l => decodeRein x.1 = .ok x.2 ∧ DecodesRein l

/-- Every word of the list is refused with the cause beside it. -/
def Refuses : List (Word × Cause) → Prop
  | [] => True
  | x :: l => decode x.1 = .error x.2 ∧ Refuses l

/-- Guard and targets. -/
def c (g : Guard) (a b : Tgt) : Ctl := ⟨g, a, b⟩

/-- 02 and 04: the block `step`, and the count loop of chapter 04. -/
theorem test_words_of_02_and_04 : Decodes
    [(0x0058_0207_0100_0000, .read (c .off (.to .l 2) (.to .l 7)) .s64 (.x 1)),
     (0x0058_22FF_0200_0000, .read (c .off (.to .r 2) .off) .s64 (.x 2)),
     (0x1018_23FF_0000_0000, .add (c .off (.to .r 3) .off) .s64 (.p false)),
     (0x1218_04FF_0000_0000, .mul (c .off (.to .l 4) .off) .s64 (.p false)),
     (0x1118_05FF_0000_0000, .sub (c .off (.to .l 5) .off) .s64 (.p false)),
     (0x0080_FFFF_0300_0000, .write free .s8 (.x 3)),
     (0x0440_FFFF_0000_0000, .bri free 0),
     (0x0100_0324_FFFF_0000, .fan .s8 (.to .l 3) (.to .r 4) .off .off),
     (0x1158_0203_0000_0001, .sub (c .off (.to .l 2) (.to .l 3)) .s64 (.i 1)),
     (0x3158_6465_0000_0000, .cmp (c .off (.to .g 4) (.to .g 5)) .ne .s64 (.i 0)),
     (0x0441_FFFF_0000_0000, .bri (c (.any false) .off .off) 0),
     (0x0505_FFFF_0000_0000, .endg (c (.any true) .off .off))] :=
  ⟨rfl, rfl, rfl, rfl, rfl, rfl, rfl, rfl, rfl, rfl, rfl, rfl, trivial⟩

/-- 05 R114, R122 and 06: vector words. -/
theorem test_words_of_05_and_06 : Decodes
    [(0x4148_06FF_0000_0021, .vadd (c .off (.to .l 6) .off) (.f .f32) .s ⟨.rz, false, .keep⟩),
     (0x6620_05FF_0000_0488, .vcvt (c .off (.to .l 5) .off) (.f .e4m3) (.f .f32) ⟨.rne, true, .none⟩),
     (0x0040_030B_2100_0000, .read (c .off (.to .l 3) (.to .l 11)) .s8 (.v 1)),
     (0x0040_44FF_2300_0000, .read (c .off (.to .t 4) .off) .s8 (.v 3)),
     (0x4508_24FF_0000_0000, .vmul (c .off (.to .r 4) .off) (.f .f32) .v ⟨.rne, false, .none⟩),
     (0x6408_0608_0000_0000, .vfma (c .off (.to .l 6) (.to .l 8)) .f32 .rne false),
     (0x5908_07FF_0000_0000, .vcmp (c .off (.to .l 7) .off) .eq (.f .f32) .v .none),
     (0x6BF0_696A_0000_0000, .kall (c .off (.to .g 9) (.to .g 10)) .n32),
     (0x0080_FFFF_2100_0000, .write free .s8 (.v 1)),
     (0x0445_FFFF_0000_0000, .bri (c (.any true) .off .off) 0),
     (0x0442_FFFF_0000_0007, .bri (c (.all false) .off .off) 7),
     (0x0100_2305_4526_0000, .fan .s8 (.to .r 3) (.to .l 5) (.to .t 5) (.to .r 6))] :=
  ⟨rfl, rfl, rfl, rfl, rfl, rfl, rfl, rfl, rfl, rfl, rfl, rfl, trivial⟩

/-- 08, 09 and 16: copies, matrix, barriers, relay preparation. -/
theorem test_words_of_08_and_16 : Decodes
    [(0x0180_03FF_1000_0000, .movl (c .off (.to .l 3) .off) .s8 1),
     (0x8300_FFFF_0200_03FF, .cpy free ⟨0, false, some 0, false, 0x3FF⟩),
     (0x8300_FFFF_0A20_03FF, .cpy free ⟨1, false, some 1, false, 0x3FF⟩),
     (0x8018_FFFF_1300_4400, .mma free .bf16 ⟨2, false, some 0, some 1, 0, 1⟩),
     (0x85C0_18FF_0000_0000, .bwait (c .off (.to .l 24) .off) 0 0),
     (0x0158_2AFF_0000_8000, .movi (c .off (.to .r 10) .off) .s64 32768),
     (0x8540_FFFF_0800_0000, .bexpect free 1 0),
     (0x8300_FFFF_1600_03FF, .cpy free ⟨2, true, some 0, false, 0x3FF⟩),
     (0x0980_FFFF_0000_0000, .relayPrep free 0 0),
     (0x8018_FFFF_0800_0400, .mma free .bf16 ⟨1, false, none, none, 0, 1⟩),
     (0x8140_FFFF_1502_0000, .mst free ⟨2, true, false, true, 0, .bf16, .rne, false, 0⟩),
     (0x8018_FFFF_0810_0C00, .mma free .bf16 ⟨1, false, none, none, 1, 3⟩),
     (0x8140_FFFF_1210_0000, .mst free ⟨2, false, true, false, 1, .f32, .rne, false, 0⟩)] :=
  ⟨rfl, rfl, rfl, rfl, rfl, rfl, rfl, rfl, rfl, rfl, rfl, rfl, rfl, trivial⟩

/-- 12, 13, 15, 19 and 20: memory, heap, relay and rein words. -/
theorem test_words_of_12_to_20 : Decodes
    [(0xB000_0325_0000_0006, .alloc (c .off (.to .l 3) (.to .r 5)) 0 .home 6),
     (0xA138_FFFF_0D00_0000, .st free .n64 false ⟨1, .sys, 0⟩),
     (0xACB8_06FF_1300_0000, .amoSwap (c .off (.to .l 6) .off) .n64 .rel ⟨2, .pkg, 0⟩),
     (0xB005_18FF_3800_0007, .alloc (c (.any true) (.to .l 24) .off) 7 .home 7),
     (0x5858_0DFF_0000_0010, .vcmp (c .off (.to .l 13) .off) .eq (.i .s64) .s .zero),
     (0xA6B8_FFFF_3300_0400, .amoAdd free .n64 .rel ⟨6, .pkg, 1024⟩),
     (0xB041_FFFF_2000_0000, .free (c (.any false) .off .off) 4),
     (0x0940_FFFF_0000_0000, .relaySig free 0),
     (0x0B00_FFFF_0000_0001, .rload free 0 0 1),
     (0x0B40_FFFF_0C00_0007, .rstart free 1 true false false 7),
     (0x0BC0_02FF_0000_000C, .rstat (c .off (.to .l 2) .off) 0 12),
     (0x1178_040A_0000_0002, .sub (c .off (.to .l 4) (.to .l 10)) .n64 (.i 2)),
     (0x3478_69FF_0000_0001, .cmp (c .off (.to .g 9) .off) .gt .n64 (.i 1)),
     (0x8500_FFFF_0800_0000, .binit free 1 0)] :=
  ⟨rfl, rfl, rfl, rfl, rfl, rfl, rfl, rfl, rfl, rfl, rfl, rfl, rfl, rfl, trivial⟩

/-- 19 R362 and 20: Rein words. -/
theorem test_words_of_rein : DecodesRein
    [(0x0D00_0000_0000_0001, .reinMovi 4 1), (0x6950_0100_0000_0000, .peer 5 4 .xor), (0x0D80_0000_0000_0040, .reinMovi 6 64),
     (0x6021_8000_0000_0000, .setchunk 0 8 6 0), (0x605D_8100_0000_0000, .setchunk 1 7 6 1), (0x8014_4000_0000_0000, .send 0 5 1),
     (0x8494_0000_0000_0000, .recv 2 5), (0x60E5_8000_0000_0000, .setchunk 3 9 6 0),
     (0x88C0_8900_0000_0000, .reduce 3 0 2 .sum (.f .f32)), (0xA000_0000_0000_0000, .done), (0x6950_0000_0000_0000, .peer 5 4 .ring),
     (0x16EC_0000_FFFF_FFFF, .addi 11 11 0xFFFFFFFF), (0x22EC_4000_0000_0000, .modg 11 11 1),
     (0x4740_0000_FFFF_FFEE, .loop 13 0xFFFFFFEE), (0x9C00_0000_0000_0000, .reinFence), (0x8D08_0000_0000_0000, .copy 4 2)] :=
  ⟨rfl, rfl, rfl, rfl, rfl, rfl, rfl, rfl, rfl, rfl, rfl, rfl, rfl, rfl, rfl, rfl, trivial⟩

/-- 02 R51: a word with one defect is refused with its cause: reserved points, T, guards, zero parts, modifiers, registers, FM
fields and target bytes. A zero word and a Rein word with a field it does not use are refused too (19 R343, R344). -/
theorem test_refused_words : Refuses
    [(0x0000_FFFF_0000_0000, 0x005), (0xFFC0_FFFF_0000_0000, 0x005), (0x10C0_FFFF_0000_0000, 0x005), (0x6438_FFFF_0000_0000, 0x006),
     (0x0448_FFFF_0000_0000, 0x006), (0x00C3_FFFF_0000_0000, 0x007), (0x00C4_FFFF_0000_0000, 0x007), (0x0101_FFFF_FFFF_0000, 0x007),
     (0x00C0_FFFF_0000_0001, 0x008), (0x1018_FFFF_0000_0001, 0x009), (0x1018_FFFF_0001_0000, 0x008), (0x0040_FFFF_E000_0000, 0x00A),
     (0x0080_FFFF_8000_0000, 0x00A), (0xA03B_FFFF_0000_0000, 0x007), (0xA038_FFFF_0600_0000, 0x00C), (0x00C0_80FF_0000_0000, 0x00D)] ∧
    decodeRein 0 = .error 0x141 ∧ decodeRein 0x0400_0001_0000_0000 = .error 0x141 ∧
    decodeRein 0x6220_0000_0000_0000 = .error 0x142 :=
  ⟨⟨rfl, rfl, rfl, rfl, rfl, rfl, rfl, rfl, rfl, rfl, rfl, rfl, rfl, rfl, rfl, rfl, trivial⟩, rfl, rfl, rfl⟩

/-! ## Decoding: one word for each constructor -/

/-- 02 R42; 04 R87 to R92: words composed field by field from those tables. -/
theorem test_decode_block : Decodes
    [(0x0059_02FF_1F00_0000, .read (c (.any false) (.to .l 2) .off) .s64 (.x 31)),
     (0x0060_29FF_2700_0000, .read (c .off (.to .r 9) .off) .n8 (.v 7)),
     (0x0040_64FF_4600_0000, .read (c .off (.to .g 4) .off) .s8 (.p 6)),
     (0x0040_5FFF_6500_0000, .read (c .off (.to .t 31) .off) .s8 (.k 5)),
     (0x0040_02FF_8400_0000, .read (c .off (.to .l 2) .off) .s8 (.s 4)),
     (0x0086_FFFF_6300_0000, .write (c (.all true) .off .off) .s8 (.k 3)),
     (0x00ED_295F_0000_0000, .mov (c (.any true) (.to .r 9) (.to .t 31)) .n16),
     (0x0100_0122_43FF_0000, .fan .s8 (.to .l 1) (.to .r 2) (.to .t 3) .off),
     (0x0148_02FF_FFFF_FFFE, .movi (c .off (.to .l 2) .off) .s16 0xFFFFFFFE),
     (0x01BA_02FF_D000_0000, .movl (c (.all false) (.to .l 2) .off) .n64 13),
     (0x01C0_02FF_0000_0000, .void .s8 (.to .l 2) .off),
     (0x0200_0229_0000_0000, .sel (c .off (.to .l 2) (.to .r 9)) .s8)] :=
  ⟨rfl, rfl, rfl, rfl, rfl, rfl, rfl, rfl, rfl, rfl, rfl, rfl, trivial⟩

/-- 02 R42; 04 R98, R100; 12 R253, R254: words composed field by field from those tables. -/
theorem test_decode_control : Decodes
    [(0x0401_FFFF_0000_0000, .br (c (.any false) .off .off)),
     (0x0445_FFFF_FFFF_FFFF, .bri (c (.any true) .off .off) 0xFFFFFFFF),
     (0x0480_FFFF_0000_0005, .call (c .off .off .off) 5),
     (0x04C2_FFFF_0000_0000, .ret (c (.all false) .off .off)),
     (0x0505_FFFF_0000_0000, .endg (c (.any true) .off .off)),
     (0x0540_FFFF_0000_003F, .trap (c .off .off .off) 63),
     (0x0600_02FF_0000_0000, .pand (c .off (.to .l 2) .off)),
     (0x0640_02FF_0000_0000, .por (c .off (.to .l 2) .off)),
     (0x0680_02FF_0000_0000, .pxor (c .off (.to .l 2) .off)),
     (0x06C0_02FF_0000_0000, .pnot (c .off (.to .l 2) .off)),
     (0x0700_64FF_0000_00A5, .plane (c .off (.to .g 4) .off) 0xA5),
     (0x0740_02FF_0000_0000, .pcount (c .off (.to .l 2) .off)),
     (0x0C00_02FF_CB00_0000, .srd (c .off (.to .l 2) .off) .seed),
     (0x0C40_FFFF_8800_000A, .swr (c .off .off .off) 17 .fptrap)] :=
  ⟨rfl, rfl, rfl, rfl, rfl, rfl, rfl, rfl, rfl, rfl, rfl, rfl, rfl, rfl, trivial⟩

/-- 15 R285; 19 R357: words composed field by field from those tables. -/
theorem test_decode_task : Decodes
    [(0x0800_02FF_0F00_0000, .tspawn (c .off (.to .l 2) .off) 1 true 3),
     (0x0840_FFFF_1000_1234, .tdec (c .off .off .off) 2 0x1234),
     (0x0880_02FF_1800_0ABC, .tinst (c .off (.to .l 2) .off) 3 0xABC),
     (0x08C0_02FF_2000_0000, .tstat (c .off (.to .l 2) .off) 4),
     (0x0900_FFFF_2800_0000, .relay (c .off .off .off) 5),
     (0x0940_FFFF_3000_0000, .relaySig (c .off .off .off) 6),
     (0x0980_FFFF_3800_0005, .relayPrep (c .off .off .off) 7 5),
     (0x09C0_FFFF_4000_000E, .gresume (c .off .off .off) 8 14),
     (0x0A00_FFFF_4800_000F, .gkill (c .off .off .off) 9 15),
     (0x0B00_FFFF_5080_1402, .rload (c .off .off .off) 10 0x801 0x402),
     (0x0B40_FFFF_5B00_0FFF, .rstart (c .off .off .off) 11 false true true 0xFFF),
     (0x0B80_FFFF_6000_0123, .rabort (c .off .off .off) 12 0x123),
     (0x0BC0_02FF_6800_0321, .rstat (c .off (.to .l 2) .off) 13 0x321)] :=
  ⟨rfl, rfl, rfl, rfl, rfl, rfl, rfl, rfl, rfl, rfl, rfl, rfl, rfl, trivial⟩

/-- 02 R43: words composed field by field from those tables. -/
theorem test_decode_scalar : Decodes
    [(0x1040_02FF_8000_0001, .add (c .off (.to .l 2) .off) .s8 (.i 0x80000001)),
     (0x1188_02FF_9000_0008, .sub (c .off (.to .l 2) .off) .s16 (.l 9 true)),
     (0x1210_02FF_0000_0008, .mul (c .off (.to .l 2) .off) .s32 (.p true)),
     (0x1558_02FF_8000_0001, .div (c .off (.to .l 2) .off) .s64 (.i 0x80000001)),
     (0x16A0_02FF_9000_0008, .rem (c .off (.to .l 2) .off) .n8 (.l 9 true)),
     (0x1328_29FF_0000_0000, .mulh (c .off (.to .r 9) .off) .n16 .p),
     (0x1970_29FF_7FFF_FFFF, .min (c .off (.to .r 9) .off) .n32 (.i 0x7FFFFFFF)),
     (0x1AB8_29FF_F000_0000, .max (c .off (.to .r 9) .off) .n64 (.l 15)),
     (0x1B00_29FF_0000_0000, .and (c .off (.to .r 9) .off) .s8 .p),
     (0x1C48_29FF_7FFF_FFFF, .or (c .off (.to .r 9) .off) .s16 (.i 0x7FFFFFFF)),
     (0x1D90_29FF_F000_0000, .xor (c .off (.to .r 9) .off) .s32 (.l 15)),
     (0x1F18_29FF_0000_0000, .shl (c .off (.to .r 9) .off) .s64 .p),
     (0x2060_29FF_7FFF_FFFF, .shr (c .off (.to .r 9) .off) .n8 (.i 0x7FFFFFFF)),
     (0x21A8_29FF_F000_0000, .sra (c .off (.to .r 9) .off) .n16 (.l 15)),
     (0x2230_29FF_0000_0000, .rot (c .off (.to .r 9) .off) .n32 .p),
     (0x2778_29FF_7FFF_FFFF, .lea (c .off (.to .r 9) .off) .n64 (.i 0x7FFFFFFF))] :=
  ⟨rfl, rfl, rfl, rfl, rfl, rfl, rfl, rfl, rfl, rfl, rfl, rfl, rfl, rfl, rfl, rfl, trivial⟩

/-- 02 R43; 04 R94, R96: words composed field by field from those tables. -/
theorem test_decode_scalar2 : Decodes
    [(0x1400_02FF_0000_0008, .mad (c .off (.to .l 2) .off) .s8 (.p true)),
     (0x14A0_02FF_1000_0000, .mad (c .off (.to .l 2) .off) .n8 (.l 1 false)),
     (0x1710_02FF_0000_0008, .neg (c .off (.to .l 2) .off) .s32 true),
     (0x1808_02FF_0000_0000, .abs (c .off (.to .l 2) .off) .s16 false),
     (0x1E30_02FF_0000_0000, .not (c .off (.to .l 2) .off) .n32),
     (0x2338_02FF_0000_0000, .clz (c .off (.to .l 2) .off) .n64),
     (0x2428_02FF_0000_0000, .popc (c .off (.to .l 2) .off) .n16),
     (0x2518_02FF_0000_0000, .bfx (c .off (.to .l 2) .off) .s64 .p),
     (0x2578_02FF_0000_0804, .bfx (c .off (.to .l 2) .off) .n64 (.i 0x0804)),
     (0x2618_02FF_0000_0000, .bfi (c .off (.to .l 2) .off) .s64 .p),
     (0x2660_02FF_0000_0301, .bfi (c .off (.to .l 2) .off) .n8 (.i 0x0301)),
     (0x2800_02FF_0000_0000, .sext (c .off (.to .l 2) .off) .s8),
     (0x2910_02FF_0000_0000, .zext (c .off (.to .l 2) .off) .s32),
     (0x3000_64FF_0000_0000, .cmp (c .off (.to .g 4) .off) .eq .s8 .p),
     (0x3148_64FF_0000_0007, .cmp (c .off (.to .g 4) .off) .ne .s16 (.i 7)),
     (0x3290_64FF_7000_0000, .cmp (c .off (.to .g 4) .off) .lt .s32 (.l 7)),
     (0x3318_64FF_0000_0000, .cmp (c .off (.to .g 4) .off) .le .s64 .p),
     (0x3460_64FF_0000_0007, .cmp (c .off (.to .g 4) .off) .gt .n8 (.i 7)),
     (0x35A8_64FF_7000_0000, .cmp (c .off (.to .g 4) .off) .ge .n16 (.l 7))] :=
  ⟨rfl, rfl, rfl, rfl, rfl, rfl, rfl, rfl, rfl, rfl, rfl, rfl, rfl, rfl, rfl, rfl, rfl, rfl, rfl, trivial⟩

/-- 02 R44; 05 R112, R115: words composed field by field from those tables. -/
theorem test_decode_vector : Decodes
    [(0x4118_02FF_0000_002C, .vadd (c .off (.to .l 2) .off) (.f .bf16) .v ⟨.sr, true, .keep⟩),
     (0x4060_02FF_0000_0018, .vadd (c .off (.to .l 2) .off) (.i .n8) .s ⟨.rne, true, .zero⟩),
     (0x4380_02FF_A000_0003, .vsub (c .off (.to .l 2) .off) (.f .f64) (.l 10) ⟨.rd, false, .none⟩),
     (0x4488_02FF_A000_0020, .vmul (c .off (.to .l 2) .off) (.i .s16) (.l 10) ⟨.rne, false, .keep⟩),
     (0x4B50_02FF_0000_001A, .vdiv (c .off (.to .l 2) .off) .f16 .s ⟨.ru, true, .zero⟩),
     (0x4758_02FF_0000_0000, .vmin (c .off (.to .l 2) .off) (.f .bf16) .s .none),
     (0x4838_02FF_0000_0020, .vmax (c .off (.to .l 2) .off) (.i .n64) .v .keep),
     (0x4C18_02FF_0000_0000, .vand (c .off (.to .l 2) .off) .s64 .v .none),
     (0x4E60_02FF_0000_0010, .vor (c .off (.to .l 2) .off) .n8 .s .zero),
     (0x50A8_02FF_A000_0020, .vxor (c .off (.to .l 2) .off) .n16 (.l 10) .keep),
     (0x5230_02FF_0000_0000, .vshl (c .off (.to .l 2) .off) .n32 .v .none),
     (0x5478_02FF_0000_0010, .vshr (c .off (.to .l 2) .off) .n64 .s .zero),
     (0x5680_02FF_A000_0020, .vsra (c .off (.to .l 2) .off) .s8 (.l 10) .keep),
     (0x5908_02FF_0000_0010, .vcmp (c .off (.to .l 2) .off) .eq (.f .f32) .v .zero),
     (0x5A40_02FF_0000_0000, .vcmp (c .off (.to .l 2) .off) .ne (.i .s8) .s .none),
     (0x5DA0_02FF_A000_0010, .vcmp (c .off (.to .l 2) .off) .lt (.f .e4m3) (.l 10) .zero),
     (0x5E30_02FF_0000_0000, .vcmp (c .off (.to .l 2) .off) .le (.i .n32) .v .none),
     (0x6168_02FF_0000_0010, .vcmp (c .off (.to .l 2) .off) .gt (.f .e5m2) .s .zero),
     (0x6298_02FF_A000_0000, .vcmp (c .off (.to .l 2) .off) .ge (.i .s64) (.l 10) .none)] :=
  ⟨rfl, rfl, rfl, rfl, rfl, rfl, rfl, rfl, rfl, rfl, rfl, rfl, rfl, rfl, rfl, rfl, rfl, rfl, rfl, trivial⟩

/-- 02 R44; 05 R115: words composed field by field from those tables. -/
theorem test_decode_vector2 : Decodes
    [(0x6410_02FF_0000_0009, .vfma (c .off (.to .l 2) .off) .f16 .rz true),
     (0x6440_02FF_0000_0018, .vabs (c .off (.to .l 2) .off) (.i .s8) true .zero),
     (0x6488_02FF_0000_0020, .vabs (c .off (.to .l 2) .off) (.f .f32) false .keep),
     (0x64E8_02FF_0000_0000, .vneg (c .off (.to .l 2) .off) (.i .n16) false .none),
     (0x6518_02FF_0000_0010, .vneg (c .off (.to .l 2) .off) (.f .bf16) false .zero),
     (0x6578_02FF_0000_0020, .vnot (c .off (.to .l 2) .off) .n64 .keep),
     (0x6590_02FF_0000_0000, .vsel (c .off (.to .l 2) .off) .s32),
     (0x65C0_02FF_0000_059B, .vcvt (c .off (.to .l 2) .off) (.i .s8) (.f .bf16) ⟨.rd, true, .zero⟩),
     (0x6630_02FF_0000_0304, .vcvt (c .off (.to .l 2) .off) (.f .e2m1) (.i .n32) ⟨.sr, false, .none⟩),
     (0x6640_02FF_0000_0009, .vsqrt (c .off (.to .l 2) .off) .f64 ⟨.rz, true, .none⟩),
     (0x6688_02FF_0000_0012, .vrcp (c .off (.to .l 2) .off) .f32 ⟨.ru, false, .zero⟩),
     (0x6710_02FF_0000_002B, .vexp2 (c .off (.to .l 2) .off) .f16 ⟨.rd, true, .keep⟩),
     (0x6758_02FF_0000_0004, .vlog2 (c .off (.to .l 2) .off) .bf16 ⟨.sr, false, .none⟩),
     (0x66C0_02FF_0000_0020, .vrsqrte (c .off (.to .l 2) .off) .f64 .keep),
     (0x6790_02FF_0000_0010, .vtanh (c .off (.to .l 2) .off) .f16 .zero),
     (0x6830_02FF_0000_0018, .vreduce (c .off (.to .l 2) .off) (.i .n32) .sum ⟨.rne, true, .zero⟩),
     (0x6858_02FF_0000_1000, .vreduce (c .off (.to .l 2) .off) (.f .bf16) .max ⟨.rne, false, .none⟩),
     (0x6880_02FF_0000_0820, .vscan (c .off (.to .l 2) .off) (.i .s8) .min ⟨.rne, false, .keep⟩),
     (0x68C8_02FF_0000_0014, .vscan (c .off (.to .l 2) .off) (.f .f32) .sum ⟨.sr, false, .zero⟩),
     (0x6920_02FF_0000_0020, .vperm (c .off (.to .l 2) .off) .n8 .keep),
     (0x6940_02FF_0000_0000, .vxlane (c .off (.to .l 2) .off) .s8),
     (0x6988_02FF_0000_0010, .vbcast (c .off (.to .l 2) .off) .s16 .zero),
     (0x69D0_02FF_0000_0000, .vextr (c .off (.to .l 2) .off) .s32),
     (0x6A38_02FF_0000_0000, .vins (c .off (.to .l 2) .off) .n64),
     (0x6A70_02FF_0000_0000, .viota (c .off (.to .l 2) .off) .n32 .none),
     (0x6A98_02FF_0000_0010, .vsortk (c .off (.to .l 2) .off) (.i .s64) .zero),
     (0x6AD0_02FF_0000_0000, .vsortk (c .off (.to .l 2) .off) (.f .f16) .none),
     (0x6B20_02FF_0000_0000, .vmerge (c .off (.to .l 2) .off) (.i .n8)),
     (0x6B40_02FF_0000_0000, .vmerge (c .off (.to .l 2) .off) (.f .f64)),
     (0x6B80_02FF_0000_0000, .kany (c .off (.to .l 2) .off) .s8),
     (0x6BF0_02FF_0000_0000, .kall (c .off (.to .l 2) .off) .n32),
     (0x6C18_02FF_0000_0000, .kpop (c .off (.to .l 2) .off) .s64)] :=
  ⟨rfl, rfl, rfl, rfl, rfl, rfl, rfl, rfl, rfl, rfl, rfl, rfl, rfl, rfl, rfl, rfl, rfl, rfl, rfl, rfl, rfl, rfl, rfl, rfl, rfl, rfl, rfl, rfl, rfl, rfl, rfl, rfl, trivial⟩

/-- 02 R45; 08 R166 to R193: words composed field by field from those tables. -/
theorem test_decode_engine : Decodes
    [(0x8010_FFFF_0E9A_3C00, .mma (c .off .off .off) .f16 ⟨1, true, some 5, none, 9, 15⟩),
     (0x8070_FFFF_15F1_8400, .mmaG (c .off .off .off) .e2m1 ⟨2, true, none, some 6, 15, 1⟩),
     (0x80A8_FFFF_1B02_9C00, .mmas (c .off .off .off) .e5m2 ⟨3, false, some 1, some 2, 0, 7⟩),
     (0x80C0_FFFF_2000_8001, .mzero (c .off .off .off) 4 0x8001),
     (0x8100_FFFF_28C0_0000, .mld (c .off .off .off) 5 12),
     (0x8140_FFFF_3779_3555, .mst (c .off .off .off) ⟨6, true, true, true, 7, .e5m2, .sr, true, 0x1555⟩),
     (0x8200_FFFF_3D00_3FF8, .qinit (c .off .off .off) 7 5 0x3FF 8),
     (0x8240_FFFF_4100_0000, .qpush (c .off .off .off) 8 1),
     (0x8280_FFFF_4A00_0000, .qpop (c .off .off .off) 9 2),
     (0x82C0_FFFF_5300_0000, .qstat (c .off .off .off) 10 3),
     (0x8300_FFFF_5D00_0FFF, .cpy (c .off .off .off) ⟨11, true, none, true, 0xFFF⟩),
     (0x8340_FFFF_62E0_0001, .cpyS (c .off .off .off) ⟨12, false, some 7, false, 1⟩),
     (0x8380_FFFF_6EC0_0000, .cpy2d (c .off .off .off) ⟨13, true, some 6, false, 0⟩),
     (0x83C0_FFFF_7000_0800, .cpyPeer (c .off .off .off) ⟨14, false, none, false, 0x800⟩),
     (0x8400_FFFF_7C00_0003, .cpyMc (c .off .off .off) ⟨15, true, none, false, 3⟩),
     (0x8440_FFFF_8620_0000, .cpyg (c .off .off .off) ⟨16, true, some 1, false, 0⟩),
     (0x8480_FFFF_8800_07FF, .pref (c .off .off .off) 17 0x7FF),
     (0x8500_FFFF_9080_0000, .binit (c .off .off .off) 18 0x800000),
     (0x8540_FFFF_9880_0001, .bexpect (c .off .off .off) 19 0x800001),
     (0x8580_FFFF_A080_0002, .barrive (c .off .off .off) 20 0x800002),
     (0x85C0_FFFF_A880_0003, .bwait (c .off .off .off) 21 0x800003),
     (0x8600_FFFF_B080_0004, .btest (c .off .off .off) 22 0x800004),
     (0x8640_FFFF_BA30_8001, .sbind (c .off .off .off) 23 2 (.mem true true 0x8001)),
     (0x8640_FFFF_C345_0000, .sbind (c .off .off .off) 24 3 (.edge false 5)),
     (0x8640_FFFF_CCA0_0000, .sbind (c .off .off .off) 25 4 (.rein true)),
     (0x8688_FFFF_D600_0000, .semit (c .off .off .off) .s16 26 6),
     (0x86C0_FFFF_DF00_0000, .sunbind (c .off .off .off) 27 7),
     (0x8700_FFFF_E100_0000, .sst (c .off .off .off) 28 1),
     (0x8768_FFFF_E8FF_FFFE, .lds (c .off .off .off) .n16 29 false 0xFFFFFE),
     (0x8780_FFFF_F100_0080, .sts (c .off .off .off) .s8 30 true 0x80)] :=
  ⟨rfl, rfl, rfl, rfl, rfl, rfl, rfl, rfl, rfl, rfl, rfl, rfl, rfl, rfl, rfl, rfl, rfl, rfl, rfl, rfl, rfl, rfl, rfl, rfl, rfl, rfl, rfl, rfl, rfl, rfl, trivial⟩

/-- 02 R46; 12 R237 to R250: words composed field by field from those tables. -/
theorem test_decode_memory : Decodes
    [(0xA020_FFFF_1B00_0010, .ld (c .off .off .off) .n8 false ⟨3, .pkg, 0x10⟩),
     (0xA058_FFFF_2480_0000, .ld (c .off .off .off) .s64 true ⟨4, .pod, 0x800000⟩),
     (0xA108_FFFF_2D00_0008, .st (c .off .off .off) .s16 false ⟨5, .sys, 0x8⟩),
     (0xA1B8_FFFF_3000_0020, .st (c .off .off .off) .n64 true ⟨6, .slot, 0x20⟩),
     (0xA200_FFFF_3900_0080, .ldv (c .off .off .off) .s8 false ⟨7, .tile, 0x80⟩),
     (0xA240_FFFF_4200_0100, .ldv (c .off .off .off) .s8 true ⟨8, .die, 0x100⟩),
     (0xA300_FFFF_4B00_0080, .stv (c .off .off .off) .s8 false ⟨9, .pkg, 0x80⟩),
     (0xA380_FFFF_5400_0000, .stv (c .off .off .off) .s8 true ⟨10, .pod, 0x0⟩),
     (0xA410_FFFF_5C7F_FFFF, .gather (c .off .off .off) .s32 11 true 0x7FFFFF),
     (0xA520_FFFF_60FF_FFFF, .scatter (c .off .off .off) .n8 12 0xFFFFFF),
     (0xA600_FFFF_6900_0000, .amoAdd (c .off .off .off) .s8 .rlx ⟨13, .tile, 0x0⟩),
     (0xA748_FFFF_7200_0100, .amoMin (c .off .off .off) .s16 .acq ⟨14, .die, 0x100⟩),
     (0xA890_FFFF_7B00_0200, .amoMax (c .off .off .off) .s32 .rel ⟨15, .pkg, 0x200⟩),
     (0xA9D8_FFFF_8400_0300, .amoAnd (c .off .off .off) .s64 .acqrel ⟨16, .pod, 0x300⟩),
     (0xAA20_FFFF_8D00_0400, .amoOr (c .off .off .off) .n8 .rlx ⟨17, .sys, 0x400⟩),
     (0xAB68_FFFF_9000_0500, .amoXor (c .off .off .off) .n16 .acq ⟨18, .slot, 0x500⟩),
     (0xACB0_FFFF_9900_0600, .amoSwap (c .off .off .off) .n32 .rel ⟨19, .tile, 0x600⟩),
     (0xADF8_FFFF_A200_0700, .amoCas (c .off .off .off) .n64 .acqrel ⟨20, .die, 0x700⟩),
     (0xAE40_FFFF_A900_0000, .fence (c .off .off .off) 21 .acq .tile),
     (0xAE80_FFFF_B200_0000, .fence (c .off .off .off) 22 .rel .die),
     (0xAEC0_FFFF_BD00_0000, .fence (c .off .off .off) 23 .acqrel .sys),
     (0xB000_FFFF_C200_001E, .alloc (c .off .off .off) 24 .tier1 30),
     (0xB040_FFFF_C800_0000, .free (c .off .off .off) 25),
     (0xB080_FFFF_D000_0001, .vcommit (c .off .off .off) 26 .m2),
     (0xB0C0_FFFF_D800_0002, .vdecommit (c .off .off .off) 27 .g1),
     (0xB100_FFFF_E000_0000, .vquery (c .off .off .off) 28),
     (0xB140_FFFF_E900_001D, .vmigrate (c .off .off .off) 29 true 3 true .m2),
     (0xB180_FFFF_F000_0000, .pin (c .off .off .off) 30 .k64),
     (0xB1C0_FFFF_F800_0001, .unpin (c .off .off .off) 31 .m2)] :=
  ⟨rfl, rfl, rfl, rfl, rfl, rfl, rfl, rfl, rfl, rfl, rfl, rfl, rfl, rfl, rfl, rfl, rfl, rfl, rfl, rfl, rfl, rfl, rfl, rfl, rfl, rfl, rfl, rfl, rfl, trivial⟩

/-- 19 R342, R343: words composed field by field from those tables. -/
theorem test_decode_rein : DecodesRein
    [(0x0400_0000_0000_0000, .nop),
     (0x0BF8_0000_0000_0000, .movg 15 14),
     (0x0D00_0000_FFFF_FFF0, .reinMovi 4 0xFFFFFFF0),
     (0x1048_C000_0000_0000, .addg 1 2 3),
     (0x1448_0000_0000_0009, .addi 1 2 9),
     (0x1915_8000_0000_0000, .subg 4 5 6),
     (0x1DE2_4000_0000_0000, .mulg 7 8 9),
     (0x22AF_0000_0000_0000, .modg 10 11 12),
     (0x277B_C000_0000_0000, .andg 13 14 15),
     (0x28C8_4000_0000_0000, .shrg 3 2 1),
     (0x4000_0000_8000_0000, .jmp 0x80000000),
     (0x4540_0000_0000_0003, .loop 5 3),
     (0x4980_0000_0000_0004, .bnz 6 4),
     (0x4DC0_0000_0000_0005, .bz 7 5),
     (0x61E2_4300_0000_0000, .setchunk 7 8 9 3),
     (0x65BC_0000_0000_0000, .addc 6 15),
     (0x6848_0000_0000_0000, .peer 1 2 .ring),
     (0x6848_0100_0000_0000, .peer 1 2 .xor),
     (0x6848_0200_0000_0000, .peer 1 2 .parent),
     (0x684B_4300_0000_0000, .peer 1 2 (.child 13)),
     (0x8069_C000_0000_0000, .send 1 10 7),
     (0x856C_0000_0000_0000, .recv 5 11),
     (0x8848_EB00_0000_0000, .reduce 1 2 3 .max (.f .bf16)),
     (0x8848_D600_0000_0000, .reduce 1 2 3 .min (.i .n32)),
     (0x8D9C_0000_0000_0000, .copy 6 7),
     (0x9024_0000_0000_0000, .wait 9),
     (0x9420_0000_0000_0000, .reinSignal 8),
     (0x9B1C_0000_0000_0000, .tagchk 12 7),
     (0x9C00_0000_0000_0000, .reinFence),
     (0xA000_0000_0000_0000, .done)] :=
  ⟨rfl, rfl, rfl, rfl, rfl, rfl, rfl, rfl, rfl, rfl, rfl, rfl, rfl, rfl, rfl, rfl, rfl, rfl, rfl, rfl, rfl, rfl, rfl, rfl, rfl, rfl, rfl, rfl, rfl, rfl, trivial⟩

/-- The host's view of the decoder: table bits above nbits are zero. -/
theorem test_decodeTableWord : decodeTableWord 64 0x0440_FFFF_0000_0000 = some (.bri free 0) ∧
    decodeTableWord 64 0x0D00_0000_0000_0001 = some (.reinMovi 4 1) := ⟨rfl, rfl⟩

/-! ## Well-formedness: a term that each check refuses -/

/-- 05 R110, R113, R115: types, rounding, saturation, reduction and mask uses of the vector instructions. -/
theorem test_ill_formed_vector : ([
    .vadd free (.i .s8) .v ⟨.rz, false, .none⟩, .vsub free (.f .e4m3) .v ⟨.rne, false, .none⟩, .vdiv free .e5m2 .v ⟨.rne, false, .none⟩,
    .vmin free (.f .e2m1) .v .none, .vmax free (.f .e4m3) .s .none, .vcmp free .eq (.f .e2m1) .v .none,
    .vcmp free .eq (.f .f32) .v .keep, .vfma free .e4m3 .rne false, .vabs free (.f .f32) true .none, .vneg free (.f .e2m1) false .none,
    .vcvt free (.i .s8) (.f .f32) ⟨.rne, true, .keep⟩, .vcvt free (.i .s8) (.i .s16) ⟨.rz, false, .none⟩,
    .vcvt free (.f .e2m1) (.f .f32) ⟨.rne, true, .zero⟩, .vcvt free (.f .f32) (.f .e2m1) ⟨.rne, true, .zero⟩,
    .vsqrt free .e2m1 ⟨.rne, false, .none⟩, .vrcp free .e4m3 ⟨.rne, false, .none⟩, .vrsqrte free .e5m2 .none,
    .vexp2 free .e4m3 ⟨.rne, false, .none⟩, .vlog2 free .e4m3 ⟨.rne, false, .none⟩, .vtanh free .f64 .none,
    .vreduce free (.i .s8) .min ⟨.rne, true, .none⟩, .vreduce free (.f .f32) .max ⟨.rz, false, .none⟩,
    .vreduce free (.f .f32) .sum ⟨.rne, false, .keep⟩, .vscan free (.f .f16) .sum ⟨.rne, true, .none⟩, .vbcast free .s8 .keep,
    .viota free .s8 .keep, .vsortk free (.i .s8) .keep, .vsortk free (.f .e4m3) .none, .vmerge free (.f .e5m2)] :
    List Instr).all (fun i => !i.wf) = true := by decide

/-- 08 R166 to R181; 12 R244; 19 R352: engine commands, ALLOC and REDUCE. -/
theorem test_ill_formed_engine : ([
    .mma free .f32 ⟨0, false, none, none, 0, 0⟩, .mmaG free .f64 ⟨0, false, none, none, 0, 0⟩,
    .mmaG free .f16 ⟨0, false, some 0, none, 0, 0⟩, .mmaG free .f16 ⟨0, true, none, none, 0, 0⟩, .mmas free .f16 ⟨0, false, none, none, 0, 0⟩,
    .mzero free 0 0, .qinit free 0 0 0 9, .cpy free ⟨0, false, some 0, true, 0⟩, .cpyS free ⟨0, false, none, true, 0⟩,
    .cpyPeer free ⟨0, false, none, true, 0⟩, .cpy2d free ⟨0, false, none, false, 1⟩, .cpy2d free ⟨0, false, some 0, true, 0⟩,
    .cpyMc free ⟨0, false, some 0, false, 0⟩, .cpyMc free ⟨0, false, none, true, 0⟩, .cpyg free ⟨0, false, none, true, 0⟩,
    .cpyg free ⟨0, false, none, false, 1⟩, .alloc free 0 .home 5, .alloc free 0 .home 31, .reduce 0 1 2 .sum (.f .f16)] :
    List Instr).all (fun i => !i.wf) = true := by decide

/-! ## Values that spec/ works out -/

/-- 04 R96: its table of values. -/
theorem test_values_of_R96 :
    valueOf (.add toOne .s8 (.p false)) (sTok 100) (sTok 100) none = some 0xFFFF_FFFF_FFFF_FFC8 ∧
    valueOf (.add toOne .s8 (.p true)) (sTok 100) (sTok 100) none = some 0x7F ∧
    valueOf (.add toOne .n8 (.p false)) (sTok 200) (sTok 100) none = some 0x2C ∧
    valueOf (.div toOne .s32 (.i 2)) (sTok (-7)) none none = some 0xFFFF_FFFF_FFFF_FFFD ∧
    valueOf (.rem toOne .s32 (.i 2)) (sTok (-7)) none none = some 0xFFFF_FFFF_FFFF_FFFF ∧
    valueOf (.div toOne .s32 (.p false)) (sTok 5) (sTok 0) none = some 0 ∧
    valueOf (.rem toOne .s32 (.p false)) (sTok 5) (sTok 0) none = some 5 ∧
    valueOf (.mulh toOne .n64 .p) (sTok (-1)) (sTok 2) none = some 1 ∧
    valueOf (.mulh toOne .s64 .p) (sTok (-1)) (sTok 2) none = some 0xFFFF_FFFF_FFFF_FFFF ∧
    valueOf (.shr toOne .n32 .p) (sTok 0x8000_0000) (sTok 33) none = some 0x4000_0000 ∧
    valueOf (.sra toOne .s32 (.i 4)) (sTok 0x8000_0000) none none = some 0xFFFF_FFFF_F800_0000 ∧
    valueOf (.bfx toOne .n32 (.i 0x0804)) (sTok 0xABCD) none none = some 0xBC ∧
    valueOf (.bfx toOne .s32 .p) (sTok 0xABCD) (sTok 0x0804) none = some 0xFFFF_FFFF_FFFF_FFBC ∧
    valueOf (.lea toOne .s32 .p) (sTok 0x10_0000_0000) (sTok (-3)) none = some 0xF_FFFF_FFF4 ∧
    valueOf (.clz toOne .n16) (sTok 0x0F00) none none = some 4 ∧
    valueOf (.neg toOne .s64 true) (sTok 0x8000_0000_0000_0000) none none = some 0x7FFF_FFFF_FFFF_FFFF ∧
    valueOf (.movi toOne .n32 0xFFFF_FFFF) none none none = some 0xFFFF_FFFF := by decide

/-- 05 R122: the conversion it works out, element by element; 03: 500.0 under .nosat. -/
theorem test_conversions :
    convert (.f .f32) (.f .e4m3) ⟨.rne, true, 0⟩ 0x43FA_0000 = ⟨0x7E, { of := true, nx := true }⟩ ∧
    convert (.f .f32) (.f .e4m3) ⟨.rne, true, 0⟩ 0x3F80_0000 = ⟨0x38, {}⟩ ∧
    convert (.f .f32) (.f .e4m3) ⟨.rne, true, 0⟩ 0x8000_0000 = ⟨0x80, {}⟩ ∧
    convert (.f .f32) (.f .e4m3) ⟨.rne, true, 0⟩ 0x7FC0_0000 = ⟨0x7F, {}⟩ ∧
    convert (.f .f32) (.f .e4m3) ⟨.rne, true, 0⟩ 0x3A80_0000 = ⟨0, { uf := true, nx := true }⟩ ∧
    convert (.f .f32) (.f .e4m3) ⟨.rne, false, 0⟩ 0x43FA_0000 = ⟨0x7F, { nv := true, of := true, nx := true }⟩ := by decide

/-- 03 R63 and its example: 1 + 3 · 2^-9 rounds to 0x3F81 in bf16 exactly for draws below 49,152. -/
theorem test_stochastic_threshold :
    fRound .bf16 ⟨.sr, false, 49151⟩ (.fin false 515 (-9)) = ⟨0x3F81, { nx := true }⟩ ∧
    fRound .bf16 ⟨.sr, false, 49152⟩ (.fin false 515 (-9)) = ⟨0x3F80, { nx := true }⟩ := by decide

/-- 14 R277, chapter 14's worked fault: the record that the trap of a load at 0x60_0000_0008 leaves. -/
theorem test_trap_record :
    let p : Place := ⟨1, 17, 1⟩
    let g := { freshGroup p 5 3 0x0090_02D0_0018_0000 0 [p] false widestDesc [] [] [] [] 0 with count := 12 }
    let s := { State.reset with pkgNum := 2, ctxs := [{ ctxT with slot := 5, gen := 3 }], groups := [g], gens := List.replicate 64 3 }
    let t := s.takeTrap p ⟨0x087, 8, some 2, 0x40_0001_0200, 0x60_0000_0008, .load, 0⟩ (.rerun 0x40_0001_0200)
    ((t.ctx? 5).bind fun x => x.held.head?.map fun h => numbered h.words 7) = some
      [0x0000_0040_0001_0200, 0x0000_0060_0000_0008, 0x0090_02D0_0018_0000, 0x0001_0000_2208_0087, 0x0000_0000_0A08_0251,
        0x0000_0040_0001_0200, 0x0000_0000_0000_000C, 0x0000_0000_0007_0003] ∧
    (t.group? p).map Group.cause = some 0x0000_0000_0008_0087 := by decide

/-- 22 R396: the header and payload of the Signal that the chapter writes out. -/
theorem test_bridle_signal : headerOk ⟨0x0002_0001_0009_0002, 1, 0x0000_0000_0001_0002, 0, [0x0000_0200_0008_0000, 0], 0, 0⟩ = true := by
  decide

/-! ## States that meet the hypotheses of the statements

Each theorem names the statement; its parts are the statement's clauses in order, at a value at the edge of a range where
there is one. -/

/-- Nothing more is asked. -/
abbrev Any : Group → BlockRun → Node → List Nat → Prop := fun _ _ _ _ => True

/-- ScalarInstructions: a saturating byte sum at the end of its range; BFX with the longest field; BFI of an empty one. -/
theorem test_meets_ScalarInstructions :
    Met (atT (.add free .s8 (.p true)) (sTok 100) (sTok 100) none none) (.add free .s8 (.p true))
      (fun _ r n _ => Claims.arith (.add free .s8 (.p true)) r n = some 0x7F) ∧
    Met (atT (.div free .s64 (.p true)) (sTok 0x8000000000000000) (sTok (-1)) none none) (.div free .s64 (.p true))
      (fun _ r n _ => Claims.arith (.div free .s64 (.p true)) r n = some 0x7FFFFFFFFFFFFFFF) ∧
    Met (atT (.bfx free .n64 (.i 0x4000)) (sTok 5) none none none) (.bfx free .n64 (.i 0x4000))
      (fun _ r n _ => Claims.pattern (.bfx free .n64 (.i 0x4000)) r n = some 5) ∧
    Met (atT (.bfi free .n8 .p) (sTok 5) (sTok 9) (sTok 0x0808) none) (.bfi free .n8 .p)
      (fun _ r n _ => Claims.pattern (.bfi free .n8 .p) r n = some 5) :=
  ⟨⟨_, _, _, _, ⟨rfl, rfl, by decide⟩, by decide⟩, ⟨_, _, _, _, ⟨rfl, rfl, by decide⟩, by decide⟩,
    ⟨_, _, _, _, ⟨rfl, rfl, by decide⟩, by decide⟩, ⟨_, _, _, _, ⟨rfl, rfl, by decide⟩, by decide⟩⟩

/-- ComparesAndPredicates. -/
theorem test_meets_ComparesAndPredicates :
    Met (atT (.cmp free .lt .s8 (.i 0x80)) (sTok 127) none none none) (.cmp free .lt .s8 (.i 0x80)) Any ∧
    Met (atT (.pand free) (pTok true) (pTok false) none none) (.pand free) Any ∧
    Met (atT (.por free) (pTok true) (pTok false) none none) (.por free) Any ∧
    Met (atT (.pxor free) (pTok true) (pTok false) none none) (.pxor free) Any ∧
    Met (atT (.pnot free) (pTok true) none none none) (.pnot free) Any ∧
    Met (atT (.plane free 0x81) none none none none) (.plane free 0x81) Any ∧
    Met (atT (.pcount free) (pTok true) none none none) (.pcount free) Any :=
  ⟨⟨_, _, _, _, ⟨rfl, rfl, by decide⟩, trivial⟩, ⟨_, _, _, _, ⟨rfl, rfl, by decide⟩, trivial⟩,
    ⟨_, _, _, _, ⟨rfl, rfl, by decide⟩, trivial⟩, ⟨_, _, _, _, ⟨rfl, rfl, by decide⟩, trivial⟩,
    ⟨_, _, _, _, ⟨rfl, rfl, by decide⟩, trivial⟩, ⟨_, _, _, _, ⟨rfl, rfl, by decide⟩, trivial⟩,
    ⟨_, _, _, _, ⟨rfl, rfl, by decide⟩, trivial⟩⟩

/-- A bound input stream whose next element is buffered. -/
def streamT : Stream := ⟨.mem 0 8 2, false, false, 8, 1, 0, [.data [1, 0, 0, 0, 0, 0, 0, 0] none], false, 0, 0, 0, []⟩

/-- The same state with stream register 0 bound. -/
def bound (st : Stream) (s : State) : State :=
  { s with groups := s.groups.map fun g => { g with s := g.s.set 0 (some st) } }

/-- RegistersAndMoves, READ: the ends of each class. -/
theorem test_meets_ReadRegisters :
    Met (atT (.read free .s64 (.x 0)) none none none none) (.read free .s64 (.x 0)) Any ∧
    Met (atT (.read free .s64 (.v 31)) none none none none) (.read free .s64 (.v 31)) Any ∧
    Met (atT (.read free .s64 (.p 7)) none none none none) (.read free .s64 (.p 7)) Any ∧
    Met (atT (.read free .s64 (.k 7)) none none none none) (.read free .s64 (.k 7)) Any ∧
    Met (atT (.read free .s64 (.s 7)) none none none none) (.read free .s64 (.s 7)) (fun g _ _ _ => g.s.getD 7 none = none) ∧
    Met (bound streamT (atT (.read free .s64 (.s 0)) none none none none)) (.read free .s64 (.s 0)) (fun g _ _ _ =>
      ∃ st bs rest, g.s.getD 0 none = some st ∧ (∀ b, st.src ≠ .edge b) ∧ st.buf = .data bs none :: rest) :=
  ⟨⟨_, _, _, _, ⟨rfl, rfl, by decide⟩, trivial⟩, ⟨_, _, _, _, ⟨rfl, rfl, by decide⟩, trivial⟩,
    ⟨_, _, _, _, ⟨rfl, rfl, by decide⟩, trivial⟩, ⟨_, _, _, _, ⟨rfl, rfl, by decide⟩, trivial⟩,
    ⟨_, _, _, _, ⟨rfl, rfl, by decide⟩, rfl⟩,
    ⟨_, _, _, _, ⟨rfl, rfl, by decide⟩, streamT, _, _, rfl, (fun _ h => by cases h), rfl⟩⟩

/-- RegistersAndMoves, the others. -/
theorem test_meets_MoveAndSelect :
    Met (atT (.write free .s8 (.x 31)) (sTok 5) none none none) (.write free .s8 (.x 31)) Any ∧
    Met (atT (.mov free .s8) (vTok 5) none none none) (.mov free .s8) Any ∧
    Met (atT (.fan .s8 .off .off .off .off) (pTok true) none none none) (.fan .s8 .off .off .off .off) Any ∧
    Met (atT (.movi free .n8 0x80000000) none none none none) (.movi free .n8 0x80000000) Any ∧
    Met (atT (.movl free .n8 1) none none none none) (.movl free .n8 1) Any ∧
    Met (atT (.void .n8 .off .off) none none none none) (.void .n8 .off .off) Any ∧
    Met (atT (.sel free .n8) (sTok 1) (sTok 2) (pTok false) none) (.sel free .n8) (fun g _ n _ => ∃ x y p,
      n.l.getD .void = .s x ∧ n.r = some (.s y) ∧ n.t = some p ∧ ∀ l < g.shape.lanes, p.voidAt l = false) ∧
    Met (atT (.sel free .n8) (vTok 1) (vTok 2) (pTok true) none) (.sel free .n8) (fun _ _ n _ => ∃ x y p,
      n.l.getD .void = .v x ∧ n.r = some (.v y) ∧ n.t = some p) :=
  ⟨⟨_, _, _, _, ⟨rfl, rfl, by decide⟩, trivial⟩, ⟨_, _, _, _, ⟨rfl, rfl, by decide⟩, trivial⟩,
    ⟨_, _, _, _, ⟨rfl, rfl, by decide⟩, trivial⟩, ⟨_, _, _, _, ⟨rfl, rfl, by decide⟩, trivial⟩,
    ⟨_, _, _, _, ⟨rfl, rfl, by decide⟩, trivial⟩, ⟨_, _, _, _, ⟨rfl, rfl, by decide⟩, trivial⟩,
    ⟨_, _, _, _, ⟨rfl, rfl, by decide⟩, _, _, _, rfl, rfl, rfl, by decide⟩,
    ⟨_, _, _, _, ⟨rfl, rfl, by decide⟩, _, _, _, rfl, rfl, rfl⟩⟩

/-- ControlExits. -/
theorem test_meets_ControlExits :
    Met (atT (.br free) (sTok 64) none none none) (.br free) (fun _ _ n _ => ∃ a, n.l = some (.s a)) ∧
    Met (atT (.bri free 0xFFFFFFFF) none none none none) (.bri free 0xFFFFFFFF) Any ∧
    Met (atT (.call free 1) none none none none) (.call free 1) Any ∧
    Met (atT (.ret free) none none none none) (.ret free) Any ∧
    Met (atT (.endg free) none none none none) (.endg free) Any ∧
    Met (atT (.trap free 63) none none none none) (.trap free 63) Any :=
  ⟨⟨_, _, _, _, ⟨rfl, rfl, by decide⟩, _, rfl⟩, ⟨_, _, _, _, ⟨rfl, rfl, by decide⟩, trivial⟩,
    ⟨_, _, _, _, ⟨rfl, rfl, by decide⟩, trivial⟩, ⟨_, _, _, _, ⟨rfl, rfl, by decide⟩, trivial⟩,
    ⟨_, _, _, _, ⟨rfl, rfl, by decide⟩, trivial⟩, ⟨_, _, _, _, ⟨rfl, rfl, by decide⟩, trivial⟩⟩

/-- Settling: a guard that lets no lane execute, a void operand, and a turn without a block. -/
theorem test_meets_Settling :
    (∃ g r n, (atT (.neg ⟨.any true, .off, .off⟩ .s8 false) (sTok 1) none none (pTok true)).turnNode = some (g, r, n) ∧
      guardLanes g.shape.lanes (.any true) n.g = none) ∧
    (∃ g r n, (atT (.neg free .s8 false) (some .void) none none none).turnNode = some (g, r, n) ∧
      ∃ t ∈ dataTokens (.neg free .s8 false) n, t.voidAll g.shape.lanes = true) ∧
    State.reset.turnNode = none :=
  ⟨⟨_, _, _, rfl, by decide⟩, ⟨_, _, _, rfl, _, List.mem_singleton.mpr rfl, by decide⟩, rfl⟩

/-- VectorIntegers: with a mask that keeps, at the narrowest element. -/
theorem test_meets_VectorIntegers :
    Met (atT (.vadd free (.i .s8) .v ⟨.rne, true, .keep⟩) (vTok 0x7F) (vTok 1) (kTok 1) none)
      (.vadd free (.i .s8) .v ⟨.rne, true, .keep⟩)
      (fun _ _ _ _ => (Claims.vint (.vadd free (.i .s8) .v ⟨.rne, true, .keep⟩)).isSome = true) :=
  ⟨_, _, _, _, ⟨rfl, rfl, by decide⟩, rfl⟩

/-- VectorFloats: a guarded addition with draws. -/
theorem test_meets_VectorFloats :
    Met (atT (.vadd ⟨.any false, .off, .off⟩ (.f .bf16) .s ⟨.sr, true, .zero⟩) (vTok 0x3F80) (sTok 0x3C00) (kTok 1) (pTok true))
      (.vadd ⟨.any false, .off, .off⟩ (.f .bf16) .s ⟨.sr, true, .zero⟩)
      (fun _ _ _ ls => Instr.wf (.vadd ⟨.any false, .off, .off⟩ (.f .bf16) .s ⟨.sr, true, .zero⟩) = true ∧ (∀ l ∈ ls, l < 8) ∧
        (Claims.vfp (.vadd ⟨.any false, .off, .off⟩ (.f .bf16) .s ⟨.sr, true, .zero⟩)).isSome = true) :=
  ⟨_, _, _, _, ⟨rfl, rfl, by decide⟩, rfl, by decide, rfl⟩

/-- VectorCompareAndConvert. -/
theorem test_meets_VectorCompareAndConvert :
    Met (atT (.vcmp free .ge (.f .e5m2) (.l 1) .zero) (vTok 3) (kTok 1) none none) (.vcmp free .ge (.f .e5m2) (.l 1) .zero)
      (fun _ _ _ _ => Instr.wf (.vcmp free .ge (.f .e5m2) (.l 1) .zero) = true) ∧
    Met (atT (.vsel free .s8) (vTok 3) (vTok 4) (kTok 1) none) (.vsel free .s8) Any ∧
    Met (atT (.vcvt free (.f .e2m1) (.f .f64) ⟨.sr, true, .none⟩) (vTok 3) none none none)
      (.vcvt free (.f .e2m1) (.f .f64) ⟨.sr, true, .none⟩)
      (fun _ _ _ _ => Instr.wf (.vcvt free (.f .e2m1) (.f .f64) ⟨.sr, true, .none⟩) = true) :=
  ⟨⟨_, _, _, _, ⟨rfl, rfl, by decide⟩, rfl⟩, ⟨_, _, _, _, ⟨rfl, rfl, by decide⟩, trivial⟩,
    ⟨_, _, _, _, ⟨rfl, rfl, by decide⟩, rfl⟩⟩

/-- ReduceAndScan. -/
theorem test_meets_ReduceAndScan :
    Met (atT (.vreduce free (.f .f64) .sum ⟨.sr, false, .zero⟩) (vTok 3) (kTok 0) none none)
      (.vreduce free (.f .f64) .sum ⟨.sr, false, .zero⟩)
      (fun _ _ _ _ => Instr.wf (.vreduce free (.f .f64) .sum ⟨.sr, false, .zero⟩) = true) ∧
    Met (atT (.vscan free (.i .n8) .sum ⟨.rne, true, .keep⟩) (vTok 3) (kTok 1) none none)
      (.vscan free (.i .n8) .sum ⟨.rne, true, .keep⟩)
      (fun _ _ _ _ => Instr.wf (.vscan free (.i .n8) .sum ⟨.rne, true, .keep⟩) = true) :=
  ⟨⟨_, _, _, _, ⟨rfl, rfl, by decide⟩, rfl⟩, ⟨_, _, _, _, ⟨rfl, rfl, by decide⟩, rfl⟩⟩

/-- MovingElements: VEXTR of the last element. -/
theorem test_meets_MovingElements :
    Met (atT (.vperm free .n8 .zero) (vTok 3) (vTok 0xFF) (kTok 1) none) (.vperm free .n8 .zero) Any ∧
    Met (atT (.vxlane free .s8) (vTok 3) (sTok 0xFFFFFF) none none) (.vxlane free .s8) Any ∧
    Met (atT (.vbcast free .s64 .zero) (sTok 3) (kTok 1) none none) (.vbcast free .s64 .zero)
      (fun _ _ _ _ => Instr.wf (.vbcast free .s64 .zero) = true) ∧
    Met (atT (.viota free .n8 .none) (sTok 255) none none none) (.viota free .n8 .none)
      (fun _ _ _ _ => Instr.wf (.viota free .n8 .none) = true) ∧
    Met (atT (.vextr free .s8) (vTok 3) (sTok 1023) none none) (.vextr free .s8)
      (fun g _ n _ => (∃ i, n.r = some (.s i)) ∧ ∀ l < g.shape.lanes, (n.l.getD .void).voidAt l = false) ∧
    Met (atT (.vins free .s64) (vTok 3) (sTok 9) (sTok 127) none) (.vins free .s64) (fun _ _ n _ => ∃ i, n.t = some (.s i)) :=
  ⟨⟨_, _, _, _, ⟨rfl, rfl, by decide⟩, trivial⟩, ⟨_, _, _, _, ⟨rfl, rfl, by decide⟩, trivial⟩,
    ⟨_, _, _, _, ⟨rfl, rfl, by decide⟩, rfl⟩, ⟨_, _, _, _, ⟨rfl, rfl, by decide⟩, rfl⟩,
    ⟨_, _, _, _, ⟨rfl, rfl, by decide⟩, ⟨_, rfl⟩, by decide⟩, ⟨_, _, _, _, ⟨rfl, rfl, by decide⟩, _, rfl⟩⟩

/-- SortsAndMasks. -/
theorem test_meets_SortsAndMasks :
    Met (atT (.vsortk free (.f .f16) .zero) (vTok 3) (sTok 1) (kTok 1) none) (.vsortk free (.f .f16) .zero)
      (fun _ _ n _ => (∃ ctl, n.r = some (.s ctl)) ∧ Instr.wf (.vsortk free (.f .f16) .zero) = true) ∧
    Met (atT (.vmerge free (.i .s64)) (vTok 3) (vTok 4) (sTok 1) none) (.vmerge free (.i .s64))
      (fun _ _ n _ => (∃ ctl, n.t = some (.s ctl)) ∧ Instr.wf (.vmerge free (.i .s64)) = true) ∧
    Met (atT (.kany free .s8) (kTok 1) none none none) (.kany free .s8) Any ∧
    Met (atT (.kall free .s64) (kTok 1) none none none) (.kall free .s64) Any ∧
    Met (atT (.kpop free .n8) (kTok 1) none none none) (.kpop free .n8) Any :=
  ⟨⟨_, _, _, _, ⟨rfl, rfl, by decide⟩, ⟨_, rfl⟩, rfl⟩, ⟨_, _, _, _, ⟨rfl, rfl, by decide⟩, ⟨_, rfl⟩, rfl⟩,
    ⟨_, _, _, _, ⟨rfl, rfl, by decide⟩, trivial⟩, ⟨_, _, _, _, ⟨rfl, rfl, by decide⟩, trivial⟩,
    ⟨_, _, _, _, ⟨rfl, rfl, by decide⟩, trivial⟩⟩

/-- FloatFormats: the greatest finite e4m3; a signalling and a quiet NaN, infinities, zero. -/
theorem test_meets_FloatFormats :
    Claims.Finite .e4m3 0x7E ∧ fNan .f32 = some 0x7FC00000 ∧ (fDecode .f32 0x7F800001).isSig = true ∧
    (fDecode .f32 0x7FC00000).isNan = true ∧ fDecode .f32 0x7F800000 = .inf false ∧ fDecode .f32 0xFF800000 = .inf true ∧
    ∃ e, fDecode .f32 0x80000000 = .fin true 0 e :=
  ⟨⟨by decide, _, _, _, rfl⟩, rfl, rfl, rfl, rfl, rfl, _, rfl⟩

/-- ScratchInstructions: the last aligned place of the last window for a scalar, the first for a vector. -/
theorem test_meets_ScratchInstructions :
    (∃ g m : Group, ((0x7FFF8 : Word).extractLsb' 32 32) = 0 ∧ ((0x7FFF8 : Word).extractLsb' 28 4).toNat < g.gang.length ∧
      (stateT [g]).memberAt g 0 = some m ∧ 0x7FFF8 / 65536 < m.shape.windows) ∧
    Met (atT (.lds free .s64 3 false 0) (sTok 0x7FFF8) none none none) (.lds free .s64 3 false 0) (fun g r n ls =>
      ∃ a, (atT (.lds free .s64 3 false 0) (sTok 0x7FFF8) none none none).saddr g true 0x7FFF8 0 8 8 = .ok a ∧
        let e := Claims.env (atT (.lds free .s64 3 false 0) (sTok 0x7FFF8) none none none) (.lds free .s64 3 false 0) g r n ls
        e.loadReady = true ∧ (e.readScr a 8).2 = none) ∧
    Met (atT (.lds free .s64 3 true 0) (sTok 0) none none none) (.lds free .s64 3 true 0) (fun g r n ls =>
      ∃ a, (atT (.lds free .s64 3 true 0) (sTok 0) none none none).saddr g true 0 0 (128 * g.shape.lanes) 128 = .ok a ∧
        let e := Claims.env (atT (.lds free .s64 3 true 0) (sTok 0) none none none) (.lds free .s64 3 true 0) g r n ls
        e.loadReady = true ∧ (e.readScr a (128 * g.shape.lanes)).2 = none) ∧
    Met (atT (.sts free .n8 3 false 0xFFFFFF) (sTok 0x10000) (sTok 9) none none) (.sts free .n8 3 false 0xFFFFFF) (fun g _ _ _ =>
      ∃ a, (atT (.sts free .n8 3 false 0xFFFFFF) (sTok 0x10000) (sTok 9) none none).saddr g true 0x10000 0xFFFFFF 1 1 = .ok a) ∧
    Met (atT (.sts free .n8 3 true 0) (sTok 0xFC00) (vTok 9) none none) (.sts free .n8 3 true 0) (fun g _ _ _ =>
      ∃ a, (atT (.sts free .n8 3 true 0) (sTok 0xFC00) (vTok 9) none none).saddr g true 0xFC00 0 (128 * g.shape.lanes) 128 = .ok a) :=
  ⟨⟨groupT here none, _, rfl, by decide, rfl, by decide⟩,
    ⟨_, _, _, _, ⟨rfl, rfl, by decide⟩, _, rfl, rfl, rfl⟩, ⟨_, _, _, _, ⟨rfl, rfl, by decide⟩, _, rfl, rfl, rfl⟩,
    ⟨_, _, _, _, ⟨rfl, rfl, by decide⟩, _, rfl⟩, ⟨_, _, _, _, ⟨rfl, rfl, by decide⟩, _, rfl⟩⟩

/-- The barrier's address is one of a window. -/
abbrev BarAt (s : State) (g : Group) (n : Node) (off : BitVec 24) : Prop :=
  ∃ a, s.saddr g true (n.l.getD .void).word off 16 16 = .ok a

/-- Barriers: the greatest counts; a phase that has flipped; each outcome of an update. -/
theorem test_meets_Barriers :
    Met (atT (.binit free 1 0) (sTok last) (sTok 65535) none none) (.binit free 1 0) (fun g _ n _ =>
      BarAt (atT (.binit free 1 0) (sTok last) (sTok 65535) none none) g n 0 ∧ (n.r.getD .void).word.toNat ≤ 65535) ∧
    Met (atT (.bexpect free 1 0) (sTok last) (sTok 0x7FFFFFFFF) none none) (.bexpect free 1 0) (fun g _ n _ =>
      BarAt (atT (.bexpect free 1 0) (sTok last) (sTok 0x7FFFFFFFF) none none) g n 0 ∧ (n.r.getD .void).word.toNat < 2 ^ 35) ∧
    Met (atT (.barrive free 1 0) (sTok last) none none none) (.barrive free 1 0) (fun g _ n _ =>
      BarAt (atT (.barrive free 1 0) (sTok last) none none none) g n 0) ∧
    Met (atT (.bwait free 1 0) (sTok last) (sTok 1) none none) (.bwait free 1 0) (fun g r n ls =>
      ∃ a, (atT (.bwait free 1 0) (sTok last) (sTok 1) none none).saddr g true last 0 16 16 = .ok a ∧
        let e := Claims.env (atT (.bwait free 1 0) (sTok last) (sTok 1) none none) (.bwait free 1 0) g r n ls
        e.loadReady = true ∧ (e.barrier a).error = false ∧ (e.barrier a).phase ≠ (1 : Word).getLsbD 0) ∧
    Met (atT (.btest free 1 0) (sTok last) none none none) (.btest free 1 0) (fun g r n ls =>
      BarAt (atT (.btest free 1 0) (sTok last) none none none) g n 0 ∧
        (Claims.env (atT (.btest free 1 0) (sTok last) none none none) (.btest free 1 0) g r n ls).loadReady = true) ∧
    (∃ b : Barrier, b.error = false ∧ 2 ^ 35 ≤ b.bytes + 1) ∧ (∃ b : Barrier, b.error = false ∧ b.arrivals < 1) ∧
    (∃ b : Barrier, b.error = false ∧ b.bytes + -16 = 0 ∧ b.arrivals = 0) :=
  ⟨⟨_, _, _, _, ⟨rfl, rfl, by decide⟩, ⟨_, rfl⟩, by decide⟩, ⟨_, _, _, _, ⟨rfl, rfl, by decide⟩, ⟨_, rfl⟩, by decide⟩,
    ⟨_, _, _, _, ⟨rfl, rfl, by decide⟩, _, rfl⟩, ⟨_, _, _, _, ⟨rfl, rfl, by decide⟩, _, rfl, rfl, rfl, by decide⟩,
    ⟨_, _, _, _, ⟨rfl, rfl, by decide⟩, ⟨_, rfl⟩, rfl⟩, ⟨⟨2 ^ 35 - 1, 0, 0, false, false⟩, rfl, by decide⟩,
    ⟨⟨0, 0, 0, false, false⟩, rfl, by decide⟩, ⟨⟨16, 0, 0, false, false⟩, rfl, by decide, rfl⟩⟩

/-- GlobalReads: the last doubleword of the mapped page; a wide acquire; a gather with a mask that includes one element. -/
theorem test_meets_GlobalReads :
    Met (atT (.ld free .n64 true ⟨1, .sys, 0xFFFFF8⟩) (sTok 0x10000) none none none) (.ld free .n64 true ⟨1, .sys, 0xFFFFF8⟩)
      (fun g r n ls => (atT (.ld free .n64 true ⟨1, .sys, 0xFFFFF8⟩) (sTok 0x10000) none none none).backBlocked (some here) 0 = false ∧
        let e := Claims.env (atT (.ld free .n64 true ⟨1, .sys, 0xFFFFF8⟩) (sTok 0x10000) none none none)
          (.ld free .n64 true ⟨1, .sys, 0xFFFFF8⟩) g r n ls
        e.loadReady = true ∧ ∃ pa, Claims.Maps e.s g .load 8 0xFFF8 pa ∧
          (e.readPhys (Claims.after e.s g true) true pa 8).2 = none) ∧
    Met (atT (.ldv free .s8 false ⟨1, .slot, 0⟩) (sTok 0xFC00) none none none) (.ldv free .s8 false ⟨1, .slot, 0⟩) (fun g r n ls =>
        let e := Claims.env (atT (.ldv free .s8 false ⟨1, .slot, 0⟩) (sTok 0xFC00) none none none)
          (.ldv free .s8 false ⟨1, .slot, 0⟩) g r n ls
        (∀ l ∈ ls, l < 8) ∧ e.loadReady = true ∧ ∀ l ∈ ls, Claims.Maps e.s g .load 128 (0xFC00 + 128 * l) (0x10FC00 + 128 * l) ∧
          (e.readPhys e.s false (0x10FC00 + 128 * l) 128).2 = none) ∧
    Met (atT (.gather free .s64 1 true 0) (sTok 0) (vTok 0x1FFF) (kTok 1) none) (.gather free .s64 1 true 0) (fun g r n ls =>
        let e := Claims.env (atT (.gather free .s64 1 true 0) (sTok 0) (vTok 0x1FFF) (kTok 1) none) (.gather free .s64 1 true 0) g r n ls
        (∀ l ∈ ls, l < 8) ∧ e.loadReady = true ∧ ((n.t.getD .void).kLane 0).getLsbD 0 = true ∧
          Claims.Maps e.s g .load 8 (Claims.eaAt .s64 0 0 (Claims.elem 64 ((n.r.getD .void).vLane 0) 0)) 0x10FFF8 ∧
          (e.readPhys e.s false 0x10FFF8 8).2 = none ∧ ∀ k < 16, 0 < k → ((n.t.getD .void).kLane 0).getLsbD (8 * k) = false) ∧
    Met (atT (.scatter free .s64 1 0) (sTok 0) (vTok 0) (vTok 5) none) (.scatter free .s64 1 0) (fun g _ n ls =>
        ∀ l ∈ ls, ∀ e < 16, Claims.Maps (atT (.scatter free .s64 1 0) (sTok 0) (vTok 0) (vTok 5) none) g .store 8
          (Claims.eaAt .s64 0 0 (Claims.elem 64 ((n.r.getD .void).vLane l) e)) 0x100000) :=
  ⟨⟨_, _, _, _, ⟨rfl, rfl, by decide⟩, rfl, rfl, _, ⟨by decide, by decide, rfl⟩, rfl⟩,
    ⟨_, _, _, _, ⟨rfl, rfl, by decide⟩, by decide, rfl, fun l h => ⟨⟨by revert l; decide, by revert l; decide, by revert l; decide⟩,
      by revert l; decide⟩⟩,
    ⟨_, _, _, _, ⟨rfl, rfl, by decide⟩, by decide, rfl, rfl, ⟨by decide, by decide, rfl⟩, rfl, by decide⟩,
    ⟨_, _, _, _, ⟨rfl, rfl, by decide⟩, fun l h e k => ⟨by revert e; revert l; decide, by revert e; revert l; decide,
      by revert e; revert l; decide⟩⟩⟩

/-- An instruction fires, and more holds of what its meaning works from. -/
def OnS (s : State) (i : Instr) (H : Env → Prop) : Prop := ∃ g r n ls, Claims.Fires s i g r n ls ∧ H (Claims.env s i g r n ls)

/-- The same at the turn of a single instruction. -/
abbrev On (i : Instr) (l r t : Option Token) (H : Env → Prop) : Prop := OnS (atT i l r t none) i H

/-- Atomics: a releasing compare-and-swap on the mapped page, at the home. -/
theorem test_meets_Atomics :
    On (.amoCas free .n64 .acqrel ⟨1, .sys, 0⟩) (sTok 0xFFF8) (sTok 0) (sTok 5) fun e =>
      e.loadReady = true ∧ Claims.Maps e.s e.g .atomic 8 0xFFF8 0x10FFF8 ∧
        e.s.leaseMeets (some here) 0 (e.s.point 0 0x10FFF8 true) 0x10FFF8 8 = false ∧ e.s.backBlocked (some here) 0 = false ∧
        (e.readPhys (e.amoState true true 0x10FFF8 8) true 0x10FFF8 8).2 = none :=
  ⟨_, _, _, _, ⟨rfl, rfl, by decide⟩, rfl, ⟨by decide, by decide, rfl⟩, rfl, rfl, rfl⟩

/-- StoresAndFences: the last byte of the page; all eight lanes; each fence. -/
theorem test_meets_StoresAndFences :
    On (.st free .n8 true ⟨1, .pod, 0⟩) (sTok 0xFFFF) (sTok 5) none (fun e => Claims.Maps e.s e.g .store 1 0xFFFF 0x10FFFF) ∧
    On (.stv free .s8 false ⟨1, .slot, 0⟩) (sTok 0) (vTok 5) none
      (fun e => ∀ l ∈ e.exec, Claims.Maps e.s e.g .store 128 (128 * l) (0x100000 + 128 * l)) ∧
    On (.fence free 1 .rel .sys) none none none (fun _ => True) ∧
    On (.fence free 1 .acqrel .sys) none none none (fun e =>
      (∀ m ∈ e.r.nodes, m.lsid < 1 → isLoad m.ins = true → m.resolved = true) ∧ e.s.backBlocked (some here) 0 = false ∧ e.g.sb = []) :=
  ⟨⟨_, _, _, _, ⟨rfl, rfl, by decide⟩, by decide, by decide, rfl⟩,
    ⟨_, _, _, _, ⟨rfl, rfl, by decide⟩, fun l h => ⟨by revert l; decide, by revert l; decide, by revert l; decide⟩⟩,
    ⟨_, _, _, _, ⟨rfl, rfl, by decide⟩, trivial⟩, ⟨_, _, _, _, ⟨rfl, rfl, by decide⟩, by decide, rfl, rfl⟩⟩

/-- A ring of two 256-byte entries in window 7, one of them present. -/
def ringT : Ring := ⟨0x70000, 256, 1, 1, 0, 0, [.present, .empty]⟩

/-- A ring of `count` entries that nothing has entered. -/
def emptyRing (bytes : Nat) : Ring := ⟨0x70000, bytes, 1, 0, 0, 0, [.empty, .empty]⟩

/-- Rings 0 and 1 are set. -/
def ringed (a b : Ring) (s : State) : State := { s with groups := s.groups.map fun g => { g with q := (g.q.set 0 (some a)).set 1 (some b) } }

/-- The same at a turn whose group has rings. -/
abbrev OnR (a b : Ring) (i : Instr) (l r t : Option Token) (H : Env → Prop) : Prop := OnS (ringed a b (atT i l r t none)) i H

/-- RingInstructions: the largest count, a push of two lanes and a pop of a present entry. -/
theorem test_meets_RingInstructions :
    On (.qinit free 1 7 3 8) (sTok 0x70000) none none (fun e => e.ringPending 7 = false ∧
      (∃ a, e.s.saddr e.g false 0x70000 0 (256 * 256) 64 = .ok a) ∧ e.produced 7 = 0 ∧ e.consumed 7 = 0 ∧ e.ring 7 = none) ∧
    OnR ringT ringT (.qpush free 1 0) (vTok 5) none none (fun e => Claims.UsesRing e 0 ringT ∧ ringT.entry = 128 * 2 ∧
      2 ≤ e.g.shape.lanes ∧ e.ticket 0 ringT = some 1 ∧ ∀ l < 2, (e.n.l.getD .void).voidAt l = false ∧ l ∈ e.exec) ∧
    OnR ringT ringT (.qpop free 1 0) none none none (fun e => Claims.UsesRing e 0 ringT ∧ ringT.presence 0 = .present ∧
      e.consumed 0 = 0 ∧ e.loadReady = true ∧ (e.readScr ⟨0, 7, 0⟩ 256).2 = none) ∧
    OnR ringT ringT (.qstat free 1 0) none none none (fun e => e.loadReady = true ∧ e.g.q.getD 0 none = some ringT) :=
  ⟨⟨_, _, _, _, ⟨rfl, rfl, by decide⟩, rfl, ⟨⟨0, 7, 0⟩, isOk (by decide +kernel)⟩, rfl, rfl, rfl⟩,
    ⟨_, _, _, _, ⟨rfl, rfl, by decide⟩, ⟨rfl, rfl, by decide⟩, rfl, by decide, by decide +kernel, by decide⟩,
    ⟨_, _, _, _, ⟨rfl, rfl, by decide⟩, ⟨rfl, rfl, by decide⟩, by decide +kernel, rfl, rfl, rfl⟩,
    ⟨_, _, _, _, ⟨rfl, rfl, by decide⟩, rfl, rfl⟩⟩

/-- MatrixInstructions: MMAS with both operands of one ring, MMA of scratch with an arrival, MMA.G, the other three. -/
theorem test_meets_MatrixInstructions :
    OnR (emptyRing 4224) ringT (.mmas free .e4m3 ⟨1, false, some 0, some 0, 15, 0⟩) none none none (fun e => e.ringsPending = false ∧
      e.matrixFull = false ∧ Claims.Operand e (some 0) 0 (Claims.opnd .e4m3 true 32) 0 (.ring 0 0) ∧
      Claims.Operand e (some 0) 0 (Claims.opnd .e4m3 true 32) 1 (.ring 0 1) ∧ Claims.BarOf e false 0 none) ∧
    On (.mma free .f16 ⟨1, true, none, none, 0, 0⟩) (sTok 0) (sTok 0x2000) (sTok last) (fun e => e.ringsPending = false ∧
      e.matrixFull = false ∧ (∃ a, Claims.Operand e none 0 (Claims.opnd .f16 false 32) 0 a) ∧
      (∃ b, Claims.Operand e none 0x2000 (Claims.opnd .f16 false 32) 0 b) ∧ ∃ bar, Claims.BarOf e true last bar) ∧
    OnR (emptyRing 8192) ringT (.mmaG free .f16 ⟨1, true, none, some 0, 0, 0⟩) (sTok 16) (sTok 0) (sTok last) (fun e =>
      e.ringsPending = false ∧ e.matrixFull = false ∧ (∃ x, e.s.saddr e.g false 0 0 512 4 = .ok x) ∧
      Claims.Operand e (some 0) last (Claims.opnd .f16 false 32) 0 (.ring 0 0) ∧
      Instr.wf (.mmaG free .f16 ⟨1, true, none, some 0, 0, 0⟩) = true ∧ ∃ bar, Claims.BarOf e true last bar) ∧
    On (.mzero free 1 0xFFFF) none none none (fun e => e.matrixFull = false) ∧
    On (.mld free 1 15) (sTok 504) none none (fun e => (504 : Word).toNat ≤ 504 ∧ e.loadReady = true ∧
      (∀ q ∈ e.g.mq, q.op.uses 15 = false) ∧ (e.g.acc.getD 15 {}).poisoned = false) ∧
    On (.mst free ⟨1, true, true, false, 0, .f32, .rne, false, 0⟩) (sTok 64) (sTok last) none (fun e => e.matrixFull = false ∧
      ∃ bar, Claims.BarOf e true last bar) ∧
    On (.mst free ⟨1, false, false, false, 0, .e4m3, .rne, true, 0⟩) (sTok 0xC000) none none (fun e => e.matrixFull = false ∧
      Claims.BarOf e false 0 none ∧ ∃ x, e.s.saddr e.g false 0xC000 0 (127 * 128 + 128) 64 = .ok x) :=
  ⟨⟨_, _, _, _, ⟨rfl, rfl, by decide⟩, rfl, rfl, ⟨_, ⟨rfl, rfl, by decide⟩, rfl, rfl⟩, ⟨_, ⟨rfl, rfl, by decide⟩, rfl, rfl⟩, rfl⟩,
    ⟨_, _, _, _, ⟨rfl, rfl, by decide⟩, rfl, rfl, ⟨_, _, rfl, rfl⟩, ⟨_, _, rfl, rfl⟩, _, _, rfl, rfl⟩,
    ⟨_, _, _, _, ⟨rfl, rfl, by decide⟩, rfl, rfl, ⟨_, rfl⟩, ⟨_, ⟨rfl, rfl, by decide⟩, rfl, rfl⟩, rfl, _, _, rfl, rfl⟩,
    ⟨_, _, _, _, ⟨rfl, rfl, by decide⟩, rfl⟩, ⟨_, _, _, _, ⟨rfl, rfl, by decide⟩, by decide, rfl, by decide, rfl⟩,
    ⟨_, _, _, _, ⟨rfl, rfl, by decide⟩, rfl, _, _, rfl, rfl⟩, ⟨_, _, _, _, ⟨rfl, rfl, by decide⟩, rfl, rfl, _, rfl⟩⟩

/-- Copies, contiguous: into a ring, out of scratch, scratch to scratch, to a peer, and a prefetch. -/
theorem test_meets_ContiguousCopies :
    OnR ringT ringT (.cpy free ⟨1, true, some 0, false, 15⟩) (sTok 16) (sTok last) none (fun e => e.ringsPending = false ∧
      e.copyFull = false ∧ Claims.Side 16 ∧ Claims.Dest e false (some 0) last 256 256 (.ring 0 1) ∧
      ∃ bars, Claims.Credit e false true last bars) ∧
    On (.cpy free ⟨1, false, none, true, 0xFFF⟩) (sTok 0x10000) (sTok 0) none (fun e => e.ringsPending = false ∧ e.copyFull = false ∧
      (∃ a, e.s.saddr e.g false 0x10000 0 65536 16 = .ok a) ∧ Claims.Side 0 ∧ Claims.Credit e false false 0 []) ∧
    On (.cpyS free ⟨1, false, none, false, 0⟩) (sTok last) (sTok 0) none (fun e => e.ringsPending = false ∧ e.copyFull = false ∧
      (∃ a, e.s.saddr e.g false last 0 16 16 = .ok a) ∧ (∃ d, Claims.Dest e false none 0 16 16 d) ∧ Claims.Credit e false false 0 []) ∧
    OnS { stateT [{ groupT here (some (runT [] [nodeT (.cpyPeer free ⟨1, false, none, false, 0⟩) (sTok 0x1000_0000) (sTok 0) none none]))
            with gang := [here, there] }, { groupT there none with gang := [here, there], rank := 1 }] with turn := .group here }
      (.cpyPeer free ⟨1, false, none, false, 0⟩) (fun e => e.ringsPending = false ∧ e.copyFull = false ∧
      (∃ a, e.s.saddr e.g true 0x1000_0000 0 16 16 = .ok a) ∧ (∃ d, Claims.Dest e true none 0 16 16 d) ∧
      (0x1000_0000 : Word).extractLsb' 28 4 ≠ 0 ∧ Claims.Credit e true false 0 []) ∧
    On (.pref free 1 0xFFF) (sTok 5) none none (fun e => e.copyFull = false) :=
  ⟨⟨_, _, _, _, ⟨rfl, rfl, by decide⟩, rfl, rfl, ⟨by decide, by decide⟩, ⟨_, _, ⟨rfl, rfl, by decide⟩, rfl, by decide +kernel, rfl⟩, _, _, rfl, rfl⟩,
    ⟨_, _, _, _, ⟨rfl, rfl, by decide⟩, rfl, rfl, ⟨⟨0, 1, 0⟩, isOk (by decide +kernel)⟩, ⟨by decide, by decide⟩, rfl⟩,
    ⟨_, _, _, _, ⟨rfl, rfl, by decide⟩, rfl, rfl, ⟨_, rfl⟩, ⟨_, _, rfl, rfl⟩, rfl⟩,
    ⟨_, _, _, _, ⟨rfl, rfl, by decide⟩, rfl, rfl, ⟨_, rfl⟩, ⟨_, _, rfl, rfl⟩, by decide, rfl⟩,
    ⟨_, _, _, _, ⟨rfl, rfl, by decide⟩, rfl⟩⟩

/-- Scratch whose first bytes are given. -/
def scratch (bs : List Byte) (s : State) : State :=
  { s with groups := s.groups.map fun g => { g with win := g.win.set 0 { cells := Cells.write [] 0 bs } } }

/-- A copy descriptor: two rows of 16 bytes, pitches 32 and 16. -/
def rowsT (src dst : Nat) : List Byte := bytesOf src 8 ++ bytesOf dst 8 ++ bytesOf 32 4 ++ bytesOf 16 4 ++ bytesOf 2 2 ++ bytesOf 1 2 ++ bytesOf 0 4

/-- A gather descriptor: two rows of 16 bytes by the index list at 0x100. -/
def gatherT : List Byte := bytesOf 16 8 ++ bytesOf 0x200 8 ++ bytesOf 0x100 4 ++ bytesOf 0 4 ++ bytesOf 2 2 ++ bytesOf 1 2 ++ bytesOf 0 4

/-- Copies, multicast and by descriptor: in, out and gathered. -/
theorem test_meets_DescriptorCopies :
    On (.cpyMc free ⟨1, true, none, false, 0⟩) (sTok 16) (sTok 0x1_0007_FFF0) (sTok last) (fun e => e.ringsPending = false ∧
      e.copyFull = false ∧ Claims.Side 16 ∧ (0x1_0007_FFF0 : Word).extractLsb' 32 16 ≠ 0 ∧ (∃ m, e.s.memberAt e.g 0 = some m ∧
        ((0x1_0007_FFF0 : Word).extractLsb' 16 12).toNat < m.shape.windows) ∧
      ((0x1_0007_FFF0 : Word).extractLsb' 0 16).toNat + 16 ≤ 65536) ∧
    OnS (scratch (rowsT 0 0x100) (atT (.cpy2d free ⟨1, false, none, false, 0⟩) (sTok 0) none none none))
      (.cpy2d free ⟨1, false, none, false, 0⟩) (fun e => e.ringsPending = false ∧ e.copyFull = false ∧ e.loadReady = true ∧
      (∃ x, e.s.saddr e.g false 0 0 32 16 = .ok x) ∧ e.readScr ⟨0, 0, 0⟩ 32 = (rowsT 0 0x100, none) ∧ Claims.Side 0 ∧
      ∃ d, Claims.Dest e false none 0x100 32 32 d) ∧
    OnS (scratch (rowsT 0x100 64) (atT (.cpy2d free ⟨1, false, none, true, 0⟩) (sTok 0) none none none))
      (.cpy2d free ⟨1, false, none, true, 0⟩) (fun e => e.ringsPending = false ∧ e.copyFull = false ∧ e.loadReady = true ∧
      (∃ x, e.s.saddr e.g false 0 0 32 16 = .ok x) ∧ e.readScr ⟨0, 0, 0⟩ 32 = (rowsT 0x100 64, none) ∧
      (∃ a, e.s.saddr e.g false 0x100 0 48 16 = .ok a) ∧ Claims.Side 64) ∧
    OnS (scratch gatherT (atT (.cpyg free ⟨1, false, none, false, 0⟩) (sTok 0) none none none))
      (.cpyg free ⟨1, false, none, false, 0⟩) (fun e => e.ringsPending = false ∧ e.copyFull = false ∧ e.loadReady = true ∧
      (∃ x, e.s.saddr e.g false 0 0 32 16 = .ok x) ∧ e.readScr ⟨0, 0, 0⟩ 32 = (gatherT, none) ∧ Claims.Side 16 ∧
      (∃ a, e.s.saddr e.g false 0x100 0 8 4 = .ok a) ∧ ∃ d, Claims.Dest e false none 0x200 32 32 d) :=
  ⟨⟨_, _, _, _, ⟨rfl, rfl, by decide⟩, rfl, rfl, ⟨by decide, by decide⟩, by decide, ⟨_, rfl, by decide⟩, by decide⟩,
    ⟨_, _, _, _, ⟨rfl, rfl, by decide⟩, rfl, rfl, rfl, ⟨_, rfl⟩, rfl, ⟨by decide, by decide⟩, _, _, rfl, rfl⟩,
    ⟨_, _, _, _, ⟨rfl, rfl, by decide⟩, rfl, rfl, rfl, ⟨_, rfl⟩, rfl, ⟨_, rfl⟩, by decide, by decide⟩,
    ⟨_, _, _, _, ⟨rfl, rfl, by decide⟩, rfl, rfl, rfl, ⟨_, rfl⟩, rfl, ⟨by decide, by decide⟩, ⟨_, rfl⟩, _, _, rfl, rfl⟩⟩

/-- A task record of the context with these words; its counter is word 1's low half. -/
def recT (idx : Nat) (ws : List Word) : TaskRec :=
  ⟨0, idx, ws ++ List.replicate (32 - ws.length) 0, none, [0], [], [], [], 0, 0, 1, 0, none, [], [], 0⟩

/-- The words of a running task of one group whose binding 0 is a scalar output stream to binding 0 of record 1. -/
def producer : List Word := [0, 0x1_0000_0001, 0, 0, 0, 0, 0, 0, 0, 0, 0, 0, 0, 0x0001_0004, 0, 0, 0x800080000, 0x500000000000]

/-- The words of its consumer. -/
def consumer : List Word := [0, 0x1_0000_0001, 0, 0, 0, 0, 0, 0, 0, 0, 0, 0, 0, 0x0001_0004, 0, 0, 0x80000, 0x100000000000]

/-- Records 0 and 1 are there, and record 1 has a group with an empty buffer of four elements. -/
def linked (s : State) : State :=
  { s with
    recs := [recT 0 producer, recT 1 consumer]
    groups := s.groups ++ [{ groupT there none with task := 0x800080000, edges := [⟨0, 0, 8, 4, false, [], false, 0⟩] }] }

/-- A bound memory output of one element, nothing emitted. -/
def outT : Stream := ⟨.mem 0 8 1, false, true, 8, 0, 0, [], false, 0, 0, 0, []⟩

/-- A bound task edge output. -/
def edgeT : Stream := ⟨.edge 0, false, true, 8, 0, 0, [], false, 0, 0, 0, []⟩

/-- Streams: the largest element count, an edge that agrees, a landing area at the window's end; emission, unbinding, status. -/
theorem test_meets_Streams :
    On (.sbind free 1 7 (.mem true true 0)) (sTok 128) (sTok 0xFFFF_FFFF) none (fun e => e.streamPending 7 = false ∧
      e.stream 7 = none ∧ (0xFFFF_FFFF : Word).toNat < 2 ^ 32) ∧
    OnS (linked (atT (.sbind free 1 0 (.edge false 0)) none none none none)) (.sbind free 1 0 (.edge false 0)) (fun e =>
      e.streamPending 0 = false ∧ e.stream 0 = none ∧ ∃ r, e.s.recOf e.g = some r ∧ bMode (r.binding 0).2 = 2 ∧
        bVec (r.binding 0).2 = false ∧ bOut (r.binding 0).2 = true ∧ e.s.edgeAgrees r 0 8 = true) ∧
    On (.sbind free 1 0 (.rein true)) (sTok 0x7FFFF) (sTok 0xFFFF) none (fun e => e.streamPending 0 = false ∧ e.stream 0 = none ∧
      ∃ a, e.s.saddr e.g false 0x7FFFF 0 1 1 = .ok a) ∧
    OnS (bound outT (atT (.semit free .s8 1 0) (sTok 5) none none none)) (.semit free .s8 1 0) (fun e =>
      e.streamPending 0 = false ∧ e.stream 0 = some outT ∧ outT.out = true ∧ outT.moved + e.emitted 0 < 1 ∧
        e.s.translate e.g.ctx 0 .store = .ok 0x100000) ∧
    OnS (linked (bound edgeT (atT (.semit free .s8 1 0) (sTok 5) none none none))) (.semit free .s8 1 0) (fun e =>
      e.streamPending 0 = false ∧ e.stream 0 = some edgeT ∧ e.s.edgeEnd e.g 0 = .room 4 ∧ e.emitted 0 < 4) ∧
    On (.sunbind free 1 7) none none none (fun _ => True) ∧
    OnS (bound outT (atT (.sst free 1 0) none none none none)) (.sst free 1 0) (fun e => e.loadReady = true ∧
      e.g.s.getD 0 none = some outT ∧ outT.out = true) ∧
    On (.sst free 1 7) none none none (fun e => e.loadReady = true ∧ e.g.s.getD 7 none = none) :=
  ⟨⟨_, _, _, _, ⟨rfl, rfl, by decide⟩, rfl, rfl, by decide⟩,
    ⟨_, _, _, _, ⟨rfl, rfl, by decide⟩, rfl, rfl, recT 0 producer, rfl, rfl, rfl, rfl, rfl⟩,
    ⟨_, _, _, _, ⟨rfl, rfl, by decide⟩, rfl, rfl, ⟨0, 7, 0xFFFF⟩, isOk (by decide +kernel)⟩,
    ⟨_, _, _, _, ⟨rfl, rfl, by decide⟩, rfl, rfl, rfl, by decide, rfl⟩,
    ⟨_, _, _, _, ⟨rfl, rfl, by decide⟩, rfl, rfl, rfl, by decide⟩, ⟨_, _, _, _, ⟨rfl, rfl, by decide⟩, trivial⟩,
    ⟨_, _, _, _, ⟨rfl, rfl, by decide⟩, rfl, rfl, rfl⟩, ⟨_, _, _, _, ⟨rfl, rfl, by decide⟩, rfl, rfl⟩⟩

/-- Pages: an allocation of the whole heap and one too large for it; a page already committed; a page of another size; an
unmapped page; the greatest count. -/
theorem test_meets_Pages :
    On (.alloc free 1 .home 16) (sTok 0x10000) none none (fun e => e.s.heapFits 0 [] 0x10000 65536 = [0x40000]) ∧
    On (.alloc free 1 .home 6) (sTok 0x10001) none none (fun e => e.s.heapFits 0 [] 0x10040 64 = []) ∧
    On (.free free 1) (sTok 0) none none (fun _ => True) ∧
    On (.vcommit free 1 .k64) (sTok 0) (sTok 1) none (fun e => Claims.PageRange .k64 e.n ∧
      (∀ va ∈ Claims.pages .k64 e.n, e.s.walkOf 0 va ≠ .malformed) ∧ e.s.leafOf 0 0 .k64 = some 0x1001CA ∧
      reserveRuns 1 [(0, 0x1001CA)] (e.s.freeFrames 0) e.s = some ([⟨0, none⟩], e.s)) ∧
    On (.pin free 1 .m2) (sTok 0) (sTok 1) none (fun e => Claims.PageRange .m2 e.n ∧
      (∀ va ∈ Claims.pages .m2 e.n, e.s.walkOf 0 va ≠ .malformed) ∧ ∃ va ∈ Claims.pages .m2 e.n, e.s.leafOf 0 va .m2 = none) ∧
    On (.vdecommit free 1 .k64) (sTok 0) (sTok 4096) none (fun e => Claims.PageRange .k64 e.n) ∧
    On (.unpin free 1 .g1) (sTok 0x40000000) (sTok 1) none (fun e => Claims.PageRange .g1 e.n) ∧
    On (.vmigrate free 1 true 3 true .k64) (sTok 0) (sTok 1) (sTok last) (fun e => Claims.PageRange .k64 e.n ∧
      ∃ bar, Claims.BarOf e true last bar) ∧
    On (.vquery free 1) (sTok 0xFFFF) none none (fun e => e.loadReady = true ∧ e.s.walkOf 0 0xFFFF = .leaf 0x1001CA ∧
      leafCommitted 0x1001CA = true ∧ paPkg (leafPa 0x1001CA) = e.s.pkgNum) ∧
    On (.vquery free 1) (sTok 0xFF_FFFF_FFFF_FFFF) none none (fun e => e.loadReady = true ∧
      ∀ x, e.s.walkOf 0 0xFF_FFFF_FFFF_FFFF ≠ .leaf x) :=
  ⟨⟨_, _, _, _, ⟨rfl, rfl, by decide⟩, rfl⟩, ⟨_, _, _, _, ⟨rfl, rfl, by decide⟩, rfl⟩,
    ⟨_, _, _, _, ⟨rfl, rfl, by decide⟩, trivial⟩,
    ⟨_, _, _, _, ⟨rfl, rfl, by decide⟩, ⟨by decide, by decide, by decide, by decide⟩, by decide, rfl, rfl⟩,
    ⟨_, _, _, _, ⟨rfl, rfl, by decide⟩, ⟨by decide, by decide, by decide, by decide⟩, by decide, 0, by decide, rfl⟩,
    ⟨_, _, _, _, ⟨rfl, rfl, by decide⟩, ⟨by decide, by decide, by decide, by decide⟩⟩,
    ⟨_, _, _, _, ⟨rfl, rfl, by decide⟩, ⟨by decide, by decide, by decide, by decide⟩⟩,
    ⟨_, _, _, _, ⟨rfl, rfl, by decide⟩, ⟨by decide, by decide, by decide, by decide⟩, _, _, rfl, rfl⟩,
    ⟨_, _, _, _, ⟨rfl, rfl, by decide⟩, rfl, rfl, rfl, rfl⟩,
    ⟨_, _, _, _, ⟨rfl, rfl, by decide⟩, rfl, fun x h => by cases h⟩⟩

/-- SystemRegisters: the first, the last, and a write. -/
theorem test_meets_SystemRegisters : On (.srd free .tile) none none none (fun _ => True) ∧
    On (.srd free .seed) none none none (fun _ => True) ∧ On (.swr free 1 .fptrap) (sTok 0xFF) none none (fun _ => True) :=
  ⟨⟨_, _, _, _, ⟨rfl, rfl, by decide⟩, trivial⟩, ⟨_, _, _, _, ⟨rfl, rfl, by decide⟩, trivial⟩,
    ⟨_, _, _, _, ⟨rfl, rfl, by decide⟩, trivial⟩⟩

/-- Bytes of the mapped page from its start. -/
def poked (at' : Nat) (bs : List Byte) (s : State) : State := { s with mem := Cells.write s.mem (0x100000 + at') bs }

/-- A kernel descriptor: entry at 0x1000, the largest shape. -/
def descT : List Byte := bytesOf 0x1000 8 ++ bytesOf 0x881088 8

/-- A template of one task. -/
def templateT : Template := ⟨5, [List.replicate 32 0], [], 9, []⟩

/-- The probe of a task instruction has been answered. -/
def answered (s : State) : State := { s with groups := s.groups.map fun g => { g with run := g.run.map fun r => { r with
  nodes := r.nodes.map fun n => { n with answered := some 0 } } } }

/-- TasksAndGraphs: a record image with counter 1; a template of one task. -/
theorem test_meets_TasksAndGraphs :
    OnS (answered (scratch (bytesOf 0 8 ++ bytesOf 0x1_0000_0001 8) (poked 0 descT (atT (.tspawn free 1 true 0) (sTok 0) none none none))))
      (.tspawn free 1 true 0) (fun e => e.n.answered = some 0 ∧ e.s.saddr e.g false 0 0 256 64 = .ok ⟨0, 0, 0⟩ ∧ e.loadReady = true ∧
      ∃ bs, e.readScr ⟨0, 0, 0⟩ 256 = (bs, none) ∧ e.s.imageCauses e.handleCause (bytesWords 32 bs) = [] ∧
        (bytesWords 32 bs).getD 2 0 = 0 ∧ ((bytesWords 32 bs).getD 0 0).toNat = 0 ∧
        ∃ ds, e.loadUnits 0 8 = .ok ds ∧ parseDesc (bytesWords 8 ds) = some ⟨0x1000, ⟨8, 8, 16, 8, 8⟩⟩ ∧
        e.s.shapeCauses ⟨8, 8, 16, 8, 8⟩ (bytesWords 32 bs) = [] ∧ ∃ idx, e.s.takeRec 0 0 [] = some idx) ∧
    OnS (answered { atT (.tinst free 1 5) (sTok 0) (sTok 3) none none with ctxs := [{ ctxT with templates := [templateT] }] })
      (.tinst free 1 5) (fun e => e.n.answered = some 0 ∧ ∃ x, e.s.ctx? 0 = some x ∧
        x.templates.find? (fun y => y.id == 5) = some templateT ∧ (∃ a, e.s.takeMembers 0 0 templateT.members [] = some [a]) ∧
        ∃ b, e.s.takeBufs 0 templateT.bufs [] = some b) :=
  ⟨⟨_, _, _, _, ⟨rfl, rfl, by decide⟩, rfl, rfl, rfl, _, rfl, rfl, rfl, rfl, _, rfl, rfl, rfl, _, rfl⟩,
    ⟨_, _, _, _, ⟨rfl, rfl, by decide⟩, rfl, _, rfl, rfl, ⟨_, rfl⟩, _, rfl⟩⟩

/-- Records 0 (of this group) and 1 (of the group there). -/
def twoTasks (s : State) : State :=
  { s with recs := [recT 0 producer, recT 1 consumer], groups := s.groups ++ [{ groupT there none with task := 0x800080000 }] }

/-- The handle of record 1 with another generation: stale. -/
abbrev staleH : Word := 0x800100000

/-- The handle is checked, names this package, and no lower-LSID instruction holds records. -/
abbrev Named (e : Env) (h : Word) : Prop := e.n.answered = some 0 ∧ e.s.tagOf e.g.ctx = 7 ∧ h.extractLsb' 0 19 = 0 ∧
  (h.extractLsb' 54 10).toNat ∈ e.s.pod ∧ (∀ r, e.s.target h = some r → e.s.tagOf r.ctx = 7) ∧
  (h.extractLsb' 54 10).toNat = e.s.pkgNum ∧ ∀ m ∈ e.lower, m.eff.recHolds = []

/-- CountersAndStatus: a counter that covers n exactly, one that does not, a stale handle; a task's status and a stale one. -/
theorem test_meets_CountersAndStatus :
    OnS (answered (twoTasks (atT (.tdec free 1 0) (sTok 0x800080000) none none none))) (.tdec free 1 0) (fun e =>
      Named e 0x800080000 ∧ ∃ t, e.s.target 0x800080000 = some t ∧ 1 + e.s.decHolds 0x800080000 ≤ t.counter) ∧
    OnS (answered (twoTasks (atT (.tdec free 1 1) (sTok 0x800080000) none none none))) (.tdec free 1 1) (fun e =>
      Named e 0x800080000 ∧ ∃ t, e.s.target 0x800080000 = some t ∧ t.counter < 2 + e.s.decHolds 0x800080000) ∧
    OnS (answered (twoTasks (atT (.tdec free 1 0) (sTok staleH) none none none))) (.tdec free 1 0) (fun e =>
      Named e staleH ∧ e.s.target staleH = none) ∧
    OnS (answered (twoTasks (atT (.tstat free 1) (sTok 0x800080000) none none none))) (.tstat free 1) (fun e =>
      Named e 0x800080000 ∧ e.loadReady = true ∧ ∃ t, e.s.target 0x800080000 = some t) ∧
    OnS (answered (twoTasks (atT (.tstat free 1) (sTok staleH) none none none))) (.tstat free 1) (fun e =>
      Named e staleH ∧ e.loadReady = true ∧ e.s.target staleH = none) :=
  ⟨⟨_, _, _, _, ⟨rfl, rfl, by decide⟩, ⟨rfl, rfl, rfl, by decide, (fun _ h => by cases h; rfl), rfl, by decide⟩, _, rfl, by decide⟩,
    ⟨_, _, _, _, ⟨rfl, rfl, by decide⟩, ⟨rfl, rfl, rfl, by decide, (fun _ h => by cases h; rfl), rfl, by decide⟩, _, rfl, by decide⟩,
    ⟨_, _, _, _, ⟨rfl, rfl, by decide⟩, ⟨rfl, rfl, rfl, by decide, (fun _ h => by cases h), rfl, by decide⟩, rfl⟩,
    ⟨_, _, _, _, ⟨rfl, rfl, by decide⟩, ⟨rfl, rfl, rfl, by decide, (fun _ h => by cases h; rfl), rfl, by decide⟩, rfl, _, rfl⟩,
    ⟨_, _, _, _, ⟨rfl, rfl, by decide⟩, ⟨rfl, rfl, rfl, by decide, (fun _ h => by cases h), rfl, by decide⟩, rfl, rfl⟩⟩

/-- A binding that RELAY.PREP takes: one row of 16 bytes to window 7. -/
def bindT : List Byte := bytesOf 0 8 ++ bytesOf 0xF0001000000 8

/-- Relays: a mask of the highest window, accumulator, ring and stream; a preparation of one binding. -/
theorem test_meets_Relays :
    OnS (poked 0 descT (atT (.relaySig free 1) (sTok 0) (sTok 0x80_8080_80FF_FFFF) none none)) (.relaySig free 1) (fun e =>
      e.loadReady = true ∧ (∃ ds, e.loadUnits 0 8 = .ok ds ∧ parseDesc (bytesWords 8 ds) = some ⟨0x1000, ⟨8, 8, 16, 8, 8⟩⟩) ∧
      (0x80_8080_80FF_FFFF : Word).extractLsb' 57 7 = 0 ∧
      (∀ k < 8, (0x80_8080_80FF_FFFF : Word).getLsbD (32 + k) = true → ∀ st, e.stream k ≠ some st) ∧ e.g.place.tile < 40 ∧
      16 - e.g.shape.acc ≤ e.s.accFree 0 0 - e.s.accOverdue e.g.ctx 0 0) ∧
    OnS (scratch bindT (poked 0 descT (atT (.relayPrep free 1 0) (sTok 0) (sTok 0) none none))) (.relayPrep free 1 0) (fun e =>
      e.loadReady = true ∧ (∃ ds, e.loadUnits 0 8 = .ok ds ∧ parseDesc (bytesWords 8 ds) = some ⟨0x1000, ⟨8, 8, 16, 8, 8⟩⟩) ∧
      e.s.saddr e.g false 0 0 16 16 = .ok ⟨0, 0, 0⟩ ∧ e.readScr ⟨0, 0, 0⟩ 16 = (bindT, none) ∧
      prepCauses ⟨8, 8, 16, 8, 8⟩ (pairsOf (bytesWords 2 bindT)) = []) :=
  ⟨⟨_, _, _, _, ⟨rfl, rfl, by decide⟩, rfl, ⟨_, rfl, rfl⟩, rfl, (by
      intro k hk hb st h
      have : ∀ k < 8, (0x80_8080_80FF_FFFF : Word).getLsbD (32 + k) = true → k = 7 := by decide
      cases this k hk hb; cases h), by decide, by decide⟩,
    ⟨_, _, _, _, ⟨rfl, rfl, by decide⟩, rfl, ⟨_, rfl, rfl⟩, rfl, rfl, by decide⟩⟩

/-- The group there is in a phase. -/
def phased (f : Phase) (s : State) : State := { s with groups := s.groups.map fun g => if g.place = there then { g with phase := f } else g }

/-- ResumeAndKill: a parked group, a running one, a rank at the gang's size, a stale handle. -/
theorem test_meets_ResumeAndKill :
    OnS (phased (.parked (.rerun 64) true) (answered (twoTasks (atT (.gkill free 1 0) (sTok 0x800080000) none none none))))
      (.gkill free 1 0) (fun e => Named e 0x800080000 ∧ ∃ t q, e.s.target 0x800080000 = some t ∧ 0 < t.gang ∧
        (∀ x, e.s.ctx? t.ctx = some x → x.st = .live) ∧
        e.s.groups.find? (fun y => y.task == 0x800080000 && y.rank == 0) = some q ∧
        (∀ h ∈ e.s.heldEffects, h.2 = .none) ∧ q.phase = .parked (.rerun 64) true) ∧
    OnS (answered (twoTasks (atT (.gresume free 1 0) (sTok 0x800080000) none none none))) (.gresume free 1 0) (fun e =>
      Named e 0x800080000 ∧ ∃ t q, e.s.target 0x800080000 = some t ∧ 0 < t.gang ∧
        e.s.groups.find? (fun y => y.task == 0x800080000 && y.rank == 0) = some q ∧ q.phase = .running) ∧
    OnS (answered (twoTasks (atT (.gresume free 1 1) (sTok 0x800080000) none none none))) (.gresume free 1 1) (fun e =>
      Named e 0x800080000 ∧ ∃ t, e.s.target 0x800080000 = some t ∧ t.gang ≤ 1) ∧
    OnS (answered (twoTasks (atT (.gresume free 1 1) (sTok staleH) none none none))) (.gresume free 1 1) (fun e =>
      Named e staleH ∧ e.s.target staleH = none) :=
  ⟨⟨_, _, _, _, ⟨rfl, rfl, by decide⟩, ⟨rfl, rfl, rfl, by decide, (fun _ h => by cases h; rfl), rfl, by decide⟩, _, _, rfl, by decide,
      (fun _ h => by cases h; rfl), rfl, by decide, rfl⟩,
    ⟨_, _, _, _, ⟨rfl, rfl, by decide⟩, ⟨rfl, rfl, rfl, by decide, (fun _ h => by cases h; rfl), rfl, by decide⟩, _, _, rfl, by decide,
      rfl, rfl⟩,
    ⟨_, _, _, _, ⟨rfl, rfl, by decide⟩, ⟨rfl, rfl, rfl, by decide, (fun _ h => by cases h; rfl), rfl, by decide⟩, _, rfl, by decide⟩,
    ⟨_, _, _, _, ⟨rfl, rfl, by decide⟩, ⟨rfl, rfl, rfl, by decide, (fun _ h => by cases h), rfl, by decide⟩, rfl⟩⟩

/-- The words of a Rein program with id 12 and parity buffers at 0 and 0x8000, and these instructions. -/
def imageT (ws : List Word) : List Word := [0x100, 0xC000_C000_0000_0000 ||| BitVec.ofNat 64 ws.length, 0x8000, 0] ++ ws

/-- A membership table of two ranks, on CD0 and CD1 of package 0; own rank 0. -/
def tableT : List Word := [2, 0x0400_0000]

/-- The program with id 12 is registered; its landing areas are 64 KiB. -/
def progT (ws : List Word) : Prog := ⟨0, 0, 12, imageT ws, tableT, 0, 1, some 1, none⟩

/-- A live instance 0 of it whose registers and descriptors are given. -/
def instT (g : List Word) (d : List ChunkDesc) : Inst :=
  ⟨0, 0, 0, 12, 0, 0, .live, true, 0, g ++ List.replicate (16 - g.length) 0, d ++ List.replicate (8 - d.length) ⟨0, 0, 0⟩, 0, [], [], [],
    [], [], [], here, 0x80000, ⟨0, 0, 0, 0, 0, 0, 0, 0, 0⟩, [], ⟨0, 0, 0⟩, false, false, false, false, 0, 2⟩

/-- The instance is in turn. -/
def reinT (i : Inst) (ws : List Word) : State :=
  { stateT [groupT here none] with progs := [progT ws], insts := [i], turn := .inst 0 0, keys := 1 }

/-- ReinUnit: an image and table without a defect, and a repeated id; the start of the next number; the abort and status of a
live number. -/
theorem test_meets_ReinUnit :
    OnS (poked 0x200 (wordsBytes (imageT [0xA000_0000_0000_0000] ++ [2, 0x0400_0000])) (atT (.rload free 1 0 0) (sTok 0x200) (sTok 0x228) none none))
      (.rload free 1 0 0) (fun e => e.loadReady = true ∧ e.pendingLower isRein = false ∧ ∃ hb cb tb rb, e.loadUnits 0x200 4 = .ok hb ∧
        reinHeaderBad (bytesWords 4 hb) = false ∧ e.loadUnits 0x220 1 = .ok cb ∧ e.loadUnits 0x228 1 = .ok tb ∧
        tabHeadOk ((bytesWords 1 tb).getD 0 0) = true ∧ e.loadUnits 0x230 1 = .ok rb ∧
        e.rloadCauses 0 0 (bytesWords 4 hb) (bytesWords 1 cb) (bytesWords 1 tb ++ bytesWords 1 rb) = [] ∧
        e.s.loadHeld here (e.s.tagOf e.g.ctx) 12 = false) ∧
    OnS { poked 0x200 (wordsBytes (imageT [0xA000_0000_0000_0000] ++ [2, 0x0400_0000])) (atT (.rload free 1 0 0) (sTok 0x200) (sTok 0x228)
        none none) with progs := [progT []] } (.rload free 1 0 0) (fun e => ∃ hb cb tb rb, e.loadUnits 0x200 4 = .ok hb ∧
        e.loadUnits 0x220 1 = .ok cb ∧ e.loadUnits 0x228 1 = .ok tb ∧ e.loadUnits 0x230 1 = .ok rb ∧
        e.rloadCauses 0 0 (bytesWords 4 hb) (bytesWords 1 cb) (bytesWords 1 tb ++ bytesWords 1 rb) = [0x143]) ∧
    OnS { atT (.rstart free 1 true false false 12) (sTok 0) (sTok 1) (sTok last) none with progs := [progT []] }
      (.rstart free 1 true false false 12) (fun e => e.pendingLower isRein = false ∧ e.s.saddr e.g false 0 0 64 64 = .ok ⟨0, 0, 0⟩ ∧
        (∃ b, e.s.saddr e.g false last 0 16 16 = .ok b) ∧ e.loadReady = true ∧ (∃ bs, e.readScr ⟨0, 0, 0⟩ 64 = (bs, none)) ∧
        e.started 12 = [] ∧ e.s.startHeld e.g 12 = false ∧ (progT []).next = some 1 ∧ e.s.inUse 0 < 32) ∧
    OnS { atT (.rabort free 1 12) (sTok 0) none none none with progs := [progT []], insts := [instT [] []] } (.rabort free 1 12)
      (fun e => e.pendingLower isRein = false ∧ instT [] [] ∈ e.s.insts ∧ (instT [] []).st = .live) ∧
    OnS { atT (.rstat free 1 12) (sTok 0) none none none with progs := [progT []], insts := [instT [] []] } (.rstat free 1 12)
      (fun e => e.loadReady = true ∧ (progT []).next = some 1 ∧
        (e.s.instsOf 0 0 12).find? (fun y => y.n == 0) = some (instT [] [])) :=
  ⟨⟨_, _, _, _, ⟨rfl, rfl, by decide⟩, rfl, rfl, _, _, _, _, rfl, rfl, rfl, rfl, rfl, rfl, by decide, rfl⟩,
    ⟨_, _, _, _, ⟨rfl, rfl, by decide⟩, _, _, _, _, rfl, rfl, rfl, rfl, by decide⟩,
    ⟨_, _, _, _, ⟨rfl, rfl, by decide⟩, rfl, rfl, ⟨_, rfl⟩, rfl, ⟨_, rfl⟩, rfl, rfl, rfl, by decide⟩,
    ⟨_, _, _, _, ⟨rfl, rfl, by decide⟩, rfl, List.mem_singleton.mpr rfl, rfl⟩,
    ⟨_, _, _, _, ⟨rfl, rfl, by decide⟩, rfl, rfl, rfl⟩⟩

/-- The instance runs and its next instruction is there. -/
abbrev Turns (s : State) (i : Inst) (p : Prog) : Prop := Claims.Runs s i p ∧ i.idx + 1 < p.words.length - 4

/-- ReinScalars: also a branch to the first and to the last index of its program. -/
theorem test_meets_ReinScalars : Turns (reinT (instT [] []) [0, 0]) (instT [] []) (progT [0, 0]) ∧
    (0 : Int) = (instT [] []).idx + (0 : BitVec 32).toInt ∧ (1 : Int) = (instT [] []).idx + (1 : BitVec 32).toInt ∧
    1 < (progT [0, 0]).words.length - 4 ∧ 0 < (instT [] []).size := by
  refine ⟨⟨⟨rfl, rfl, rfl, rfl⟩, by decide⟩, rfl, rfl, by decide, by decide⟩

/-- Sixteen unacknowledged chunks. -/
def full (i : Inst) : Inst := { i with out := List.replicate 16 ⟨1, 0, ⟨0, 0, 16⟩, 0, 0, false⟩ }

/-- The last 16 bytes of the mapped page, and of the landing area. -/
def chunkT : List ChunkDesc := [⟨0, 0xFFF0, 16⟩, ⟨1, 0xFEF0, 16⟩]

/-- ReinTransfers: a send with room and one without; a chunk verified and none; a signal and none. -/
theorem test_meets_ReinTransfers :
    (Turns (reinT (instT [0] chunkT) [0, 0]) (instT [0] chunkT) (progT [0, 0]) ∧ (Claims.gr (instT [0] chunkT) 0).toNat < 2 ∧
      Claims.Chunked (progT [0, 0]) ⟨0, 0xFFF0, 16⟩ ∧ Claims.Chunked (progT [0, 0]) ⟨1, 0xFEF0, 16⟩ ∧ (instT [0] chunkT).out.length < 16 ∧
      ∃ x, (reinT (instT [0] chunkT) [0, 0]).readChunk (progT [0, 0]) (instT [0] chunkT) ⟨0, 0xFFF0, 16⟩ = .ok x) ∧
    (Turns (reinT (full (instT [0] chunkT)) [0, 0]) (full (instT [0] chunkT)) (progT [0, 0]) ∧ 16 ≤ (full (instT [0] chunkT)).out.length) ∧
    (let i := { instT [1] [] with verified := [(1, 0, 0xFFF0, 16)], sigs := [(1, 1)] };
      Turns (reinT i [0, 0]) i (progT [0, 0]) ∧ i.verified.find? (fun v => v.1 == 1 && v.2.1 == 0) = some (1, 0, 0xFFF0, 16) ∧
        0 < countOf i.sigs 1) ∧
    (instT [1] []).verified = [] ∧ countOf (instT [1] []).sigs 1 = 0 := by
  refine ⟨⟨⟨⟨rfl, rfl, rfl, rfl⟩, by decide⟩, by decide, ?_, ?_, by decide, _, rfl⟩, ⟨⟨⟨rfl, rfl, rfl, rfl⟩, by decide⟩, by decide⟩,
    ⟨⟨⟨rfl, rfl, rfl, rfl⟩, by decide⟩, rfl, by decide⟩, rfl, rfl⟩
  · exact ⟨by decide, by decide, by decide, by decide, .inl ⟨rfl, by decide⟩⟩
  · exact ⟨by decide, by decide, by decide, by decide, .inr (.inl ⟨rfl, by decide⟩)⟩

/-- Three chunks of 16 bytes in the mapped page. -/
def threeT : List ChunkDesc := [⟨0, 0, 16⟩, ⟨0, 16, 16⟩, ⟨0, 32, 16⟩]

/-- A descriptor of the landing stream with index 0, and a source of two elements. -/
def streamedT : List ChunkDesc := [⟨3, 0, 16⟩, ⟨0, 0, 16⟩]

/-- A bound landing stream of collective 12. -/
def landedT : Stream := ⟨.rein ⟨0, 0, 0⟩ 12 0, false, false, 8, 0, 0, [], false, 0, 0, 0, []⟩

/-- ReinData: a reduction, a copy to memory, a copy to a landing stream, a tag check. -/
theorem test_meets_ReinData :
    (Turns (reinT (instT [] threeT) [0, 0]) (instT [] threeT) (progT [0, 0]) ∧ (∀ d ∈ threeT, Claims.Chunked (progT [0, 0]) d) ∧
      (∃ x, (reinT (instT [] threeT) [0, 0]).readChunk (progT [0, 0]) (instT [] threeT) ⟨0, 16, 16⟩ = .ok x) ∧
      Instr.wf (.reduce 0 1 2 .sum (.f .bf16)) = true ∧
      Claims.Writable (reinT (instT [] threeT) [0, 0]) (progT [0, 0]) (instT [] threeT) ⟨0, 0, 16⟩) ∧
    (let s := { reinT (instT [] streamedT) [0, 0] with groups := [{ groupT here none with s := some landedT :: List.replicate 7 none }] };
      Turns s (instT [] streamedT) (progT [0, 0]) ∧ s.landingStream (instT [] streamedT) 0 = some (here, 0, landedT) ∧
        landedT.buf.length * 8 + 16 ≤ 16384) := by
  refine ⟨⟨⟨⟨rfl, rfl, rfl, rfl⟩, by decide⟩, ?_, ⟨_, rfl⟩, rfl, rfl, _, _, rfl⟩, ⟨⟨rfl, rfl, rfl, rfl⟩, by decide⟩, rfl, by decide⟩
  simp [threeT, Claims.Chunked]

/-- ReinEnds: with and without unacknowledged chunks, at the last index, and a rank at the size. -/
theorem test_meets_ReinEnds :
    (Turns (reinT (instT [2] []) [0, 0]) (instT [2] []) (progT [0, 0]) ∧ (instT [2] []).out = [] ∧
      (instT [2] []).size ≤ (Claims.gr (instT [2] []) 0).toNat) ∧
    (Claims.Runs (reinT (full (instT [] [])) [0]) (full (instT [] [])) (progT [0]) ∧ (full (instT [] [])).out ≠ [] ∧
      (full (instT [] [])).idx + 1 = (progT [0]).words.length - 4) := by
  refine ⟨⟨⟨⟨rfl, rfl, rfl, rfl⟩, by decide⟩, rfl, by decide⟩, ⟨rfl, rfl, rfl, rfl⟩, by decide, rfl⟩

/-! ## Steps of the agents -/

/-- A group that runs a block of these nodes. -/
abbrev runs (ns : List Node) : Group := groupT here (some (runT [7, 9] ns))

/-- A node that has fired. -/
def firedT (i : Instr) (f : Node → Node) : Node := f { nodeT i none none none none with st := .fired, eff := .none }

/-- The words of a block of one unguarded branch to itself with one literal. -/
def blockT : List Word := [0, 0xB044_0000_0000_0000, (encode (.bri free 0)).getD 0, 5]

/-- A fetch that a kernel computation shows. -/
theorem isFetched {α : Type} [DecidableEq α] {x : Fetch α} {a : α}
    (h : (match x with | .ok b => decide (b = a) | .fault _ _ => false | .touch _ => false) = true) : x = .ok a := by
  cases x <;> simp_all

/-- A faulted store under nothing before it. -/
def faultedT : Node := firedT (.st free .n64 false ⟨3, .pkg, 0⟩) fun n => { n with st := .faulted ⟨0x087, 0x90000, .store⟩ }

/-- TileCoreSteps: a misaligned and a decodable block; running ahead; waiting, with and without a failed comparison; a fault; the
grace; a probe. -/
theorem test_meets_TileCoreSteps :
    (let g := { groupT here none with next := 8 }; let s := stateT [g];
      s.group? here = some g ∧ g.phase = .running ∧ g.run = none ∧ s.ctxLive g.ctx = true ∧ g.next.toNat % 16 ≠ 0 ∧ s.ctx? g.ctx ≠ none) ∧
    (let g := groupT here none; let s := poked 0 (wordsBytes blockT) (stateT [g]);
      s.group? here = some g ∧ g.phase = .running ∧ g.run = none ∧ s.ctxLive g.ctx = true ∧ g.next.toNat % 16 = 0 ∧
      s.fetchWords g 0 2 = .ok (blockT.take 2, s) ∧ (headerOf 0 0xB044_0000_0000_0000).kind = 0xB ∧
      (headerOf 0 0xB044_0000_0000_0000).n = 1 ∧ (headerOf 0 0xB044_0000_0000_0000).l = 1 ∧
      s.fetchWords g 16 2 = .ok (blockT.drop 2, s) ∧
      g.decodeBlock (headerOf 0 0xB044_0000_0000_0000) [blockT.getD 2 0] = .ok [.bri free 0]) ∧
    (let g := runs [nodeT (.bri free 0) none none none none]; (stateT [g]).group? here = some g ∧
      ∃ r, g.run = some r ∧ r.relay = false ∧ r.nospec = false ∧ g.ahead = none) ∧
    (let g := { runs [firedT (.bri free 0) fun n => { n with st := .waiting }] with fails := 1 }; (stateT [g]).group? here = some g ∧
      ∃ r, g.run = some r ∧ r.isWaiting = true ∧ g.fails ≠ 0) ∧
    (let g := runs [faultedT]; (stateT [g]).group? here = some g ∧ ∃ r k n f, g.run = some r ∧ r.nodes.any Node.fireable = false ∧
      r.nodes[k]? = some n ∧ n.st = .faulted f ∧ k = 0 ∧ f.cause ∉ [0x140, 0x141, 0x142, 0x143, 0x14A]) ∧
    (let g := { runs [nodeT (.bri free 0) none none none none] with grace := true };
      let s := { stateT [g] with cycle := 256 };
      s.group? here = some g ∧ ∃ r x, g.run = some r ∧ s.ctx? g.ctx = some x ∧ x.cutAt + 256 ≤ s.cycle) ∧
    (let g := runs [nodeT (.tstat free 1) (sTok 0) none none none]; (stateT [g]).group? here = some g ∧
      ∃ r n, g.run = some r ∧ r.nodes[0]? = some n ∧ isProbe n.ins = true ∧ n.ready = true ∧ n.st = .pending) :=
  ⟨by decide, ⟨rfl, rfl, rfl, rfl, rfl, isFetched (by decide +kernel), by decide, by decide, by decide,
      isFetched (by decide +kernel), rfl⟩, ⟨rfl, _, rfl, rfl, rfl, rfl⟩,
    ⟨rfl, _, rfl, rfl, by decide⟩, ⟨rfl, _, 0, _, _, rfl, rfl, rfl, rfl, rfl, by decide⟩, ⟨rfl, _, _, rfl, rfl, by decide⟩,
    ⟨rfl, _, _, rfl, rfl, rfl, rfl, rfl⟩⟩

/-- A block whose only instruction has fired with an exit. -/
abbrev exits (l : List Exit) : Group := runs (l.map fun e => firedT (.bri free 0) fun n => { n with exit := some e })

/-- A group in turn that runs a block of which everything is resolved. -/
abbrev Resolved (g : Group) : Prop := (stateT [g]).group? here = some g ∧ g.phase = .running ∧ (stateT [g]).ctx? g.ctx ≠ none ∧
  g.reports = [] ∧ g.fptrap = 0 ∧ g.run.isSome = true ∧
    ∀ n ∈ (g.run.map BlockRun.nodes).getD [], n.resolved = true ∧ n.dropped = false ∧ n.eff = .none

/-- BlockCompletion: no exit, two, a full and an empty link stack, and each exit with room. -/
theorem test_meets_BlockCompletion :
    (∀ g ∈ [runs [firedT .nop id], exits [.br 0, .ret], { exits [.call 0 16] with link := List.replicate 16 0 }, exits [.ret], exits [.br 64],
        { exits [.call 64 16] with link := List.replicate 15 0 }, { exits [.ret] with link := [64] }], Resolved g) ∧
    (exits [.br 0, .ret]).run.map (fun r => ((List.range r.nodes.length).zip r.nodes).filterMap fun x => x.2.exit.map fun e => (x.1, e)) =
      some [(0, .br 0), (1, .ret)] := by
  decide +kernel

/-- A state of one context and groups. -/
def inCtx (c : Ctx) (gs : List Group) : State := { stateT gs with ctxs := [c] }

/-- The first of a single choice. -/
theorem pick_one {α : Type} (s : State) (a : α) : s.pick [a] = some a := by simp [State.pick, Nat.mod_one]

/-- Frames are taken where there is one choice. -/
theorem takes_one {s : State} {c n f : Nat} {spot : Nat × Nat} (h : drawFrom (s.freeFrames c) n spot = [f]) :
    ∃ x s1, s.takeFrames c n spot = some (x, s1) := by simp [State.takeFrames, h, pick_one]

/-- The same for the place of a move. -/
theorem moves_one {s : State} {c n f : Nat} {ok : Nat → Bool} (h : (frameRuns (s.freeFrames c) n).filter ok = [f]) :
    ∃ x s1, s.takeDest c n ok = some (x, s1) := by simp [State.takeDest, h, pick_one]

/-- No tag. -/
def noTag : Tag := ⟨0, 0, 0, 0, 0, 0, 0, 0, 0⟩

/-- A context whose page service unit has a command at its head, one frame free and the heap page 4 allocated. -/
def paged (op : PageOp) (va : Nat) (left : Option (List Nat)) : State :=
  inCtx { ctxT with frames := [32], pageCmds := [⟨op, va, here, noTag, left⟩], allocs := [(0x40000, 64)] } [groupT here none]

/-- A dirty line of CD1's copy of the mapped frame. -/
def lineT : FLine := ⟨1, 0x2000, List.replicate 128 7, 1, []⟩

/-- MemorySteps: a store at the page's end, a line, a walk, a touch, each page command, an invalidation. -/
theorem test_meets_MemorySteps :
    (let g := { groupT here none with sb := [⟨.phys 0x10FFF8, bytesOf 5 8, 0xFFF8, none⟩] }; let s := stateT [g];
      s.group? here = some g ∧ s.leaseMeets (some here) here.die (s.point here.die 0x10FFF8 false) 0x10FFF8 8 = false) ∧
    (let s := { stateT [] with foreign := [lineT] };
      s.fline? 1 0x2000 = some lineT ∧ s.lineBlocked lineT = false ∧ Memory.wf s.mem = true ∧ s.ctxs.flatMap Ctx.migs = []) ∧
    ((stateT []).translate 0 0xFFFF .load = .ok 0x10FFFF ∧ (stateT []).walkOf 0 0xFFFF = .leaf 0x1001CA) ∧
    (let g := { groupT here none with phase := .touching 0x10000 .store 0 none }; let s := inCtx { ctxT with frames := [32] } [g];
      s.changing 0 0x10000 = false ∧ s.group? here = some g ∧ s.walkOf 0 0x10000 = .leaf 0x3C6 ∧ leafCommitted 0x3C6 = false ∧
        leafTouch 0x3C6 = true ∧ ∃ f s1, s.takeFrames 0 (pgFrames (pgOfCode (leafSize 0x3C6))) (frameSpot (leafPa 0x3C6 / 65536)) = some (f, s1)) ∧
    (∀ va ∈ [0x40000, 0x40040], ∃ q x, (paged .free va none).pageHead 0 = some q ∧ (paged .free va none).ctx? 0 = some x ∧ q.op = .free ∧
      (x.allocs.any fun a => a.1 == q.va) = decide (va = 0x40000) ∧ (paged .free va none).backBlocked none 0 = false) ∧
    (let s := paged (.decommit .k64 1) 0 (some [0]); ∃ q, s.pageHead 0 = some q ∧ q.op = .decommit .k64 1 ∧ q.left = some [0] ∧
      s.leafOf 0 0 .k64 = some 0x1001CA ∧ s.changing 0 0 = false ∧ leafState 0x1001CA = 2 ∧ s.pinned 0 0 .k64 = 0) ∧
    (let s := paged (.migrate .k64 1 false 0 none) 0 (some [0]); ∃ q, s.pageHead 0 = some q ∧ q.left = some [0] ∧
      s.leafOf 0 0 .k64 = some 0x1001CA ∧ paPkg (leafPa 0x1001CA) = s.pkgNum ∧ (∃ f s1, s.takeDest 0 1 (migSpot false 0) = some (f, s1)) ∧
      (s.linesIn (leafPa 0x1001CA / 65536) 1).any s.lineBlocked = false) ∧
    (let i : Inval := ⟨0, 65536, 0x1001CA, none⟩; let s := inCtx { ctxT with invals := [i] } [groupT here none];
      ∃ x, s.ctx? 0 = some x ∧ x.invals.find? (fun i => s.drained 0 i.va i.size) = some i ∧
        (s.linesIn (leafPa i.old / 65536) (i.size / 65536)).any s.lineBlocked = false) := by
  refine ⟨⟨rfl, by decide +kernel⟩, by decide +kernel, by decide +kernel, ⟨by decide, rfl, by decide, by decide, by decide, ?_⟩, ?_,
    ⟨_, rfl, rfl, rfl, by decide +kernel⟩, ⟨_, rfl, rfl, by decide +kernel, by decide +kernel, ?_, by decide +kernel⟩,
    ⟨_, rfl, by decide +kernel, by decide +kernel⟩⟩
  · exact takes_one (f := 32) (by decide +kernel)
  · simp only [List.forall_mem_cons, List.not_mem_nil, false_imp_iff, implies_true, and_true]
    exact ⟨⟨_, _, rfl, rfl, rfl, by decide, by decide⟩, ⟨_, _, rfl, rfl, rfl, by decide, by decide⟩⟩
  · exact moves_one (f := 32) (by decide +kernel)

/-- A group with matrix and copy commands. -/
def engaged (m : List MatCmd) (c : List CpyCmd) : Group := { groupT here none with mq := m, cq := c }

/-- A copy of two rows from the mapped page's end to the last bytes of the last window. -/
def copyT (done : List Nat) (part : List (Nat × List Way)) : CpyCmd :=
  ⟨0, noTag, .glob 0xFFE0, .scr ⟨0, 7, 0xFFE0⟩, 2, 16, 16, 16, [], [], done.length, part, done, none⟩

/-- EngineSteps: a tile whose engine has a command, one whose next slot comes first, and one whose turn comes last. -/
theorem test_meets_EngineSteps_turns :
    (let g := engaged [⟨noTag, .mzero 1, true, [], [], none⟩] []; (stateT [g]).group? here = some g ∧ g ∈ (stateT [g]).groups ∧
      g.mq.head? = some ⟨noTag, .mzero 1, true, [], [], none⟩) ∧
    (∀ op ∈ [MatOp.mzero 1, .mma .bf16 false 8 15 (.scr 0 0) (.scr 7 0xF800) none, .mma .e4m3 true 32 0 (.scr 0 0) (.scr 0 0) none],
      let g := engaged [⟨noTag, op, false, [], [], none⟩] []
      (stateT [g]).group? here = some g ∧ (stateT [g]).engineOn g (g.awaitsMatrix noTag.seq) = true ∧
      noTag.after ≤ g.entered - g.sb.length ∧ g.opndReady (.scr 0 0) = true ∧
      (stateT [g]).group? ⟨0, 0, 1⟩ = none ∧ (stateT [g]).group? ⟨0, 0, 2⟩ = none ∧ (stateT [g]).group? ⟨0, 0, 3⟩ = none ∧
      (ptrAt [⟨0, 1⟩] (here.die * 64 + here.tile) + 3) % 4 = here.slot ∧ (ptrAt [] (here.die * 64 + here.tile) + 0) % 4 = here.slot) ∧
    (let g := engaged [⟨noTag, .mzero 1, false, [], [], none⟩] []; let h := { g with place := ⟨0, 0, 1⟩ }
      let s := { stateT [g, h] with matPtrs := [⟨0, 1⟩] }
      s.group? here = some g ∧ s.group? ⟨0, 0, (ptrAt s.matPtrs 0 + 0) % 4⟩ = some h ∧ s.matrixReady h = true ∧
      (ptrAt s.matPtrs 0 + 3) % 4 = here.slot) := by
  refine ⟨⟨rfl, by simp [stateT], rfl⟩, by decide +kernel, by decide +kernel⟩

/-- EngineSteps: the end of matrix commands, the bytes an MMA reads at both ends of its operands, a stop. -/
theorem test_meets_EngineSteps_matrix :
    (let g := engaged [⟨noTag, .mzero 1, true, [], [], none⟩] []; (stateT [g]).group? here = some g) ∧
    (∀ n ∈ [0, 2047, 2048, 4095, 4096],
      let c : MatCmd := ⟨noTag, .mma .bf16 false 8 15 (.scr 0 0) (.scr 7 0xF800) none, true, List.replicate n (.read 0 false), [], none⟩
      (stateT [engaged [c] []]).group? here = some (engaged [c] []) ∧ Claims.opnd .bf16 false 8 = 2048 ∧ c.ways.length ≤ 2 * 2048 ∧
      ((∃ j < 4096, (c.ways ++ List.replicate (4096 - c.ways.length) Way.left).getD j .left = .left) ↔ n < 4096)) ∧
    (let x : Stop := ⟨0x0C5, 0x087, 0x90000, .engineRead, false⟩; let g := engaged [⟨noTag, .mzero 1, true, [], [], some x⟩] [];
      (stateT [g]).group? here = some g ∧ x.told = false) := by
  refine ⟨by decide +kernel, ?_, rfl, rfl⟩
  have left : ∀ n : Nat, (∃ j < 4096, (List.replicate n (Way.read 0 false) ++ List.replicate (4096 - n) Way.left).getD j .left = .left) ↔ n < 4096 := by
    intro n
    constructor
    · rintro ⟨j, hj, h⟩
      rcases Nat.lt_or_ge j n with k | k
      · simp [List.getD, List.getElem?_append, List.getElem?_replicate, k] at h
      · omega
    · intro h
      exact ⟨n, h, by simp [List.getD, List.getElem?_append, List.getElem?_replicate, Nat.sub_pos_of_lt h]⟩
  simp only [List.forall_mem_cons, List.not_mem_nil, false_imp_iff, implies_true, and_true, List.length_replicate]
  exact ⟨⟨rfl, rfl, by decide, left 0⟩, ⟨rfl, rfl, by decide, left 2047⟩, ⟨rfl, rfl, by decide, left 2048⟩, ⟨rfl, rfl, by decide, left 4095⟩,
    ⟨rfl, rfl, by decide, left 4096⟩⟩

/-- EngineSteps: the first and the last piece of a copy, a piece of which half is written, one whose last byte is still to be
written; an element, whole and half of it. -/
theorem test_meets_EngineSteps_copy :
    (∀ k ∈ [0, 1], ∀ q ∈ [[], [(k, List.replicate 8 (Way.put false))], [(k, List.replicate 15 (.put false) ++ [.read 7 false])]],
      let c := copyT (List.range k) q; let g := engaged [] [c]; let s := stateT [g]; let ws := c.waysAt k ++ List.replicate (16 - (c.waysAt k).length) Way.left
      s.group? here = some g ∧ g.cq.find? (fun c => c.id == 0) = some c ∧ c.tag.after ≤ g.entered - g.sb.length ∧ c.mayDo k = true ∧
      s.engineOn g (g.awaitsCopy c) = true ∧ c.credit = [] ∧ c.piece k = (k, 0, 16) ∧ c.fan = 1 ∧ (c.waysAt k).length ≤ 16 ∧
      (∃ j < 16, (ws.getD j .left).isPut = false) ∧ (ws.getD 15 .left).isPut = false ∧
      s.pieceBlocked g c k 0 16 = false ∧ (∃ bs s1, s.pieceRead g c k 0 16 = .ok (bs, s1) ∧ bs.length = 16) ∧
      (∃ s1, s.pieceWrite g c k 15 0 [(7, false)] [] = .ok s1) ∧
      (({ c with issued := k + 1, part := [], done := k :: c.done } : CpyCmd).first < 2 ↔ k = 0)) ∧
    (∀ b ∈ [0, 0xFFC], ∀ l ∈ [[], List.replicate 4 (Way.read 0 false)], let st := { streamT with src := .mem b 8 2, fetched := 1, part := l }
      let g := { groupT here none with s := some st :: List.replicate 7 none }; let s := stateT [g];
      s.group? here = some g ∧ g.s.getD 0 none = some st ∧ st.out = false ∧ st.fetched < 2 ∧ st.buf.length < 16 ∧
      st.buf.any SElem.isFault = false ∧ s.engineOn g false = true ∧ st.part.length ≤ 8 ∧
      (∃ j < 8, (st.part ++ List.replicate (8 - st.part.length) Way.left).getD j .left = .left) ∧
      ∃ bs s1, s.xread (some 0) 0 (b + 8 + 4) 4 .load = .ok (bs, s1)) := by
  constructor
  · simp only [List.forall_mem_cons, List.not_mem_nil, false_imp_iff, implies_true, and_true]
    exact ⟨⟨⟨rfl, rfl, by decide, by decide +kernel, rfl, rfl, by decide, rfl, by decide, ⟨15, by decide, rfl⟩, rfl, rfl, ⟨_, _, rfl, rfl⟩, ⟨_, rfl⟩, by decide +kernel⟩,
      ⟨rfl, rfl, by decide, by decide +kernel, rfl, rfl, by decide, rfl, by decide, ⟨15, by decide, rfl⟩, rfl, rfl, ⟨_, _, rfl, rfl⟩, ⟨_, rfl⟩, by decide +kernel⟩,
      ⟨rfl, rfl, by decide, by decide +kernel, rfl, rfl, by decide, rfl, by decide, ⟨15, by decide, rfl⟩, rfl, rfl, ⟨_, _, rfl, rfl⟩, ⟨_, rfl⟩, by decide +kernel⟩⟩,
      ⟨rfl, rfl, by decide, by decide +kernel, rfl, rfl, by decide, rfl, by decide, ⟨15, by decide, rfl⟩, rfl, rfl, ⟨_, _, rfl, rfl⟩, ⟨_, rfl⟩, by decide +kernel⟩,
      ⟨rfl, rfl, by decide, by decide +kernel, rfl, rfl, by decide, rfl, by decide, ⟨15, by decide, rfl⟩, rfl, rfl, ⟨_, _, rfl, rfl⟩, ⟨_, rfl⟩, by decide +kernel⟩,
      ⟨rfl, rfl, by decide, by decide +kernel, rfl, rfl, by decide, rfl, by decide, ⟨15, by decide, rfl⟩, rfl, rfl, ⟨_, _, rfl, rfl⟩, ⟨_, rfl⟩, by decide +kernel⟩⟩
  · simp only [List.forall_mem_cons, List.not_mem_nil, false_imp_iff, implies_true, and_true]
    exact ⟨⟨⟨rfl, rfl, rfl, by decide, by decide, rfl, rfl, by decide, ⟨7, by decide, rfl⟩, _, _, rfl⟩,
      ⟨rfl, rfl, rfl, by decide, by decide, rfl, rfl, by decide, ⟨7, by decide, rfl⟩, _, _, rfl⟩⟩,
      ⟨rfl, rfl, rfl, by decide, by decide, rfl, rfl, by decide, ⟨7, by decide, rfl⟩, _, _, rfl⟩,
      ⟨rfl, rfl, rfl, by decide, by decide, rfl, rfl, by decide, ⟨7, by decide, rfl⟩, _, _, rfl⟩⟩

/-- ErrorSteps: the last granule of physical memory, a running group, a tile's L1. -/
theorem test_meets_ErrorSteps : (stateT []).ctxs.flatMap Ctx.migs = [] ∧ (2 ^ 46 - 1) * 64 < 2 ^ 52 ∧ (let g := groupT here none; (stateT [g]).group? here = some g ∧
    g.phase = .running ∧ g.run = none ∧ (stateT [g]).ctx? g.ctx ≠ none) ∧ unitOk 0x40000 = true ∧ (stateT []).hitsOf 0x40000 = [] :=
  ⟨rfl, by decide, ⟨rfl, rfl, rfl, by decide⟩, by decide, rfl⟩

/-! ## Steps of the dispatcher -/

/-- Record 1: one task of a single group in a state, with the kernel descriptor at address 0 and a counter. -/
def taskT (st n : Nat) : TaskRec :=
  recT 1 ([0, BitVec.ofNat 64 (0x1_0000_0000 + n)] ++ List.replicate 11 0 ++ [BitVec.ofNat 64 (0x10000 + st)])

/-- The handle of record 1. -/
abbrev taskH : Word := 0x800080000

/-- The package with these records, the kernel descriptor in memory. -/
def tasked (rs : List TaskRec) : State := { poked 0 descT (inCtx { ctxT with frames := List.range 72 } []) with recs := rs, cycle := 524288 }

/-- DecrementSteps: the last decrement of a created task's counter, one that finds it zero; a message from the pod, one from
outside and a repeated one. -/
theorem test_meets_DecrementSteps :
    (∀ k ∈ [0, 3], ∀ d ∈ [DecGoing.mk 5 taskH 3 none 7 false], let s := { tasked [taskT 0 k] with decs := [d] };
      s.target taskH = some (taskT 0 k) ∧ s.tagOf (taskT 0 k).ctx = 7 ∧ s.rec? 0 1 = some (taskT 0 k) ∧ (taskT 0 k).words.length = 32 ∧
      (taskT 0 k).counter = k ∧ (taskT 0 k).failFlag = false ∧ s.decs.find? (fun d => d.key == 5) = some d ∧
      (s.decs.takeWhile fun x => x.key != 5).any (fun x => x.handle == taskH) = false ∧ s.decsWait taskH = false ∧
      0 ∈ s.pod ∧ s.applied = [] ∧ s.later = [] ∧ ∀ c ∈ s.ctxs, ∀ x ∈ s.ctxs, c = x) ∧ 1 ∉ (tasked []).pod ∧
    0 ∈ (tasked []).pod ∧ 0 ∉ (tasked []).failedPkgs := by
  decide +kernel

/-- Record 1 with a prefetch of one row of 16 bytes to window 0, as the words of its flags say. -/
def fetchingT (st : Nat) (flags : Word) : TaskRec :=
  recT 1 ([0, 0x1_0000_0000] ++ List.replicate 11 0 ++ [BitVec.ofNat 64 (0x10000 + st), 0, 0, 0, 0x800_0000_0000 ||| flags])

/-- A record as it is runnable: its staging windows are there. -/
def runnableT : TaskRec := { taskT 3 0 with staging := [List.replicate 8 {}] }

/-- PlacementAndBinding: a ready task without and with a prefetch, a task runnable for 4A, a prefetch that waits and one that lands,
a runnable task, a running one whose group has retired. -/
theorem test_meets_PlacementAndBinding :
    (∀ r ∈ [taskT 1 0, fetchingT 1 0, taskT 3 0], let s := tasked [r];
      s.rec? 0 1 = some r ∧ r.words.length = 32 ∧ s.ctxLive r.ctx = true ∧ s.backBlocked none r.die = false ∧ [0].length = r.gang ∧
      rising [0] = true ∧ (s.setRec 0 1 TaskRec.unplaced).tileTakes 0 ⟨8, 8, 16, 8, 8⟩ 0 = true ∧ r.runAt + 524288 ≤ s.cycle ∧
      s.cycle < r.readyAt + 1048576) ∧
    (∀ r ∈ [taskT 1 0, fetchingT 1 0, taskT 3 0, runnableT], (tasked [r]).readDesc 0 0 0 = .ok (⟨0x1000, ⟨8, 8, 16, 8, 8⟩⟩, tasked [r])) ∧
    (let r := fetchingT 2 0x2000_0000_0000; (tasked [r]).rec? 0 1 = some r ∧ r.state = 2 ∧ bMulticast (r.binding 0).2 = true ∧
      0 ∉ r.waitMc ∧ r.runAt + 512 ≤ (tasked [r]).cycle) ∧
    (let r := fetchingT 2 0; let s := tasked [r]; s.rec? 0 1 = some r ∧ r.state = 2 ∧ 0 ∈ r.prefetches ∧ 0 ∉ r.landed ∧
      bMulticast (r.binding 0).2 = false ∧ ∃ bs s1, s.readRows r.die r.ctx (r.binding 0) (bRows (r.binding 0).2) = .ok (bs, s1)) ∧
    (let r := runnableT; let s := tasked [r]; s.rec? 0 1 = some r ∧ r.state = 3 ∧ rising r.tiles = true ∧ [3].length = r.tiles.length ∧
      s.framesFor r = true ∧ (∀ x ∈ r.tiles.zip [3], s.slotTakes r ⟨8, 8, 16, 8, 8⟩ x.1 x.2 = true) ∧ r.tiles ≠ [] ∧ s.outranked r = false ∧ r.outputs = [] ∧ ∀ ws ∈ r.staging, ws.length = 8) ∧
    (let r := { taskT 4 0 with groupsLeft := 0 }; let s := tasked [r]; s.rec? 0 1 = some r ∧ r.state = 4 ∧
      s.backBlocked none 0 = false ∧ r.anyKilled = none ∧ r.isMember = false ∧ r.succs = [] ∧ r.w 2 = 0 ∧ r.w 3 = 0) := by
  refine ⟨by decide +kernel, ?_, by decide +kernel, ⟨rfl, by decide, by decide, by decide, by decide, _, _, rfl⟩, by decide +kernel, by decide +kernel⟩
  simp only [List.forall_mem_cons, List.not_mem_nil, false_imp_iff, implies_true, and_true]
  exact ⟨isOk (by decide +kernel), isOk (by decide +kernel), isOk (by decide +kernel), isOk (by decide +kernel)⟩

/-- A context with a trap queue of 16 records at 0x8000 and one held. -/
def trappedT : Ctx := { ctxT with tqBase := 0x8000, held := [⟨List.replicate 8 1, none, false⟩], spell := true, handlerDesc := 0x100 }

/-- A relay hold that keeps every general register. -/
def holdT (mask : Word) : Group := { groupT here none with phase := .relayHold mask ⟨0x1000, ⟨8, 8, 16, 8, 8⟩⟩ 0 }

/-- TrapQueueAndHold: a record for a queue with room; a record written and no handler; a limit reached; a hold that keeps some. -/
theorem test_meets_TrapQueueAndHold :
    (let s := inCtx trappedT []; s.ctx? 0 = some trappedT ∧ trappedT.serves = true ∧ ∃ head s1 s2, s.trapHead trappedT = .ok (head, s1) ∧
      (trappedT.tail + 2 ^ 64 - head) % 2 ^ 64 < 2 ^ trappedT.tqS ∧ s1.putRecord trappedT (List.replicate 8 1) = .ok s2 ∧
      s2.ctx? 0 = some trappedT) ∧
    (let x := { ctxT with tqBase := 0x8000, tail := 1, handlerRec := some 1, handlerDesc := 0x100 }; let s := poked 0x100 descT (inCtx x []);
      s.ctx? 0 = some x ∧ x.st = .live ∧ x.handlerLive = false ∧ x.tail ≠ 0 ∧ x.tail ≠ x.tried ∧ s.trapHead x = .ok (0, s) ∧
      s.readDesc 0 0 0x100 = .ok (⟨0x1000, ⟨8, 8, 16, 8, 8⟩⟩, s) ∧ s.dieHolds 0 ⟨8, 8, 16, 8, 8⟩ = true) ∧
    (let x := { ctxT with stall := 1, mapBase := 0x8000, mapSize := 64, watch := 4000 }; let s := inCtx x [runs [faultedT]];
      s.ctx? 0 = some x ∧ x.stall ≠ 0 ∧ x.stall * 4000 ≤ x.watch ∧ s.workRemains 0 = true ∧ s.timerRuns x = true ∧ s.mapBlocked x = false ∧
      (s.writeMap x).1.ctx? 0 ≠ none ∧ ∀ g ∈ (s.writeMap x).1.groups, g.phase = .running) ∧
    (let g := holdT 5; (stateT [g]).group? here = some g ∧ (stateT [g]).holdMet g 5 = true ∧ g.s = List.replicate 8 none ∧ g.x.length = 32) := by
  refine ⟨⟨rfl, rfl, _, _, _, rfl, by decide +kernel, rfl, rfl⟩, ⟨rfl, rfl, rfl, by decide, by decide, isOk (by decide +kernel), isOk (by decide +kernel), by decide +kernel⟩,
    ⟨rfl, by decide, by decide, by decide, by decide, by decide +kernel, by decide +kernel,
      by decide +kernel⟩, by decide +kernel⟩

/-! ## Steps of the rein engines -/

/-- A chunk of rank 1 of a package for instance 0 of these bytes, with its tag. -/
def chunkOf (pkg off : Nat) (bs : List Byte) : Chunk :=
  ⟨7, 12, 0, 1, 0, off, bs, [], crc32c (([12, 0, 1, 0, off, bs.length].flatMap fun v => bytesOf v 4) ++ bs), pkg, 0, 0⟩

/-- A chunk at the end of its landing area. -/
def chunkIn : Chunk := chunkOf 0 0xFDF0 (List.replicate 16 9)

/-- An instance with one SEND to rank 1 outstanding, refused, and its chunk's name. -/
def sentT (tries : Nat) : Inst := { instT [] [] with out := [⟨1, 0, ⟨0, 0, 16⟩, 0, tries, true⟩] }

/-- Its chunk's name. -/
def sentName : ChunkName := ⟨0, 7, 12, 0, 1, 0, false, 0⟩

/-- ReinSteps: an instance not begun; chunks from outside the pod, too short, too far, before the first start and of a live
instance; the landing of the last. -/
theorem test_meets_ReinSteps_chunks :
    (let i := { instT [] [] with began := false }; let s := reinT i [0]; s.insts.find? (fun y => y.key == i.key) = some i ∧
      s.prog? i.die i.ctx i.id = some (progT [0]) ∧ i.st = .live ∧ i.doomed = false ∧ ((progT [0]).words.getD 1 0).getLsbD 56 = false) ∧
    (let s := reinT (instT [] []) [0]; s.jobProg 0 7 12 = some (progT [0]) ∧ 1 ≠ s.pkgNum ∧ 1 ∉ s.pod ∧ 1 ∉ s.failedPkgs ∧
      (0 = s.pkgNum ∧ 0 ∉ s.failedPkgs) ∧ (chunkOf 0 0 (List.replicate 15 9)).bytes.length = 15 ∧ chunkIn.bytes.length = 16 ∧
      (progT [0]).p = 1 ∧ 0xFDF0 + 16 ≤ 1 * 65536 ∧ 1 * 65536 < 0xFDF1 + 0x210 ∧ (progT [0]).next = some 1 ∧ (1 + 65536 - 1 - 0) % 65536 < 2 ∧
      (s.instsOf 0 0 12).find? (fun y => y.n == 0) = some (instT [] []) ∧ (instT [] []).verified = []) ∧
    (let s := { reinT (instT [] []) [0] with progs := [{ progT [0] with next := none }] }; s.jobProg 0 7 12 = some { progT [0] with next := none }) ∧
    (let l : Landing := ⟨3, 0, 0, chunkIn⟩; let i := { instT [] [] with credit := false }; let s := { reinT i [0] with landings := [l] };
      s.landings.find? (fun y => y.die == 0 && y.key == 3) = some l ∧ l.inst = i.key ∧
      s.areaBlocked 0 0 ((progT [0]).area 0 true + 0xFDF0) 16 = false ∧
      (let y := s.landBytes 0 0 ((progT [0]).area 0 true + 0xFDF0) (chunkXBytes chunkIn); y.2 = none ∧ y.1.insts = s.insts)) := by
  refine ⟨by decide +kernel, by decide +kernel, by decide +kernel, by decide +kernel⟩

/-- A signal of rank 1 to the instance, from a package. -/
def sigIn (pkg n : Nat) : SignalMsg := ⟨0, 7, 12, n, 1, 4, pkg, 0, 0⟩

/-- An outstanding SEND at its sixteenth failure, and refused; an outstanding signal; signals from outside the pod, accepted, counted
before and refused. -/
theorem test_meets_ReinSteps_answers :
    (let s := reinT (sentT 15) [0]; s.sender sentName = some (sentT 15) ∧ sentName.pkg ∉ s.failedPkgs ∧
      ∃ o, (sentT 15).outOf sentName = some o ∧ 15 ≤ o.tries ∧ o.refused = true ∧
      ∃ xs s1, (s.setInst 0 fun i => i.setOut sentName fun o => { o with refused := false }).readChunk (progT [0]) (sentT 15) o.src = .ok (xs, s1)) ∧
    (let x : SigOut := ⟨sigIn 0 0, 0, 0, true⟩; let nm := signalName x.m x.pkg; let s := { reinT (instT [] []) [0] with signals := [x] };
      nm.sig = true ∧ nm.pkg ∉ s.failedPkgs ∧ s.signals.find? (fun y => signalName y.m y.pkg == nm) = some x) ∧
    (let s := reinT (instT [] []) [0]; s.meets 0 7 12 0 = .accepted (progT [0]) (instT [] []) ∧ s.meets 0 7 12 1 = .refused ∧
      (sigIn 1 0).pkg ∉ s.pod ∧ (1, 4) ∉ (instT [] []).sigSeen ∧ countOf (instT [] []).sigs 1 < 65535) ∧
    (let i := { instT [] [] with sigSeen := [(1, 4)] }; (reinT i [0]).meets 0 7 12 0 = .accepted (progT [0]) i) :=
  ⟨⟨rfl, by decide, _, rfl, by decide, rfl, _, _, rfl⟩, ⟨rfl, by decide, by decide⟩, ⟨rfl, rfl, by decide, by decide, by decide⟩, rfl⟩

/-- An abort of a collective that is not loaded, of a live instance and of one whose staging copy is still to be made. -/
theorem test_meets_ReinSteps_aborts :
    (reinT (instT [] []) [0]).jobProg 0 7 13 = none ∧ (reinT (instT [] []) [0]).jobProg 0 7 12 = some (progT [0]) ∧
    ((reinT (instT [] []) [0]).instsOf 0 0 12).find? (fun y => y.n == 0) = some (instT [] []) ∧
    (let p := { progT [0] with words := (progT [0]).words.map fun w => w ||| 0x100_0000_0000_0000 }; let i := { instT [] [] with began := false };
      let s := { reinT i [0] with progs := [p] }; s.jobProg 0 7 12 = some p ∧ (p.words.getD 1 0).getLsbD 56 = true ∧
      (s.instsOf 0 0 12).find? (fun y => y.n == 0) = some i ∧ s.insts.find? (fun y => y.key == i.key) = some i ∧ s.prog? 0 0 12 = some p) := by
  decide +kernel

/-! ## Cuts, and commands of the host -/

/-- A context in a state of its life, with a save area of 512 MiB. -/
def livingT (st : CtxSt) (gs : List Group) : Ctx :=
  { ctxT with st := st, saveBase := 0x8000000000, saveSize := 0x20000000, savedGroups := gs, podPkgs := [0], frames := List.range 72 }

/-- PreemptionSteps: a settled cut with a group, an area whose header is its context's and a saved group, a drained pod switch, a
context to tear down. -/
theorem test_meets_PreemptionSteps :
    (let x := livingT .cutting []; let s := inCtx x [groupT here none]; s.ctx? 0 = some x ∧ x.slot = 0 ∧ s.cutSettled 0 = true ∧
      x.waits = [] ∧ s.insts = [] ∧ x.asked = false ∧ savedSize (s.ctxGroups 0) ≤ x.saveSize ∧ ∀ g ∈ s.groups, g.phase = .running) ∧
    (let x := livingT .resuming [groupT here none]; let s := { inCtx x [] with mem := [(0x8000000000, 1), (0x8000000002, 1), (0x8000000004, 0x40)] };
      s.ctx? 0 = some x ∧ s.imageOk x = true ∧ s.remap.restoreFits x = true ∧ x.asked = false ∧ (∀ g ∈ x.savedGroups, g.ctx = 0) ∧
      (x.savedGroups.map Group.place).Nodup) ∧
    (let x := livingT .draining []; let s := inCtx x [groupT here none]; s.ctx? 0 = some x ∧ s.cutSettled 0 = true ∧
      ([] : List Int).length + 1 = x.podPkgs.length ∧ s.inUse 0 < 32 ∧ (x.sent : Int) - x.applied + ([] : List Int).sum = 0) ∧
    (let x := livingT .saved []; let s := inCtx x []; (s.tearDown 0 none).isSome = true ∧ 0 < s.gens.length ∧ x.gen = s.gens.getD 0 0) := by
  refine ⟨by decide +kernel, ⟨rfl, by decide +kernel, by decide +kernel, rfl, by decide +kernel, by simp [livingT]⟩, by decide +kernel, by decide +kernel⟩

/-- A message of a queue with number 1 and its payload. -/
def sends (op n : Nat) (ws : List Word) : BridleMsg :=
  ⟨BitVec.ofNat 64 (2 + op * 2 ^ 16 + n * 2 ^ 32 + ws.length * 2 ^ 48), 1, 0x10000, 0, ws, 5, 6⟩

/-- A queue that expects number 2, with one let go on. -/
def queueT (n : Nat) (go : Option Nat) (next : Nat) : Queue :=
  ⟨n, if n = 0 then none else some 0, next, [(0, [9])], none, 0, [], [], go, none, []⟩

/-- A session is open and queue n has let its command 1 go on, which a step of the device's own takes up. -/
def openT (n : Nat) (s : State) : State := { s with session := some 2, queues := [queueT n (some 1) 2], turn := .own }

/-- The state as the command begins. -/
def begun (m : BridleMsg) (n : Nat) (s : State) : State := State.beginCmd { openT n s with pstate := .p0 } m

/-- The command begins and more holds. -/
abbrev Starts (op n : Nat) (ws : List Word) (s : State) (H : State → Prop) : Prop :=
  Claims.Begins (openT n s) (sends op n ws) op (begun (sends op n ws) n s) ∧ H (begun (sends op n ws) n s)

/-- BridleSequencing: a number below, one above and the next; an unassigned opcode; Hello at both ends of its range, of version 1, where none is common, and with a reserved bit; a gated command. -/
theorem test_meets_BridleSequencing :
    (0x0C, Instr.status (sends 0x0C 1 [])) ∈ Claims.carried (sends 0x0C 1 []) ∧
    ((sends 0x0C 1 []).h0.extractLsb' 16 8).toNat = 0x0C ∧ (sends 0x0C 1 []).h0.getLsbD 24 = false ∧
    (∀ next, ({ stateT [] with queues := [queueT 1 none next] } : State).queue? 1 = some (queueT 1 none next) ∧
      (queueT 1 none next).next = next ∧ (queueT 1 none next).go = none ∧ (queueT 1 none next).waiting = [] ∧
      (queueT 1 none next).doing = none) ∧ ({ queueT 1 none 2 with stored := [(1, [9])] }).stored.find? (fun x => x.1 == 1) = some (1, [9]) ∧
    ((openT 1 (stateT [])).session = some 2 ∧ (openT 1 (stateT [])).turn = .own ∧ (queueT 1 (some 1) 2).go = some 1 ∧ (stateT []).turn ≠ .own) ∧
    (∀ k ∈ [(0x0002_0001, 2, true), (0xFFFF_0002, 2, true), (0x0001_0001, 1, true), (0x0001_0000, 1, true), (0xFFFF_0003, 2, false), (0, 0, false)],
      let w0 : Word := BitVec.ofNat 64 k.1; let m := sends 1 0 [w0, 15]; headerOk m = true ∧ m.h0.getLsbD 24 = false ∧
      w0.extractLsb' 32 32 = 0 ∧ min 2 (w0.extractLsb' 16 16).toNat = k.2.1 ∧
      ((w0.extractLsb' 0 16).toNat ≤ k.2.1 ∧ 1 ≤ k.2.1 ↔ k.2.2 = true)) ∧
    (let m := sends 1 0 [0x1_0002_0001, 15]; headerOk m = true ∧ (0x1_0002_0001 : Word).extractLsb' 32 32 ≠ 0) ∧
    (let m := { sends 0x0C 2 [] with h0 := (sends 0x0C 2 []).h0 ||| 0x100_0000 }; let q := { queueT 2 none 2 with waiting := [.status m] };
      let s := { stateT [] with queues := [q], links := [⟨1, 2, 1⟩] }; msgOf (.status m) = some m ∧ m.h0.getLsbD 24 = true ∧ s.queue? 2 = some q ∧
      s.linkOf 2 = some ⟨1, 2, 1⟩) := by
  refine ⟨by simp [Claims.carried], by decide, by decide, fun next => ⟨rfl, rfl, rfl, rfl, rfl⟩, by decide, by decide, by decide, by decide,
    rfl, by decide, rfl, by decide⟩

/-- A Create payload for slot 1: queues 3 and 4, no heap, a save area. -/
def createT : List Word := [0x9_0403_0101, 0, 0, 0, 0x40, 6, 0, 0, 0, 64, 0x8000000000, 0x10000, 16, 0x400, 0, 0]

/-- A template image of one member and no buffer. -/
def imageOfT : List Word := [1, 0, 0, 0, 0, 0, 0, 0] ++ [0, 0x1_0000_0001] ++ List.replicate 30 0

/-- ContextCommands: each where nothing refuses it. -/
theorem test_meets_ContextCommands :
    Starts 0x02 0 createT (stateT []) (fun s => s.ctx? 1 = none ∧ createBad (fun i => createT.getD i 0) = false ∧
      s.saveOk 0x8000000000 0x10000 = true ∧ s.queueTaken 3 4 = false) ∧
    Starts 0x03 0 [] (stateT []) (fun s => (s.tearDown 0 none).isSome = true) ∧
    Starts 0x04 0 [] (stateT []) (fun s => s.ctx? 0 = some ctxT ∧ ctxT.st = .live) ∧
    Starts 0x05 0 [] (inCtx (livingT .saved []) []) (fun s => s.ctx? 0 = some (livingT .saved [])) ∧
    Starts 0x06 0 (List.replicate 17 1) (stateT []) (fun s => s.ctx? 0 = some ctxT) ∧
    Starts 0x0E 1 [0x50000, 0x210000, 1, 0x32] (stateT []) (fun s => s.mapBad ctxT 0x50000 0x210000 1 0x32 false = false ∧
      ctxT.pagesIn 0x50000 0x60000 = [] ∧ s.leafOf 0 0x50000 .k64 = none ∧ ctxT.invals = []) ∧
    Starts 0x07 1 [4095, 0x100] (poked 0x100 (wordsBytes imageOfT) (stateT [])) (fun s => (s.hostRead 0 0x100 8).bad = none ∧
      ofBytes (s.hostRead 0 0x100 8).bytes = 1 ∧ ((s.hostRead 0 0x100 8).st.hostRead 0 0x100 320).bad = none ∧
      (let r := (s.hostRead 0 0x100 8).st.hostRead 0 0x100 320; (r.st.parseTemplate 4095 (bytesWords 40 r.bytes)).isSome = true)) ∧
    Starts 0x09 1 [taskH, 0xFFFF] (tasked [taskT 0 3]) (fun s => (taskH : Word).extractLsb' 0 19 = 0 ∧
      ((taskH : Word).extractLsb' 54 10).toNat = s.pkgNum ∧ s.pkgNum ∈ s.pod ∧ s.decsWait taskH = false) ∧
    Starts 0x12 1 ([taskH, 0, 0, 0x1_0000_0001] ++ List.replicate 30 0) (tasked []) (fun s =>
      (s.takeNamed 0 1 0).isSome = true) := by
  refine ⟨?_, ?_, ?_, ?_, ?_, ?_, ?_, ?_, ?_⟩ <;> exact ⟨⟨⟨by decide, _, rfl, rfl⟩, rfl, rfl, by decide +kernel⟩, by decide +kernel⟩

/-- A Launch that is planned, and an image that a Create task accepts. -/
theorem test_meets_Launch :
    (let s := begun (sends 0x08 1 [5, 0, 0]) 1 (inCtx { ctxT with templates := [templateT] } []);
      Starts 0x08 1 [5, 0, 0] (inCtx { ctxT with templates := [templateT] } []) (fun _ => True) ∧
      ∃ p, s.planInst 0 (s.genOf 0) 0 5 0 0 (s.handleCause (s.tagOf 0)) = .ok p) ∧
    (let ws : List Word := [0, 0x1_0000_0001] ++ List.replicate 30 0; let s := begun (sends 0x12 1 ([taskH, 0] ++ ws)) 1 (tasked []);
      ∃ s1, s.hostImage 0 0 ws = .ok s1) := by
  refine ⟨⟨⟨⟨⟨by decide, _, rfl, rfl⟩, rfl, rfl, by decide +kernel⟩, trivial⟩, ?_⟩, _, rfl⟩
  exact ⟨_, rfl⟩

/-- A region of context 0 over its mapped page, and a queue pair. -/
def regionT : Region := ⟨77, 0, 0, 0x10000, true, true⟩

/-- A queue pair of context 0. -/
def qpT : Qp := ⟨9, 0, 1, 0, 0, 0, 5, 0, 0⟩

/-- DeviceCommands: each where nothing refuses it, at the ends of the ranges. -/
theorem test_meets_DeviceCommands :
    Starts 0x0A 1 ([0xFC00, 1024] ++ List.replicate 128 7) (stateT []) (fun s => s.xblocked none none 0 0xFC00 1024 .store = false ∧
      (s.hostWrite 0 0xFC00 (List.replicate 1024 0)).2 = none) ∧
    Starts 0x0B 1 [0xFFFF, 1] (stateT []) (fun s => (s.hostRead 0 0xFFFF 1).bad = none ∧ (s.hostRead 0 0xFFFF 1).bytes.length = 1) ∧
    Starts 0x0C 1 [] (stateT []) (fun s => s.ctx? 0 = some ctxT) ∧
    Starts 0x0D 1 [0xFFFF_0101] (stateT []) (fun s => s.linkOf 1 = none ∧ ∃ q ∈ s.queues, q.num = 1 ∧ q.ctx = some 0) ∧
    Starts 0x0F 0 [2000] (stateT []) (fun _ => True) ∧
    Starts 0x10 0 ([0, 1024] ++ List.replicate 128 7) { stateT [] with ctxs := [] } (fun s => s.ctxs = [] ∧ s.fwNext = 0) ∧
    Starts 0x11 0 [1, 2, 3, 4, 0] (stateT []) (fun _ => True) ∧
    Starts 0x11 0 [1, 2, 3, 4, 1] (stateT []) (fun _ => True) ∧
    Starts 0x13 0 [0x40000] (stateT []) (fun _ => unitOk 0x40000 = true) ∧
    Starts 0x14 0 ([1023] ++ List.replicate 15 0 ++ [0x8000_0000_0000_0000]) { stateT [] with ctxs := [] } (fun s => s.ctxs = [] ∧
      1023 ∈ (List.range 1024).filter fun k =>
        (([1023] ++ List.replicate 15 0 ++ [0x8000_0000_0000_0000] : List Word).getD (k / 64 + 1) 0).getLsbD (k % 64)) ∧
    Starts 0x15 1 [0, 0x100_0000_0000, 3] (stateT []) (fun s => s.regions.length < 4096) ∧
    Starts 0x16 1 [77] { stateT [] with regions := [regionT] } (fun s => regionT ∈ s.regions ∧ regionT.ctx = 0) ∧
    Starts 0x17 1 [0, 0, 0, 0x500_0000] (stateT []) (fun s => s.qps.length < 256 ∧ ((0x500_0000 : Word).extractLsb' 24 3).toNat = 5) := by
  refine ⟨?_, ?_, ?_, ?_, ?_, ?_, ?_, ?_, ?_, ?_, ?_, ?_, ?_⟩ <;> exact ⟨⟨⟨by decide, _, rfl, rfl⟩, rfl, rfl, by decide +kernel⟩, by decide +kernel⟩

/-- DeviceSteps: RoCEv2 accesses at the end of their region and past it; UALink accesses of 16 and 256 bytes; an idle device. -/
theorem test_meets_DeviceSteps :
    (let s := { stateT [] with regions := [regionT], qps := [qpT] }; s.qps.find? (fun y => y.num == 9) = some qpT ∧
      s.rdmaOk qpT 77 0xFFF0 16 true = true ∧ s.rdmaOk qpT 77 0xFFF0 16 false = true ∧ s.rdmaOk qpT 77 0xFFF1 16 false = false ∧
      s.rdmaOk qpT 77 0xFFF1 16 true = false ∧
      ({ s with pstate := .p0 } : State).xblocked none none 0 0xFFF0 16 .store = false ∧
      (({ s with pstate := .p0 } : State).hostWrite 0 0xFFF0 (List.replicate 16 3)).2 = none ∧
      (({ s with pstate := .p0 } : State).hostRead 0 0xFFF0 16).bad = none) ∧
    (0 ∈ (stateT []).pod ∧ (stateT []).remoteOk 0x100000 256 = true ∧ (stateT []).remoteOk 0x100000 8 = true ∧ (stateT []).poison = [] ∧
      (∀ k < 256, (stateT []).leaseHit none none (0x100000 + k) 1 = false) ∧ 0 ∉ (stateT []).failedPkgs) ∧
    ((stateT []).groups = [] ∧ (stateT []).insts = [] ∧ (stateT []).queues.all (fun q => q.waiting.isEmpty && q.go.isNone && q.doing.isNone) = true) := by
  decide +kernel

/-! ## Frames, traps, steps and encodings -/

/-- FiringFrame: an instruction of a block answers a next state. -/
theorem test_meets_FiringFrame : ∃ t, (Instr.add free .s64 (.p true)).isTile = true ∧
    exec (.add free .s64 (.p true)) (atT (.add free .s64 (.p true)) (sTok 1) (sTok 2) none none) = .next t :=
  ⟨_, rfl, rfl⟩

/-- Writes of x1, v31, p7 and k0, an SWR, and a branch. -/
def writesT : List Node :=
  [firedT (.nop) fun n => { n with wr := some ⟨.x 1, .s 5⟩ }, firedT (.nop) fun n => { n with wr := some ⟨.v 31, .v (laneAll (some 6))⟩ },
    firedT (.nop) fun n => { n with wr := some ⟨.p 7, .p (laneAll (some true))⟩ },
    firedT (.nop) fun n => { n with wr := some ⟨.k 0, .k (laneAll none)⟩ },
    firedT (.swr free 31 .fpflags) fun n => { n with eff := .swr .fpflags 0x11, fl := { nv := false, dz := true, of := false, uf := false, nx := false } },
    firedT (.bri free 0) fun n => { n with exit := some (.br 64) }]

/-- CommitRegisters: a block that commits writes of every kind. -/
theorem test_meets_CommitRegisters : let g := runs writesT; let s := stateT [g]; s.group? here = some g ∧ g.phase = .running ∧
    (match exec (.blockComplete here) s with
      | .next t => match t.group? here with
        | some g' => decide (g'.count = g.count + 1) && decide (g'.x.getD 1 0 = 5) && decide (laneGet (g'.v.getD 31 (laneAll 0)) 7 = 6) &&
          laneGet (g'.p.getD 7 (laneAll false)) 0 && decide (g'.fpflags = 0x13)
        | none => false
      | _ => false) = true ∧
    (∀ n ∈ writesT, n.st = .fired ∧ (n.lsid < 32 ∨ n.eff = .none)) ∧ 1 < g.x.length ∧ 31 < g.v.length ∧ 7 < g.p.length ∧ 0 < g.k.length := by
  refine ⟨rfl, rfl, by decide +kernel, by decide +kernel, by decide, by decide, by decide, by decide⟩

/-- A block that stores a global word and one of own scratch, its other effects empty. -/
def storesT (scr : Bool) : List Node :=
  [firedT (.st free .n64 false ⟨31, .pkg, 0⟩) fun n => { n with
      eff := if scr then .scratch [(⟨0, 7, 0xFFF8⟩, bytesOf 5 8)] else .stores [⟨0xFFF8, 0x10FFF8, bytesOf 5 8⟩] none },
    firedT (.bri free 0) fun n => { n with exit := some (.br 64) }]

/-- CommitMemory: a block that commits a store to global memory, one to the last bytes of own scratch, and a store performed. -/
theorem test_meets_CommitMemory :
    (∀ b : Bool, let g := runs (storesT b); let s := stateT [g]; s.group? here = some g ∧ g.phase = .running ∧
      ∃ r t g' n m, g.run = some r ∧ exec (.blockComplete here) s = .next t ∧ t.group? here = some g' ∧ r.nodes = [] ++ n :: [m] ∧ m.eff = .none ∧
        n.st = .fired ∧ n.lsid < 32 ∧ g'.count = g.count + 1 ∧ Claims.noMemory b n.eff = true ∧ g.member g.rank = here ∧ 7 < g.win.length ∧
        Memory.wf (g.window 7).cells = true) ∧
    (let x : SbEntry := ⟨.phys 0x10FFF8, bytesOf 5 8, 0xFFF8, none⟩; let g := { groupT here none with sb := [x] }; let s := stateT [g];
      s.group? here = some g ∧ g.phase = .running ∧ s.leaseMeets (some here) here.die (s.point here.die 0x10FFF8 false) 0x10FFF8 8 = false ∧
      s.ctxs.flatMap Ctx.migs = [] ∧ g.sigAt = none ∧ Memory.wf s.mem = true ∧ s.foreign = [] ∧ ∃ t, exec (.storePerform here) s = .next t) := by
  refine ⟨fun b => ?_, rfl, rfl, by decide +kernel, rfl, rfl, by decide, rfl, _, rfl⟩
  cases b <;> exact ⟨rfl, rfl, _, _, _, _, _, rfl, rfl, rfl, rfl, rfl, rfl, by decide, by decide, by decide, by decide, by decide, by decide⟩

/-- A block with an exit whose instruction raised NV. -/
def raisedT (e : Exit) : List Node :=
  [firedT .nop fun n => { n with fl := { nv := true, dz := false, of := false, uf := false, nx := false } },
    firedT (.bri free 0) fun n => { n with exit := some e }]

/-- TrapEntry: a fault, a TRAP, and an invalid operation under its enable. -/
theorem test_meets_TrapEntry :
    ((stateT [groupT here none]).group? here = some (groupT here none) ∧ (stateT [groupT here none]).ctx? 0 = some ctxT) ∧
    (∀ rs ∈ [Resume.rerun 0, .goOn 64, .pend (.br 64) 0 1, .pend (.call 0 64) 0 1, .pend .ret 0 1, .pend .endg 0 1, .pend (.trap 63 64) 0 1, .ended],
      (Claims.leaving rs).2.2 < 512) ∧
    (∀ e ∈ [Exit.trap 63 64, .br 64], let g := { runs (raisedT e) with fptrap := if e = .br 64 then 1 else 0 };
      (stateT [g]).group? here = some g ∧ g.phase = .running ∧ (stateT [g]).ctx? g.ctx ≠ none ∧ g.reports = [] ∧
      (∀ n ∈ raisedT e, n.resolved = true ∧ n.dropped = false ∧ n.eff = .none) ∧
      ((List.range 2).zip (raisedT e)).filterMap (fun x => x.2.exit.map fun e => (x.1, e)) = [(1, e)] ∧
      ((raisedT e).map fun n => n.fl.nv) = [true, false]) := by
  refine ⟨⟨rfl, rfl⟩, by decide, by decide +kernel⟩

/-- The block of a handler that has resumed a parked group, and its state. -/
def resumeT (rs : Resume) : State :=
  stateT [runs [firedT (.gresume free 1 0) fun n => { n with eff := .gresume 1 0 false },
    firedT (.bri free 0) fun n => { n with exit := some (.br 64) }], { groupT there none with phase := .parked rs true, task := 1 }]

/-- TrapReturn: a handler's block resumes each kind of group; each pending exit. -/
theorem test_meets_TrapReturn :
    (∀ rs ∈ [Resume.rerun 16, .goOn 16], ∃ g h, (resumeT rs).group? here = some g ∧ g.phase = .running ∧ g.run.isSome = true ∧
      (resumeT rs).ctx? g.ctx ≠ none ∧ g.sb = [] ∧ g.reports = [] ∧ g.fptrap = 0 ∧ (resumeT rs).group? there = some h ∧ h.phase = .parked rs true ∧
      (resumeT rs).groups.find? (fun y => y.task == 1 && y.rank == 0) = some h ∧ (∀ x, (resumeT rs).ctx? h.ctx = some x → x.st = .live) ∧
      (∀ n ∈ (g.run.map BlockRun.nodes).getD [], n.resolved = true ∧ n.dropped = false) ∧
      (g.run.map fun r => r.nodes.map Node.lsid) = some [1, 32] ∧ (g.run.map fun r => r.nodes.filterMap Node.exit) = some [.br 64]) ∧
    (∀ e ∈ [Exit.br 64, .ret, .trap 63 64], let g := { groupT here none with phase := .exiting e 0 1, link := [16] };
      (stateT [g]).group? here = some g ∧ g.reports = [] ∧ (stateT [g]).ctx? g.ctx ≠ none) := by
  refine ⟨?_, by decide +kernel⟩
  simp only [List.forall_mem_cons, List.not_mem_nil, false_imp_iff, implies_true, and_true]
  exact ⟨⟨_, _, rfl, rfl, rfl, by decide, rfl, rfl, rfl, rfl, rfl, rfl, (fun _ h => by cases h; rfl), by decide, by decide, by decide⟩,
    ⟨_, _, rfl, rfl, rfl, by decide, rfl, rfl, rfl, rfl, rfl, rfl, (fun _ h => by cases h; rfl), by decide, by decide⟩⟩

/-- StepRuns: a waiting step of an agent, a block with an instruction to settle and one complete, an instance in turn, words of both
maps. -/
theorem test_meets_StepRuns :
    ({ stateT [] with agenda := [.heartbeat] } : State).agenda = [.heartbeat] ∧
    (let g := runs [nodeT (.bri free 0) none none none none]; let s := stateT [g]; s.agenda = [] ∧ s.turn = .group here ∧
      s.group? here = some g ∧ g.phase = .running ∧ ∃ r, g.run = some r ∧ r.nodes.any Node.fireable = true) ∧
    (let g := exits [.br 64]; ∃ r, g.run = some r ∧ r.nodes.any Node.fireable = false ∧ r.nodes.all Node.resolved = true) ∧
    (let s := reinT (instT [] []) [0xA000_0000_0000_0000]; s.agenda = [] ∧ s.turn = .inst 0 0 ∧ s.inst? 0 0 = some (instT [] []) ∧
      s.prog? 0 0 12 = some (progT [0xA000_0000_0000_0000]) ∧ (instT [] []).began = true ∧
      decodeRein ((progT [0xA000_0000_0000_0000]).words.getD 4 0) = .ok .done) ∧
    decode 0x0058_0207_0100_0000 = .ok (.read ⟨.off, .to .l 2, .to .l 7⟩ .s64 (.x 1)) :=
  ⟨rfl, ⟨rfl, rfl, rfl, rfl, _, rfl, rfl⟩, ⟨_, rfl, rfl, rfl⟩, ⟨rfl, rfl, rfl, rfl, rfl, rfl⟩, rfl⟩

/-- StepAnswers, SoundnessStays, MemoryStaysCanonical: the state after reset has the form, and answers. -/
theorem test_meets_Sound : Claims.Sound State.reset ∧ Memory.wf State.reset.mem = true ∧
    ∃ t, step { State.reset with agenda := [.heartbeat] } = .next t := by
  refine ⟨⟨?_, ?_⟩, by decide, _, rfl⟩ <;> simp [State.reset]

/-- TileEncoding and ReinEncoding: a well-formed instruction of each kind. -/
theorem test_meets_Encoding : (Instr.bri free 0).wf = true ∧ (Instr.bri free 0).isTile = true ∧ Instr.done.wf = true ∧ Instr.done.isRein = true := by
  decide

/-- A page of context 0 at 0 with this leaf. -/
def leafT (e : Word) : Ctx := { ctxT with pte := [(⟨1, 0⟩, 1), (⟨2, 0⟩, 1), (⟨3, 0⟩, e)] }

/-- Translation: an entry of each kind, a reserved page with and without Touch, each permission, a frame outside the pod. -/
theorem test_meets_Translation :
    (∀ e ∈ [(0, 0x087), (1, 0x08E), (3, 0x08E), (0x1C2, 0x08E), (0x40A, 0x08E), (0x1C6, 0x088), (0xCA, 0x08A)],
      (inCtx (leafT (BitVec.ofNat 64 e.1)) []).translate 0 0xFFFF .fetch = .fault e.2) ∧
    (inCtx (leafT 0x3C6) []).translate 0 0 .load = .touch ∧ (inCtx (leafT 0x14A) []).translate 0 0 .store = .fault 0x089 ∧
    (inCtx (leafT 0x18A) []).translate 0 0 .load = .fault 0x089 ∧ (inCtx (leafT 0x4000_0010_01CA) []).translate 0 0 .load = .fault 0x08D ∧
    (inCtx (leafT 0x1001CA) []).translate 0 0xFFFF .load = .ok 0x10FFFF ∧ (stateT []).translate 0 (2 ^ 56) .load = .fault 0x080 := by
  decide +kernel

/-! ## Further clauses -/

/-- Any instruction fires where the tokens are there: the shape of most witnesses. -/
abbrev Fine (s : State) (i : Instr) : Prop := ∃ g r n ls, Claims.Fires s i g r n ls

/-- A READ of stream register 0. -/
abbrev readS : Instr := .read free .s64 (.s 0)

/-- A turn at it with a stream bound and the buffers of task edges. -/
def readsT (st : Stream) (es : List EdgeBuf) : State :=
  { bound st (atT readS none none none none) with
    groups := (bound st (atT readS none none none none)).groups.map fun g => { g with edges := es } }

/-- ReadRegisters: a memory stream that has moved its count, a landing stream and a task edge that have ended, an edge with an
element. -/
theorem test_meets_ReadRegisters_ends :
    OnS (readsT { streamT with moved := 2, buf := [] } []) readS (fun e => ∃ st, e.g.s.getD 0 none = some st ∧ st.buf = [] ∧
      st.src = .mem 0 8 2 ∧ 2 ≤ st.moved) ∧
    OnS (readsT { streamT with src := .rein ⟨0, 0, 0⟩ 12 0, buf := [], ended := true } []) readS (fun e => ∃ st,
      e.g.s.getD 0 none = some st ∧ st.buf = [] ∧ st.src = .rein ⟨0, 0, 0⟩ 12 0 ∧ st.ended = true) ∧
    OnS (readsT { edgeT with out := false } [⟨0, 0, 8, 4, false, [], true, 0⟩]) readS (fun e => ∃ x,
      (e.g.edges.find? fun x => x.bind == 0) = some x ∧ x.buf = [] ∧ x.ended = true) ∧
    OnS (readsT { edgeT with out := false } [⟨0, 0, 8, 4, false, [.data [1, 2, 3, 4, 5, 6, 7, 8] none], false, 0⟩]) readS (fun e => ∃ x bs,
      (e.g.edges.find? fun x => x.bind == 0) = some x ∧ x.buf = [.data bs none] ∧ e.s.backBlocked (some here) 0 = false) :=
  ⟨⟨_, _, _, _, ⟨rfl, rfl, by decide⟩, _, rfl, rfl, rfl, by decide⟩, ⟨_, _, _, _, ⟨rfl, rfl, by decide⟩, _, rfl, rfl, rfl, rfl⟩,
    ⟨_, _, _, _, ⟨rfl, rfl, by decide⟩, _, rfl, rfl, rfl⟩, ⟨_, _, _, _, ⟨rfl, rfl, by decide⟩, _, _, rfl, rfl, rfl⟩⟩

/-- ScratchInstructions: an LDS of a refused address: high bits, a byte off its alignment, a vector past its window. -/
theorem test_meets_ScratchRefusals :
    (∀ x ∈ [((0x1_0000_0000 : Word), (0 : BitVec 24), 0x090), (0x80000, 0, 0x090), (0x1000_0000, 0, 0x090), (4, 0, 0x091), (0, 1, 0x091)],
      Fine (atT (.lds free .s64 3 false x.2.1) (sTok x.1) none none none) (.lds free .s64 3 false x.2.1) ∧
      (stateT [groupT here none]).saddr (groupT here none) true x.1 x.2.1 8 8 = .error x.2.2) ∧
    Fine (atT (.sts free .s64 3 true 0) (sTok 0xFF80) (vTok 5) none none) (.sts free .s64 3 true 0) ∧
    (stateT [groupT here none]).saddr (groupT here none) true 0xFF80 0 1024 128 = .error 0x092 := by
  refine ⟨?_, ⟨_, _, _, _, rfl, rfl, by decide⟩, rfl⟩
  simp only [List.forall_mem_cons, List.not_mem_nil, false_imp_iff, implies_true, and_true]
  exact ⟨⟨⟨_, _, _, _, rfl, rfl, by decide⟩, rfl⟩, ⟨⟨_, _, _, _, rfl, rfl, by decide⟩, rfl⟩, ⟨⟨_, _, _, _, rfl, rfl, by decide⟩, rfl⟩,
    ⟨⟨_, _, _, _, rfl, rfl, by decide⟩, rfl⟩, ⟨_, _, _, _, rfl, rfl, by decide⟩, rfl⟩

/-- Atomics: nothing asked before. -/
theorem test_meets_Atomics_first :
    On (.amoAdd free .s8 .rlx ⟨1, .slot, 0⟩) (sTok 0xFFFF) (sTok 1) none fun e => e.firstAsked (e.s.point 0 0x10FFFF false) 0x10FFFF 1 = true :=
  ⟨_, _, _, _, ⟨rfl, rfl, by decide⟩, rfl⟩

/-- RingInstructions: a push with a void lane, and the status of a ring of a released window. -/
theorem test_meets_RingInstructions_edges :
    OnR ringT ringT (.qpush free 1 0) (some (.v ⟨some 5, none, some 5, some 5, some 5, some 5, some 5, some 5⟩)) none none (fun e => Claims.UsesRing e 0 ringT ∧
      (e.n.l.getD .void).voidAt 1 = true) ∧
    OnR { ringT with base := 0x80000 } ringT (.qstat free 1 0) none none none (fun e => e.loadReady = true ∧
      e.g.q.getD 0 none = some { ringT with base := 0x80000 } ∧ e.g.shape.windows = 8) :=
  ⟨⟨_, _, _, _, ⟨rfl, rfl, by decide⟩, ⟨rfl, rfl, by decide⟩, rfl⟩, ⟨_, _, _, _, ⟨rfl, rfl, by decide⟩, rfl, rfl, rfl⟩⟩

/-- Page 1 is committed too, on frame 17. -/
def wideT (s : State) : State := { s with ctxs := [{ ctxT with pte := [(⟨1, 0⟩, 1), (⟨2, 0⟩, 1), (⟨3, 0⟩, 0x1001CA), (⟨3, 1⟩, 0x1101CA)] }] }

/-- A vector output whose element begins 128 bytes before a page's end. -/
def crossT : Stream := { outT with src := .mem 0xFF80 1024 1, vec := true }

/-- Streams: an element across two pages; a void lane; the four ways to 0x0CA; the status of an edge and a landing stream. -/
theorem test_meets_Streams_edges :
    OnS (wideT (bound crossT (atT (.semit free .s8 1 0) (vTok 5) none none none))) (.semit free .s8 1 0) (fun e =>
      e.streamPending 0 = false ∧ e.stream 0 = some crossT ∧ 0 + e.emitted 0 < 1 ∧ e.s.translate 0 0xFF80 .store = .ok 0x10FF80 ∧
      e.s.translate 0 0x10000 .store = .ok 0x110000) ∧
    On (.semit free .s8 1 0) (some (.v ⟨some 5, some 5, some 5, some 5, some 5, some 5, some 5, none⟩)) none none (fun e => (e.n.l.getD .void).voidAt 7 = true) ∧
    On (.semit free .s8 1 0) (sTok 5) none none (fun e => e.streamPending 0 = false ∧ e.stream 0 = none) ∧
    (∀ st ∈ [streamT, crossT, { outT with moved := 1 }], OnS (bound st (atT (.semit free .s8 1 0) (sTok 5) none none none)) (.semit free .s8 1 0)
      (fun e => e.streamPending 0 = false ∧ e.stream 0 = some st ∧ (st.out = false ∨ st.vec = true ∨ 1 ≤ st.moved + e.emitted 0))) ∧
    OnS (linked (bound edgeT (atT (.semit free .s8 1 0) (sTok 5) none none none))) (.semit free .s8 1 0) (fun e => e.emittedAll 0 < 4) ∧
    (∀ st ∈ [streamT, landedT, edgeT], OnS (bound st (atT (.sst free 1 0) none none none none)) (.sst free 1 0) (fun e =>
      e.loadReady = true ∧ e.g.s.getD 0 none = some st)) ∧
    (readsT { edgeT with out := false } [⟨0, 0, 8, 4, false, [], true, 0⟩]).groups.map (fun g => (g.edges.find? fun x => x.bind == 0).isSome) = [true] := by
  refine ⟨⟨_, _, _, _, ⟨rfl, rfl, by decide⟩, rfl, rfl, by decide, rfl, rfl⟩, ⟨_, _, _, _, ⟨rfl, rfl, by decide⟩, rfl⟩,
    ⟨_, _, _, _, ⟨rfl, rfl, by decide⟩, rfl, rfl⟩, ?_, ⟨_, _, _, _, ⟨rfl, rfl, by decide⟩, by decide⟩, ?_, rfl⟩ <;>
    simp only [List.forall_mem_cons, List.not_mem_nil, false_imp_iff, implies_true, and_true]
  · exact ⟨⟨_, _, _, _, ⟨rfl, rfl, by decide⟩, rfl, rfl, by decide⟩, ⟨_, _, _, _, ⟨rfl, rfl, by decide⟩, rfl, rfl, by decide⟩,
      _, _, _, _, ⟨rfl, rfl, by decide⟩, rfl, rfl, by decide⟩
  · exact ⟨⟨_, _, _, _, ⟨rfl, rfl, by decide⟩, rfl, rfl⟩, ⟨_, _, _, _, ⟨rfl, rfl, by decide⟩, rfl, rfl⟩,
      _, _, _, _, ⟨rfl, rfl, by decide⟩, rfl, rfl⟩

/-- Page 0's entry. -/
def entryT (e : Nat) (s : State) : State := { s with ctxs := [{ ctxT with pte := [(⟨1, 0⟩, 1), (⟨2, 0⟩, 1), (⟨3, 0⟩, BitVec.ofNat 64 e)] }] }

/-- Pages: an allocation that may write back; a malformed entry; a pool that is short; a full pin count; a peer's barrier; a query
of a reserved page and of a remote one. -/
theorem test_meets_Pages_edges :
    On (.alloc free 1 .home 16) (sTok 0x10000) none none (fun e => e.s.heapFits 0 [] 0x10000 65536 ≠ [] ∧ e.s.backBlocked (some here) 0 = false) ∧
    OnS (entryT 1 (atT (.pin free 1 .k64) (sTok 0) (sTok 1) none none)) (.pin free 1 .k64) (fun e =>
      (Claims.pages .k64 e.n).find? (fun va => e.s.walkOf 0 va == .malformed) = some 0) ∧
    OnS { entryT 0x3C6 (atT (.vcommit free 1 .k64) (sTok 0) (sTok 1) none none) with ctxs := [{ ctxT with frames := [] }] } (.vcommit free 1 .k64) (fun e =>
      Claims.PageRange .k64 e.n ∧ e.s.leafOf 0 0x10000 .k64 = some 0x3C6 ∧ leafState 0x3C6 ≠ 3 ∧
      reserveRuns 1 [(0x10000, 0x3C6)] (e.s.freeFrames 0) e.s = none) ∧
    OnS (entryT (0x1001CA + 255 * 2 ^ 56) (atT (.pin free 1 .k64) (sTok 0) (sTok 1) none none)) (.pin free 1 .k64) (fun e =>
      (∀ va ∈ Claims.pages .k64 e.n, e.s.walkOf 0 va ≠ .malformed) ∧
      ∃ w, e.s.leafOf 0 0 .k64 = some w ∧ leafState w ≠ 3 ∧ 255 ≤ leafPins w + e.s.pinHolds 0 0) ∧
    OnS { stateT [{ groupT here (some (runT [] [nodeT (.vmigrate free 1 true 3 true .k64) (sTok 0) (sTok 1) (sTok 0x1000_0000) none]))
            with gang := [here, there] }, { groupT there none with gang := [here, there], rank := 1 }] with turn := .group here }
      (.vmigrate free 1 true 3 true .k64) (fun e => ∃ b, Claims.PeerBarOf e true 0x1000_0000 b) ∧
    OnS (entryT 0x3C6 (atT (.vquery free 1) (sTok 0xFFFF) none none none)) (.vquery free 1) (fun e => e.loadReady = true ∧
      e.s.walkOf 0 0xFFFF = .leaf 0x3C6 ∧ leafCommitted 0x3C6 = false) ∧
    OnS (entryT 0x4000_0010_01CA (atT (.vquery free 1) (sTok 0) none none none)) (.vquery free 1) (fun e => e.loadReady = true ∧
      e.s.walkOf 0 0 = .leaf 0x4000_0010_01CA ∧ leafCommitted 0x4000_0010_01CA = true ∧ paPkg (leafPa 0x4000_0010_01CA) ≠ e.s.pkgNum) :=
  ⟨⟨_, _, _, _, ⟨rfl, rfl, by decide⟩, by decide, rfl⟩, ⟨_, _, _, _, ⟨rfl, rfl, by decide⟩, by decide +kernel⟩,
    ⟨_, _, _, _, ⟨rfl, rfl, by decide⟩, ⟨by decide, by decide, by decide, by decide⟩, rfl, by decide, by decide +kernel⟩,
    ⟨_, _, _, _, ⟨rfl, rfl, by decide⟩, by decide, _, rfl, by decide, by decide⟩, ⟨_, _, _, _, ⟨rfl, rfl, by decide⟩, _, _, rfl, rfl⟩,
    ⟨_, _, _, _, ⟨rfl, rfl, by decide⟩, rfl, rfl, rfl⟩, ⟨_, _, _, _, ⟨rfl, rfl, by decide⟩, rfl, rfl, rfl, by decide⟩⟩

/-- The handle of a record of package 1. -/
abbrev farH : Word := 0x40_0000_0008_0000

/-- Package 1 is of the pod, and the probe has been answered. -/
def inPod (x : Nat) (s : State) : State :=
  { s with
    pod := [0, 1]
    groups := s.groups.map fun g => { g with run := g.run.map fun r => { r with nodes := r.nodes.map fun n => { n with answered := some x } } } }

/-- CountersAndStatus: each answer of another package to each of the three. -/
theorem test_meets_FarRecords :
    (∀ x ∈ [0, 0x101, 0x102], OnS (inPod x (atT (.tdec free 1 0xFFFF) (sTok farH) none none none)) (.tdec free 1 0xFFFF) (fun e =>
      e.n.answered = some x ∧ (farH : Word).extractLsb' 0 19 = 0 ∧ ((farH : Word).extractLsb' 54 10).toNat ∈ e.s.pod ∧
      ((farH : Word).extractLsb' 54 10).toNat ≠ e.s.pkgNum ∧ ∀ m ∈ e.lower, m.eff.recHolds = [])) ∧
    (∀ x ∈ [0, 0x101, 0x10B], OnS (inPod x (atT (.gkill free 1 15) (sTok farH) none none none)) (.gkill free 1 15) (fun e =>
      e.n.answered = some x ∧ ∀ m ∈ e.lower, m.eff.recHolds = [])) := by
  constructor <;> simp only [List.forall_mem_cons, List.not_mem_nil, false_imp_iff, implies_true, and_true]
  · exact ⟨⟨_, _, _, _, ⟨rfl, rfl, by decide⟩, rfl, by decide, by decide, by decide, by decide⟩,
      ⟨_, _, _, _, ⟨rfl, rfl, by decide⟩, rfl, by decide, by decide, by decide, by decide⟩,
      _, _, _, _, ⟨rfl, rfl, by decide⟩, rfl, by decide, by decide, by decide, by decide⟩
  · exact ⟨⟨_, _, _, _, ⟨rfl, rfl, by decide⟩, rfl, by decide⟩, ⟨_, _, _, _, ⟨rfl, rfl, by decide⟩, rfl, by decide⟩,
      _, _, _, _, ⟨rfl, rfl, by decide⟩, rfl, by decide⟩

/-- TasksAndGraphs: an overflow list of one handle in the mapped page. -/
theorem test_meets_TaskCreation_overflow :
    OnS (answered (scratch ((wordsBytes [0, 0x1_0000_0001, 64, 1])) (poked 64 (bytesOf 0x800080000 8) (poked 0 descT
        (twoTasks (atT (.tspawn free 1 true 0) (sTok 0) none none none)))))) (.tspawn free 1 true 0) (fun e =>
      let x := e.readScr ⟨0, 0, 0⟩ 256
      let ws := bytesWords 32 x.1
      x.2 = none ∧ e.s.imageCauses e.handleCause ws = [] ∧ (ws.getD 2 0).toNat = 64 ∧ ((ws.getD 3 0).extractLsb' 0 13).toNat = 1 ∧
        (match e.loadUnits 64 1 with
          | .ok os => (bytesWords 1 os).all fun h => (e.handleCause h).isNone
          | .error _ => false) = true) :=
  ⟨_, _, _, _, ⟨rfl, rfl, by decide⟩, by decide +kernel⟩

/-- TasksAndGraphs: a completion handle of another package. -/
theorem test_meets_GraphInstances_far :
    OnS (inPod 0 { atT (.tinst free 1 5) (sTok farH) (sTok 3) none none with ctxs := [{ ctxT with templates := [templateT] }] })
      (.tinst free 1 5) (fun e => Claims.Checked e.s (e.s.tagOf e.g.ctx) farH ∧ ∀ m ∈ e.lower, m.eff.recHolds = []) :=
  ⟨_, _, _, _, ⟨rfl, rfl, by decide⟩, ⟨by decide, by decide, fun _ h => by cases h⟩, by decide⟩

/-- Relays: a V tile's shape of more than 4 accumulators. -/
theorem test_meets_Relays_refused :
    OnS { stateT [groupT ⟨0, 40, 0⟩ (some (runT [] [nodeT (.relay free 1) (sTok 0) (sTok 0) none none]))] with turn := .group ⟨0, 40, 0⟩ }
      (.relay free 1) (fun e => e.loadReady = true ∧ ¬ ((e.g.place.tile < 40 ∨ 16 ≤ 4) ∧ 16 - e.g.shape.acc ≤
        e.s.accFree e.g.place.die e.g.place.tile - e.s.accOverdue e.g.ctx e.g.place.die e.g.place.tile)) :=
  ⟨_, _, _, _, ⟨rfl, rfl, by decide⟩, rfl, by decide⟩

/-- ResumeAndKill: nothing claims the group. -/
theorem test_meets_ResumeAndKill_free : (stateT []).podHolds = [] ∧ (stateT [groupT there none]).heldEffects = [] := by decide +kernel

/-- ReinData: what is read again after the first read, and the bytes that are written. -/
theorem test_meets_ReinData_written :
    (let s := reinT (instT [] threeT) [0, 0]; let p := progT [0, 0]; let i := instT [] threeT;
      (∃ x s1, s.readChunk p i ⟨0, 16, 16⟩ = .ok (x, s1) ∧ ∃ y s2, s1.readChunk p i ⟨0, 32, 16⟩ = .ok (y, s2) ∧
        Claims.Writable s2 p i ⟨0, 0, 16⟩) ∧ (∃ x s1, s.readChunk p i ⟨1, 0xFEF0, 16⟩ = .ok (x, s1) ∧ Claims.Writable s1 p i ⟨1, 0xFEF0, 16⟩)) :=
  ⟨⟨_, _, rfl, _, _, rfl, rfl, _, _, rfl⟩, _, _, rfl, rfl, _, _, rfl⟩

/-- TileCoreSteps: a block that the tile may start ahead, at itself; one that it may not; a grace that a waiting block does not
get. -/
theorem test_meets_TileCoreSteps_ahead :
    (let g := runs [nodeT (.bri free 0) none none none none]; let s := poked 0 (wordsBytes blockT) (stateT [g]);
      s.group? here = some g ∧ g.phase = .running ∧ g.ahead = none ∧ g.grace = false ∧ s.ctxLive g.ctx = true ∧
      ∃ r, g.run = some r ∧ Claims.MayRunAhead g r 0 ∧ ∃ b t, s.loadBlock g 0 = .ok b t) ∧
    (let g := runs [nodeT (.endg free) none none none none]; ∃ r, g.run = some r ∧ ¬ Claims.MayRunAhead g r 0) ∧
    (let g := { runs [firedT (.bri free 0) fun n => { n with st := .waiting }] with grace := true };
      (stateT [g]).group? here = some g ∧ ∃ r x, g.run = some r ∧ r.isWaiting = true ∧ (stateT [g]).ctx? g.ctx = some x) := by
  refine ⟨⟨rfl, rfl, rfl, rfl, rfl, _, rfl, ⟨rfl, rfl, ?_, ?_⟩, ?_⟩, ⟨_, rfl, fun h => ?_⟩, rfl, _, _, rfl, rfl, rfl⟩
  · intro n h _
    rw [List.mem_singleton.mp h]
    exact ⟨rfl, fun c k => ⟨by simp [nodeT, freshNode], by simp [nodeT, freshNode]⟩, fun c l q k => ⟨by simp [nodeT, freshNode],
      by simp [nodeT, freshNode]⟩, .inl rfl⟩
  · exact ⟨_, List.mem_singleton.mpr rfl, by decide, .inl ⟨free, 0, .inl rfl, rfl⟩⟩
  · exact ⟨_, _, rfl⟩
  · exact ((h.2.2.1 _ (List.mem_singleton.mpr rfl) (by decide)).2.1 free 0).1 rfl

/-- BlockCompletion: a grace that is over. -/
theorem test_meets_BlockCompletion_grace :
    (let g := { exits [.br 64] with grace := true }; let s := { stateT [g] with cycle := 256 };
      s.group? here = some g ∧ g.phase = .running ∧ s.graceOver g.ctx = true ∧ s.ctx? g.ctx ≠ none) := by
  decide +kernel

/-- A dirty line of another package's frame. -/
def farLineT : FLine := ⟨1, 2 ^ 42 / 128, List.replicate 128 7, 1, []⟩

/-- MemorySteps: a dirty line of another package. -/
theorem test_meets_MemorySteps_far :
    (let s := { stateT [] with foreign := [farLineT] }; s.fline? 1 (2 ^ 42 / 128) = some farLineT ∧ s.lineBlocked farLineT = false ∧
      2 ^ 42 / 128 * 128 / 2 ^ 42 % 1024 ≠ s.pkgNum ∧ farLineT.dirty ≠ 0 ∧ farLineT.bytes.length = 128) := by
  decide +kernel

/-- A group there whose block leases 8 bytes at the mapped page's 0xFC00, at their home. -/
def leaserT : Group :=
  { groupT there (some (runT [] [firedT (.amoAdd free .n64 .rlx ⟨1, .sys, 0⟩) fun n => { n with
      leased := true, eff := .amo 0xFC00 0x10FC00 (List.replicate 8 0) none .sys false }])) with rank := 1 }

/-- CommitMemory, Translation: bytes of this package; a fetch from another package's frame. -/
theorem test_meets_CommitMemory_near :
    (stateT []).far 0x10FFF8 = false ∧ (∀ f ∈ (stateT []).foreign, f.bytes.length = 128) ∧
    ({ inCtx { ctxT with pte := [(⟨1, 0⟩, 1), (⟨2, 0⟩, 1), (⟨3, 0⟩, 0x400_0010_01CA)] } [] with pod := [0, 1] }).translate 0 0 .fetch = .fault 0x082 ∧
    ({ inCtx { ctxT with pte := [(⟨1, 0⟩, 1), (⟨2, 0⟩, 1), (⟨3, 0⟩, 0x400_0010_01CA)] } [] with pod := [0, 1] }).translate 0 5 .load
      = .ok 0x400_0010_0005 := by
  decide +kernel

/-- StepRuns: a turn at a block without grace or a block ahead, an idle machine, a tile with a grant, a word of the Rein map. -/
theorem test_meets_StepRuns_moves :
    (let g := runs [nodeT (.bri free 0) none none none none]; g.grace = false ∧ g.ahead = none) ∧
    (State.reset.inTurn = none ∧ State.reset.agenda = []) ∧
    (∃ m, (stateT [runs [nodeT (.bri free 0) none none none none]]).tileGrant 0 0 = some m) ∧
    (∃ c, decode 0x0D00_0000_0000_0001 = .error c) ∧ decodeRein 0x0D00_0000_0000_0001 = .ok (.reinMovi 4 1) :=
  ⟨⟨rfl, rfl⟩, ⟨rfl, rfl⟩, ⟨_, rfl⟩, ⟨_, rfl⟩, rfl⟩

/-- PreemptionSteps: a pod switch that holds its place of CD0's engines. -/
theorem test_meets_PreemptionSteps_drain :
    (let x := { livingT .draining [] with drain := some 3 }; (inCtx x [groupT here none]).ctx? 0 = some x ∧ x.drain.isSome = true ∧
      (inCtx x [groupT here none]).cutSettled 0 = true) := by
  decide +kernel

/-- BridleSequencing: release commands of a queue with links that have room, and with one that is full. -/
theorem test_meets_BridleSequencing_release :
    (let m := { sends 0x0C 1 [] with h0 := (sends 0x0C 1 []).h0 ||| 0x200_0000 }; m.h0.getLsbD 25 = true ∧
      (∀ l ∈ [Link.mk 1 2 65534, ⟨1, 3, 0⟩], l.p = 1 → l.tokens < 65535) ∧ (∃ l ∈ [Link.mk 1 2 65535, ⟨1, 3, 0⟩], l.p = 1 ∧ 65535 ≤ l.tokens) ∧
      ((m.h0.extractLsb' 32 16).toNat = 1) ∧
      ({ stateT [] with queues := [queueT 1 none 2], links := [⟨1, 2, 65535⟩, ⟨1, 3, 0⟩] } : State).queue? 1 = some (queueT 1 none 2)) := by
  decide +kernel

/-- DeviceCommands, ContextCommands: a write that meets a lease, a deregistration before an accepted write, a decrement whose
release meets a lease. -/
theorem test_meets_Commands_deferred :
    Starts 0x0A 1 ([0xFC00, 1024] ++ List.replicate 128 7) (stateT [leaserT]) (fun s =>
      s.xblocked none none 0 0xFC00 ((wordsBytes (List.replicate 128 7)).take 1024).length .store = true) ∧
    Starts 0x16 1 [77] { stateT [] with regions := [regionT], later := [.rdmaWrite 9 77 0 [1]] } (fun s => regionT ∈ s.regions ∧
      .rdmaWrite 9 77 0 [1] ∈ s.agenda ++ s.later) ∧
    Starts 0x09 1 [taskH, 0] { tasked [taskT 0 3] with groups := [leaserT], foreign := [⟨0, 0x21F8, List.replicate 128 7, 1, []⟩] }
      (fun s => s.decsWait taskH = true) := by
  refine ⟨?_, ?_, ?_⟩ <;> exact ⟨⟨⟨by decide, _, rfl, rfl⟩, rfl, rfl, by decide +kernel⟩, by decide +kernel⟩

/-- DeviceSteps: a failed package of the pod, one not failed; the registers right after reset; no unit selected that is none. -/
theorem test_meets_DeviceSteps_pod :
    (let s := { stateT [] with pod := [0, 1], failedPkgs := [1] }; 1 ∈ s.failedPkgs ∧ 1 ≠ s.pkgNum ∧ 0 ∈ s.pod ∧ 0 ∉ s.failedPkgs) ∧
    State.reset.cycle = 0 ∧ State.reset.pstate = .p0 ∧ unitOk ({ State.reset with errSelect := 0x40000 } : State).errSelect = true ∧
    (∀ k < 8, (stateT []).leaseHit none none (0x100000 + k) 1 = false) := by
  decide +kernel

/-! ## Clauses on what else there is -/

/-- MoveAndSelect: SEL of P and K tokens, of S tokens under a partly void selector; ReadRegisters: an element that met a fault as it
was fetched, a poisoned one, and one of a task edge. -/
theorem test_meets_RegistersAndMoves_void :
    Met (atT (.sel free .n8) (pTok true) (pTok false) (pTok true) none) (.sel free .n8) (fun _ _ n _ => ∃ x y p,
      n.l.getD .void = .p x ∧ n.r = some (.p y) ∧ n.t = some p) ∧
    Met (atT (.sel free .n8) (kTok 1) (kTok 2) (pTok true) none) (.sel free .n8) (fun _ _ n _ => ∃ x y p,
      n.l.getD .void = .k x ∧ n.r = some (.k y) ∧ n.t = some p) ∧
    (let v : Token := .p ⟨some true, some true, some true, some true, some true, some true, some true, none⟩;
      Met (atT (.sel free .n8) (sTok 1) (sTok 2) (some v) none) (.sel free .n8) (fun g _ n _ =>
        n.l.getD .void = .s 1 ∧ n.r = some (.s 2) ∧ n.t = some v ∧ ∃ l < g.shape.lanes, v.voidAt l = true)) ∧
    OnS (readsT { streamT with buf := [.fault 0x087 64] } []) readS (fun e => ∃ st, e.g.s.getD 0 none = some st ∧
      (∀ b, st.src ≠ .edge b) ∧ Claims.Meets st.buf [] 0x087 64) ∧
    OnS (readsT { streamT with buf := [.data [1] (some 64)] } []) readS (fun e => ∃ st, e.g.s.getD 0 none = some st ∧
      (∀ b, st.src ≠ .edge b) ∧ Claims.Meets st.buf [] 0x08C 64) ∧
    OnS (readsT { edgeT with out := false } [⟨0, 0, 8, 4, false, [.data [1] (some 64)], false, 0⟩]) readS (fun e => ∃ x,
      (e.g.edges.find? fun x => x.bind == 0) = some x ∧ Claims.Meets x.buf [] 0x08C 64) :=
  ⟨⟨_, _, _, _, ⟨rfl, rfl, by decide⟩, _, _, _, rfl, rfl, rfl⟩, ⟨_, _, _, _, ⟨rfl, rfl, by decide⟩, _, _, _, rfl, rfl, rfl⟩,
    ⟨_, _, _, _, ⟨rfl, rfl, by decide⟩, rfl, rfl, rfl, by decide⟩,
    ⟨_, _, _, _, ⟨rfl, rfl, by decide⟩, _, rfl, (fun _ h => by cases h), by simp [Claims.Meets]⟩,
    ⟨_, _, _, _, ⟨rfl, rfl, by decide⟩, _, rfl, (fun _ h => by cases h), by simp [Claims.Meets]⟩,
    ⟨_, _, _, _, ⟨rfl, rfl, by decide⟩, _, rfl, by simp [Claims.Meets]⟩⟩

/-- ResumeAndKill: groups that are not parked, of each other phase. -/
theorem test_meets_ResumeAndKill_phases :
    ∀ f ∈ [Phase.ended, .relayHold 0 ⟨0x1000, ⟨8, 8, 16, 8, 8⟩⟩ 0, .touching 0x10000 .store 0 none],
      OnS (phased f (answered (twoTasks (atT (.gresume free 1 0) (sTok 0x800080000) none none none)))) (.gresume free 1 0) (fun e =>
        Named e 0x800080000 ∧ ∃ q, e.s.groups.find? (fun y => y.task == 0x800080000 && y.rank == 0) = some q ∧
          ∀ rs b, q.phase ≠ .parked rs b) := by
  simp only [List.forall_mem_cons, List.not_mem_nil, false_imp_iff, implies_true, and_true]
  exact ⟨⟨_, _, _, _, ⟨rfl, rfl, by decide⟩, ⟨rfl, rfl, rfl, by decide, (fun _ h => by cases h; rfl), rfl, by decide⟩, _, rfl,
      fun _ _ h => by cases h⟩,
    ⟨_, _, _, _, ⟨rfl, rfl, by decide⟩, ⟨rfl, rfl, rfl, by decide, (fun _ h => by cases h; rfl), rfl, by decide⟩, _, rfl,
      fun _ _ h => by cases h⟩,
    ⟨_, _, _, _, ⟨rfl, rfl, by decide⟩, ⟨rfl, rfl, rfl, by decide, (fun _ h => by cases h; rfl), rfl, by decide⟩, _, rfl,
      fun _ _ h => by cases h⟩⟩

/-- The handle of graph instance 3 whose first record is record 1. -/
abbrev instH : Word := 0x8000C0003

/-- Record 1 with the words of a graph instance's first member, and the instances of the context. -/
def ofInst (w13 w14 : Word) (gi : List GInst) (s : State) : State :=
  { s with ctxs := [{ ctxT with ginsts := gi }], recs := [recT 0 producer, { recT 1 ((consumer.set 13 w13).set 14 w14) with num := 3 }] }

/-- The instance that the handle names. -/
def ginstT (failed : Bool) : GInst := ⟨5, 3, 0x800080000, [0x800080000], [], 0, failed, false⟩

/-- A TSTAT of it. -/
abbrev statT (w13 w14 : Word) (gi : List GInst) : State := ofInst w13 w14 gi (answered (twoTasks (atT (.tstat free 1) (sTok instH) none none none)))

/-- InstanceStatus: live tasks, none left, one failed; a record of no instance, one of another; no record. -/
theorem test_meets_InstanceStatus :
    (∀ w14 ∈ [(0x1_0000_1005 : Word), 0x1005], ∀ f : Bool, OnS (statT 0x0003_0001_0004 w14 [ginstT f]) (.tstat free 1) (fun e =>
      e.n.answered = some 0 ∧ e.loadReady = true ∧ (instH : Word).extractLsb' 16 3 = 4 ∧
      Claims.Checked e.s (e.s.tagOf e.g.ctx) ((instH : Word).extractLsb' 19 45 ++ (0 : BitVec 19)) ∧ (∀ m ∈ e.lower, m.eff.recHolds = []) ∧
      ((instH : Word).extractLsb' 54 10).toNat = e.s.pkgNum ∧
      ∃ t x, e.s.target ((instH : Word).extractLsb' 19 45 ++ (0 : BitVec 19)) = some t ∧ (t.w 14).getLsbD 12 = true ∧
        (t.w 13).extractLsb' 32 16 = (instH : Word).extractLsb' 0 16 ∧ e.s.ctx? t.ctx = some x ∧
        (x.ginsts.find? fun y => y.tid == t.tid && y.num == t.num) = some (ginstT f) ∧
        (ginstT f).first = (instH : Word).extractLsb' 19 45 ++ (0 : BitVec 19))) ∧
    (∀ w ∈ [((0x0003_0001_0004 : Word), (0x5 : Word)), (0x0002_0001_0004, 0x1005)], OnS (statT w.1 w.2 [ginstT true]) (.tstat free 1) (fun e =>
      ∃ t, e.s.target ((instH : Word).extractLsb' 19 45 ++ (0 : BitVec 19)) = some t ∧
        ((t.w 14).getLsbD 12 = false ∨ (t.w 13).extractLsb' 32 16 ≠ (instH : Word).extractLsb' 0 16))) ∧
    OnS (statT 0x0003_0002_0004 0x1005 []) (.tstat free 1) (fun e => e.s.target ((instH : Word).extractLsb' 19 45 ++ (0 : BitVec 19)) = none) := by
  refine ⟨?_, ?_, ?_⟩
  · simp only [List.forall_mem_cons, List.not_mem_nil, false_imp_iff, implies_true, and_true]
    constructor <;> intro f <;> cases f <;>
      exact ⟨_, _, _, _, ⟨rfl, rfl, by decide⟩, rfl, rfl, by decide, ⟨by decide, by decide, by decide +kernel⟩, by decide, by decide,
        _, _, rfl, by decide, by decide, rfl, rfl, by decide⟩
  · simp only [List.forall_mem_cons, List.not_mem_nil, false_imp_iff, implies_true, and_true]
    exact ⟨⟨_, _, _, _, ⟨rfl, rfl, by decide⟩, _, rfl, by decide⟩, ⟨_, _, _, _, ⟨rfl, rfl, by decide⟩, _, rfl, by decide⟩⟩
  · exact ⟨_, _, _, _, ⟨rfl, rfl, by decide⟩, by decide +kernel⟩

/-- ReinEnds: the last index with nothing outstanding, registers that make a branch end there, a signal to take; a starter that
runs, one that waits, one that has ended, and none. -/
theorem test_meets_ReinEnds_last :
    (∀ g ∈ [[(0 : Word)], [1], [2]], Claims.Runs (reinT (instT g []) [0]) (instT g []) (progT [0]) ∧ (instT g []).out = [] ∧
      (instT g []).idx + 1 = (progT [0]).words.length - 4) ∧
    (let i := { instT [1] [] with sigs := [(1, 1)] }; Claims.Runs (reinT i [0]) i (progT [0]) ∧ (Claims.gr i 0).toNat < i.size ∧
      0 < countOf i.sigs (Claims.gr i 0).toNat) ∧
    (∀ f ∈ [nodeT (.bri free 0) none none none none, firedT (.bri free 0) fun n => { n with st := .waiting }],
      let s := { reinT (instT [] []) [0] with groups := [{ runs [f] with task := 0x80000 }] };
      ∃ g b, s.group? (instT [] []).who = some g ∧ g.task = (instT [] []).task ∧ g.ctx = (instT [] []).ctx ∧ g.phase = .running ∧
        g.reports = [] ∧ g.run = some b ∧ b.isWaiting = (f.st == .waiting)) ∧
    (let g := { groupT here none with task := 0x80000, phase := .ended }; let s := { reinT (instT [] []) [0] with groups := [g] };
      s.group? (instT [] []).who = some g ∧ g.task = (instT [] []).task ∧ g.ctx = (instT [] []).ctx ∧ g.reports = []) ∧
    (let s := { reinT (instT [] []) [0] with groups := [] }; s.group? (instT [] []).who = none ∧ s.ctx? (instT [] []).ctx = some ctxT) := by
  refine ⟨?_, ⟨⟨rfl, rfl, rfl, rfl⟩, by decide, by decide⟩, ?_, ⟨rfl, rfl, rfl, rfl⟩, rfl, rfl⟩ <;>
    simp only [List.forall_mem_cons, List.not_mem_nil, false_imp_iff, implies_true, and_true]
  · exact ⟨⟨⟨rfl, rfl, rfl, rfl⟩, rfl, by decide⟩, ⟨⟨rfl, rfl, rfl, rfl⟩, rfl, by decide⟩, ⟨rfl, rfl, rfl, rfl⟩, rfl, by decide⟩
  · exact ⟨⟨_, _, rfl, rfl, rfl, rfl, rfl, rfl, by decide⟩, _, _, rfl, rfl, rfl, rfl, rfl, rfl, by decide⟩

/-- TileCoreSteps: a probe of a record of another package, and a block that holds something there. -/
theorem test_meets_TileCoreSteps_far :
    (∀ i ∈ [Instr.tdec free 1 2, .gkill free 1 3, .gresume free 1 3, .tstat free 1],
      let g := runs [nodeT i (sTok farH) none none none]; let s := { stateT [g] with pod := [0, 1] }; s.group? here = some g ∧
      ∃ r n, g.run = some r ∧ r.nodes[0]? = some n ∧ isProbe n.ins = true ∧ n.ready = true ∧ n.resolved = false ∧
        ((farH : Word).extractLsb' 54 10).toNat ≠ s.pkgNum ∧ ((farH : Word).extractLsb' 54 10).toNat ∉ s.failedPkgs) ∧
    (let q := { nodeT (.tdec free 1 2) (sTok farH) none none none with asked := some 9 }; let g := runs [q];
      ∃ r v, g.run = some r ∧ r.nodes = [q] ∧ q.asked = some 9 ∧ q.l = some v ∧ (v.word.extractLsb' 54 10).toNat ∉ (stateT [g]).failedPkgs) := by
  refine ⟨?_, _, _, rfl, rfl, rfl, rfl, by decide⟩
  simp only [List.forall_mem_cons, List.not_mem_nil, false_imp_iff, implies_true, and_true]
  exact ⟨⟨rfl, _, _, rfl, rfl, rfl, rfl, rfl, by decide, by decide⟩, ⟨rfl, _, _, rfl, rfl, rfl, rfl, rfl, by decide, by decide⟩,
    ⟨rfl, _, _, rfl, rfl, rfl, rfl, rfl, by decide, by decide⟩, rfl, _, _, rfl, rfl, rfl, rfl, rfl, by decide, by decide⟩

/-- BlockCompletion: an END with nothing left to do, and a relay of a task's group. -/
theorem test_meets_BlockCompletion_last :
    (∀ g ∈ [exits [.endg], { exits [.relay true 64 0 ⟨0x1000, ⟨8, 8, 16, 8, 8⟩⟩] with task := 0x800080000 }], Resolved g ∧ g.prep = none ∧
      g.grace = false ∧ g.sb = [] ∧ g.mq = [] ∧ g.cq = [] ∧ ∀ x, (stateT [g]).ctx? g.ctx = some x → x.pageCmds = []) ∧
    (let g := { exits [.relay true 64 0 ⟨0x1000, ⟨8, 8, 16, 8, 8⟩⟩] with task := 0x800080000 }; let s := { stateT [g] with recs := [recT 1 consumer] };
      s.recOf g = some (recT 1 consumer) ∧ s.rec? 0 1 = some (recT 1 consumer) ∧ (recT 1 consumer).words.length = 32) := by
  decide +kernel

/-- TrapQueueAndHold: a trapped context serves, with nothing leased; a handler's record; a lease on the record's bytes; a cut that
freezes, with a queue to tell; a hold that keeps some and has a preparation that is not done, and one that is. -/
theorem test_meets_TrapQueue_each :
    (let s := inCtx trappedT []; s.mayRelease = true ∧ s.recordBlocked trappedT = false ∧ trappedT.serves = true ∧ trappedT.slot = 0 ∧
      trappedT.held = [⟨List.replicate 8 1, none, false⟩]) ∧
    (let x := { trappedT with held := [⟨List.replicate 8 1, none, true⟩] }; let s := inCtx x []; s.ctx? 0 = some x ∧ x.serves = true ∧
      s.mayRelease = true) ∧
    (let x := { trappedT with tqBase := 0xFBC0 }; let s := inCtx x [leaserT]; s.ctx? 0 = some x ∧ x.serves = true ∧ s.recordBlocked x = true) ∧
    (let x := { livingT .cutting [] with cut := .freeze }; let q := { queueT 1 none 2 with endpoint := some (5, 6) };
      let s := { inCtx x [groupT here none] with queues := [q] }; s.ctx? 0 = some x ∧ s.cutSettled 0 = true ∧ x.waits = [] ∧ s.insts = [] ∧
      (∀ g ∈ s.groups, g.holdMask = none) ∧ x.asked = false ∧ savedSize (s.ctxGroups 0) ≤ x.saveSize ∧ s.queue? 1 = some q ∧
      q.ctx = some 0 ∧ q.noteWait = [] ∧ s.mayRelease = true) := by
  decide +kernel

/-- HoldEnds: a mask that keeps some of each, and a preparation of one window that has not landed, and has. -/
theorem test_meets_HoldEnds :
    let q (b : Bool) : Prep := ⟨0, ⟨0x1000, ⟨8, 8, 16, 8, 8⟩⟩, [(0, 0x0000_0101_0000_0000)], [{}], [b], none, noTag⟩
    (∀ b : Bool, let g := { holdT 0x0100_0101_0101_0101 with prep := some (q b) }; (stateT [g]).group? here = some g ∧
      (stateT [g]).holdMet g 0x0100_0101_0101_0101 = b ∧ ((q b).binds.map fun x => (x.2.extractLsb' 40 3).toNat) = [1] ∧
      (0x0100_0101_0101_0101 : Word).getLsbD (16 + 1) = false) := by
  decide +kernel

/-- ReinSteps: a resend before the sixteenth failure, a resend of a refused chunk, and packages that messages come from. -/
theorem test_meets_ReinSteps_resends :
    (∀ k ∈ [0, 14], let s := reinT (sentT k) [0]; Claims.Talks s sentName.pkg ∧ s.sender sentName = some (sentT k) ∧
      ∃ o, (sentT k).outOf sentName = some o ∧ o.tries = k ∧ ∃ xs s1,
        (State.setInst (Claims.hears s sentName.pkg) 0 fun i => i.setOut sentName fun o => { o with tries := o.tries + 1 }).readChunk (progT [0])
          (sentT k) o.src = .ok (xs, s1)) ∧
    (let s := reinT (sentT 0) [0]; ∃ o, (sentT 0).outOf sentName = some o ∧ o.refused = true ∧
      (Claims.rankSpot (progT [0]) o.peer).1 ∉ s.failedPkgs ∧ ∃ xs s1,
        (State.setInst (Claims.hears s (Claims.rankSpot (progT [0]) o.peer).1) 0 fun i => i.setOut sentName fun o =>
          { o with refused := false }).readChunk (progT [0]) (sentT 0) o.src = .ok (xs, s1)) ∧
    Claims.Talks { reinT (instT [] []) [0] with pod := [0, 1] } 1 := by
  simp only [List.forall_mem_cons, List.not_mem_nil, false_imp_iff, implies_true, and_true]
  exact ⟨⟨⟨⟨.inl rfl, by decide⟩, rfl, _, rfl, rfl, _, _, rfl⟩, ⟨⟨.inl rfl, by decide⟩, rfl, _, rfl, rfl, _, _, rfl⟩⟩,
    ⟨_, rfl, rfl, by decide, _, _, rfl⟩, .inr (by decide), by decide⟩

/-- PreemptionSteps: a group in a relay hold when its context's cut is settled. -/
theorem test_meets_PreemptionSteps_hold :
    (let x := livingT .cutting []; let g := holdT 5; let s := inCtx x [g]; s.ctx? 0 = some x ∧ s.cutSettled 0 = true ∧ x.waits = [] ∧
      s.insts = [] ∧ x.asked = false ∧ s.ctxGroups 0 = [g] ∧ s.group? g.place = some g ∧ g.s = List.replicate 8 none ∧ g.edges = [] ∧
      savedSize [g.scrub 5 ⟨0x1000, ⟨8, 8, 16, 8, 8⟩⟩] ≤ x.saveSize) := by
  decide +kernel

/-- BridleSequencing: numbers of a session before, and a command without a session. -/
theorem test_meets_BridleSequencing_session :
    (let m := sends 0x0C 1 []; let q := { queueT 1 (some 1) 2 with past := [1] }; let s := { stateT [] with queues := [q] };
      s.queue? 1 = some q ∧ m.h0.getLsbD 25 = false ∧ m.h1.toNat ∈ q.past ∧ m.h1.toNat ∉ (queueT 1 (some 1) 2).past ∧
      (0x0C, Instr.status m) ∈ Claims.carried m ∧ s.session = none ∧ q.go = some m.h1.toNat) := by
  refine ⟨by decide +kernel, by decide, by decide, by decide, by simp [Claims.carried], rfl, rfl⟩

/-- A plan whose members and ranges are to be had. -/
theorem plans {s : State} {c gen die tid : Nat} {arg : Word} {chk : Word → Option Nat} {t : Template} {ms : List (Nat × Nat)}
    {bs : List (Nat × Nat)} (ht : ((s.ctx? c).bind fun x => x.templates.find? fun t => t.id == tid) = some t)
    (hm : s.takeMembers c die t.members [] = some ms) (hb : s.takeBufs c t.bufs [] = some bs) :
    ∃ p, s.planInst c gen die tid arg 0 chk = .ok p ∧ p.bufs = bs := by
  simp [State.planInst, ht, hm, hb]

/-- A range of a whole heap lies at its base. -/
theorem pick_whole {s : State} {c n al : Nat} {x : Ctx} {more : List (Nat × Nat)} (hx : s.ctx? c = some x) (hn : x.heapSize = n)
    (hf : s.heapFits c more n al = [x.heapBase]) : s.heapPick c more n al = some x.heapBase := by
  subst hn
  simp only [State.heapPick, hf, pick_one, hx, Option.some.injEq]
  split
  · rename_i h
    simp only [rangeFree, Bool.and_eq_true, decide_eq_true_eq] at h
    omega
  rfl

/-- A template with a buffer of a whole page. -/
def bufferedT : Template := { templateT with bufs := [(0x10000, 6)] }

/-- A context with it whose heap's page is reserved and changes. -/
def changingT : Ctx :=
  { ctxT with templates := [bufferedT], pte := ctxT.pte ++ [(⟨3, 4⟩, 0x3C6)], invals := [⟨0x40000, 65536, 0x1101CA, none⟩] }

/-- ContextCommands: a Map over a page whose old leaf is in use, a teardown whose region is busy, a Launch to a page that changes. -/
theorem test_meets_ContextCommands_deferred :
    (let x := { ctxT with invals := [⟨0x50000, 65536, 0x1101CA, none⟩] };
      Starts 0x0E 1 [0x50000, 0x210000, 1, 0x32] (inCtx x []) (fun s => s.ctx? 0 = some x ∧ s.mapBad x 0x50000 0x210000 1 0x32 false = false)) ∧
    Starts 0x03 0 [] { stateT [] with regions := [regionT], later := [.rdmaWrite 9 77 0 [1]] } (fun s => s.ctx? 0 = some ctxT ∧
      (s.tearDown 0 none).isNone = true) ∧
    Starts 0x08 1 [5, 0, 0] (inCtx changingT []) (fun s => ∃ p, s.planInst 0 (s.genOf 0) 0 5 0 0 (s.handleCause (s.tagOf 0)) = .ok p ∧
      (p.bufs.any fun b => s.placeWaits 0 b.1 b.2) = true) := by
  refine ⟨⟨⟨⟨by decide, _, rfl, rfl⟩, rfl, rfl, by decide +kernel⟩, by decide +kernel⟩,
    ⟨⟨⟨by decide, _, rfl, rfl⟩, rfl, rfl, by decide +kernel⟩, by decide +kernel⟩, ⟨⟨by decide, _, rfl, rfl⟩, rfl, rfl, by decide +kernel⟩, ?_⟩
  have hf : (begun (sends 0x08 1 [5, 0, 0]) 1 (inCtx changingT [])).heapFits 0 [] 0x10000 64 = [0x40000] := by
    decide +kernel
  obtain ⟨p, hp, hb⟩ := plans (s := begun (sends 0x08 1 [5, 0, 0]) 1 (inCtx changingT [])) (c := 0) (gen := 1) (die := 0) (tid := 5)
    (arg := 0) (chk := State.handleCause (begun (sends 0x08 1 [5, 0, 0]) 1 (inCtx changingT [])) 7) (t := bufferedT) (ms := [_])
    (bs := [(0x40000, 0x10000)]) rfl rfl (by
      show (match State.heapPick _ 0 [] 0x10000 64 with
        | none => none
        | some a => State.takeBufs _ 0 [] ([] ++ [(a, 0x10000)])) = _
      rw [pick_whole (x := changingT) (n := 0x10000) rfl rfl hf]; rfl)
  exact ⟨p, hp, by rw [hb]; decide +kernel⟩

/-- DeviceSteps: masked writes of 16 and 256 bytes, one frame that another package maps, what is mirrored of a failed package. -/
theorem test_meets_DeviceSteps_masked :
    (∀ n ∈ [8, 128], let bs : List (Option Byte) := List.replicate n (some 7) ++ List.replicate n none; 16 ≤ bs.length ∧ bs.length ≤ 256 ∧
      (stateT []).remoteOk 0x100000 bs.length = true ∧ Memory.wf (stateT []).mem = true ∧ (stateT []).ctxs.flatMap Ctx.migs = [] ∧
      ∀ k < bs.length, bs.getD k none ≠ none → (stateT [leaserT]).leaseHit none none (0x100000 + k) 1 = false) ∧
    (0x100000 % 65536 = 0 ∧ (stateT []).remoteOk 0x100000 (1 * 65536) = true) ∧
    (let s := { stateT [] with pod := [0, 1], mirrored := { records := [(1, 0, 1, [5])], applied := [(1, 0, 3)], writes := [(1, (64, 9))] } };
      1 ∈ s.pod ∧ 1 ∉ s.failedPkgs ∧ (1, 0, 1, [5]) ∈ s.mirrored.records ∧ (1, 0, 3) ∈ s.mirrored.applied ∧ (1, (64, 9)) ∈ s.mirrored.writes) ∧
    7 ∉ (stateT []).pod := by
  decide +kernel

/-- A group whose block is complete with one AMO's effect. -/
def amoT (sc : Scope) (new : Option (List Byte)) : Group :=
  runs [firedT (.amoAdd free .n64 .rlx ⟨1, sc, 0⟩) fun n => { n with eff := .amo 0xFFF8 0x10FFF8 (bytesOf 5 8) new sc false },
    firedT (.bri free 0) fun n => { n with exit := some (.br 64) }]

/-- AmoCommits: an AMO of the die and one of the package, with and without a new value. -/
theorem test_meets_AmoCommits :
    ∀ sc ∈ [Scope.die, .sys], ∀ new ∈ [none, some (bytesOf 6 8)], let g := amoT sc new; let s := stateT [g];
      s.group? here = some g ∧ g.phase = .running ∧ g.sb = [] ∧ s.foreign = [] ∧ Memory.wf s.mem = true ∧ s.ctxs.flatMap Ctx.migs = [] ∧
      (match exec (.blockComplete here) s with
        | .next t => match t.group? here with
          | some g' => decide (g'.count = g.count + 1)
          | none => false
        | _ => false) = true ∧
      (∀ k < 8, s.far (0x10FFF8 + k) = false) ∧ ∃ r n m, g.run = some r ∧ r.nodes = [] ++ n :: [m] ∧ n.st = .fired ∧ n.lsid < 32 ∧
        m.eff = .none ∧ n.eff = .amo 0xFFF8 0x10FFF8 (bytesOf 5 8) new sc false := by
  simp only [List.forall_mem_cons, List.not_mem_nil, false_imp_iff, implies_true, and_true]
  refine ⟨⟨?_, ?_⟩, ?_, ?_⟩ <;> exact ⟨rfl, rfl, rfl, rfl, rfl, rfl, by decide +kernel, by decide, _, _, _, rfl, rfl, rfl, by decide, rfl, rfl⟩

/-- ReinUnit: an image as it is without the stores of its group. -/
theorem test_meets_ReinUnit_image :
    OnS (poked 0x200 (wordsBytes (imageT [0xA000_0000_0000_0000] ++ [2, 0x0400_0000])) (atT (.rload free 1 0 0) (sTok 0x200) (sTok 0x228) none none))
      (.rload free 1 0 0) (fun e => let f : Env := { e with g := { e.g with sb := [] }, r := { e.r with nodes := [] } }
        ∃ hb cb, f.loadUnits 0x200 4 = .ok hb ∧ reinHeaderBad (bytesWords 4 hb) = false ∧
          ((bytesWords 4 hb).getD 1 0).extractLsb' 0 13 = 1 ∧ f.loadUnits 0x220 1 = .ok cb) :=
  ⟨_, _, _, _, ⟨rfl, rfl, by decide⟩, _, _, rfl, rfl, rfl, rfl⟩

/-! ## Commits of every held effect -/

/-- A node that holds an effect. -/
def effT (e : Effect) : Node := firedT (.gkill free 1 0) fun n => { n with eff := e }

/-- A complete block whose one effect is this, with its exit. -/
abbrev commitG (e : Effect) : Group := runs [effT e, firedT (.bri free 0) fun n => { n with exit := some (.br 64) }]

/-- A group that can commit the block at once. -/
abbrev Calm (g : Group) (e : Effect) : Prop :=
  g.phase = .running ∧ g.ctx = 0 ∧ g.sb = [] ∧ g.reports = [] ∧ g.fptrap = 0 ∧ g.run = (commitG e).run

/-- The block is complete and holds the effect. -/
theorem complete {e : Effect} {g : Group} {s : State} (hg : s.group? here = some g) (hc : (s.ctx? 0).isSome = true) (h : Calm g e) :
    ∃ r n, Claims.Complete s here g r 64 ∧ Claims.Holds r [] n e := by
  obtain ⟨p, c, sb, rp, fp, r⟩ := h
  refine ⟨runT [7, 9] [effT e, _], effT e, ⟨hg, p, r, ?_, sb, ⟨rp, fp⟩, ?_, rfl⟩, ⟨⟨_, rfl, ?_⟩, rfl, by show 1 < 32; decide, rfl, ?_⟩⟩
  · rw [c]
    exact Option.isSome_iff_ne_none.mp hc
  all_goals simp [effT, firedT, nodeT, freshNode, runT, Node.resolved]

/-- What a statement says of the commit, as a computation shows it. -/
def comesTo (s u : State) : Bool :=
  match exec (.blockComplete here) s with
  | .next t => decide (t =
      (State.endTurn ((((((u.setGroup here fun g => { g with count := g.count + 1, run := none, fails := 0, grace := false }).progress 0).refill
        here).release).setGroup here fun g => { g with
          next := 64, phase := .running, run := g.ahead.filter (fun b => b.addr == 64), ahead := none })) here))
  | _ => false

/-- The state with a group in it, without frames to draw. -/
abbrev calmly (g : Group) (f : State → State := id) : State := f (inCtx { ctxT with frames := [] } [g])

/-- A group of the block commits, and what its effect does comes of it. -/
def commitsTo (e : Effect) (f : Group → Group) (more u : State → State) : Bool :=
  let g := f (commitG e)
  let s := calmly g more
  decide (s.group? here = some g ∧ (s.ctx? 0).isSome = true ∧ Calm g e) && comesTo s (u s)

/-- The same where only the group changes. -/
def changesTo (e : Effect) (f u : Group → Group) : Bool := commitsTo e f id (·.setGroup here u)

/-- The group's stream register 0. -/
def streams (st : Stream) (g : Group) : Group := { g with s := g.s.set 0 (some st) }

/-- The group's ring 0. -/
def ring0 (r : Ring) (g : Group) : Group := { g with q := g.q.set 0 (some r) }

/-- Records 0 and 1 of a task edge from this group to the one there, and its element. -/
def edged (buf : List SElem) (s : State) : State :=
  { s with recs := [recT 0 producer, recT 1 consumer], groups := s.groups ++
      [{ groupT there none with task := 0x800080000, edges := [⟨0, 0, 8, 4, false, buf, false, 0⟩] }] }

/-- Bytes of the group's last window. -/
def window7 (off : Nat) (bs : List Byte) (g : Group) : Group := { g with win := g.win.set 7 { cells := Cells.write [] off bs } }

/-- BlockCompletion: FENCE, stores to a peer, rings, commands, streams, edges and a preparation, at the ends of their ranges. -/
theorem test_meets_CommitsOfTheGroup :
    changesTo (.fence .sys) id (fun y => { y with relFence := some .sys }) ∧
    changesTo (.fence .die) (fun g => { g with relFence := some .pod }) id ∧
    changesTo (.scratch [(⟨1, 7, 0xFFFF⟩, [5])]) id (fun y => { y with sb := [⟨.peer ⟨1, 7, 0xFFFF⟩, [5], 0, none⟩], entered := 1 }) ∧
    changesTo (.qinit 7 (emptyRing 64)) id (fun y => { y with q := y.q.set 7 (some (emptyRing 64)) }) ∧
    changesTo (.qpush 0 3 ⟨0, 7, 0xFFF8⟩ (bytesOf 9 8)) (ring0 { emptyRing 64 with tail := 65535 })
      (fun y => ring0 { emptyRing 64 with pres := [.empty, .present] } (window7 0xFFF8 (bytesOf 9 8) y)) ∧
    changesTo (.qpop 0 0) (ring0 ringT) (ring0 { ringT with head := 1, rel := 1, pres := [.empty, .empty] }) ∧
    changesTo (.qpop 0 1) (ring0 { ringT with pres := [.present, .present] }) (ring0 { ringT with head := 1, pres := [.present, .consumed] }) ∧
    changesTo (.matrix ⟨noTag, .mma .bf16 false 8 15 (.ring 0 0) (.ring 0 1) none, false, [], [], none⟩)
      (ring0 { ringT with head := 65535 }) (fun y => { ring0 { ringT with head := 1 } y with
        cmdSeq := 1, mq := [⟨noTag, .mma .bf16 false 8 15 (.ring 0 0) (.ring 0 1) none, false, [], [], none⟩] }) ∧
    changesTo (.copy { copyT [] [] with dst := .ring 0 1 }) (ring0 ringT) (fun y => { ring0 { ringT with tail := 2, pres := [.present, .filling] } y with
      cmdSeq := 1, cq := [{ copyT [] [] with dst := .ring 0 1 }] }) ∧
    changesTo (.sbind 0 streamT) id (streams streamT) ∧
    (let e := Effect.semit 0 [5] [⟨0xFFF8, 0x10FFF8, [5]⟩]; let g := streams streamT (commitG e); (calmly g).group? here = some g ∧ Calm g e) ∧
    commitsTo (.semit 0 [5] []) (streams edgeT) (edged []) (fun s => { s.setGroup here (streams { edgeT with moved := 1 }) with
      groups := (edged [.data [5] none] { s with groups := [streams { edgeT with moved := 1 } (commitG (.semit 0 [5] []))] }).groups }) ∧
    changesTo (.sunbind 0) (streams streamT) (fun y => { y with s := y.s.set 0 none }) ∧
    changesTo (.sunbind 0) (fun y => { streams { edgeT with out := false } y with edges := [⟨0, 0, 8, 4, false, [.data [5] none], false, 0⟩] })
      (fun y => { y with s := y.s.set 0 none, edges := [⟨0, 0, 8, 4, false, [], false, 0⟩] }) ∧
    commitsTo (.sunbind 0) (streams edgeT) (edged []) (fun s => (s.endEdge (recT 0 producer) 0).setGroup here fun y => { y with s := y.s.set 0 none }) ∧
    changesTo (.prep 0 ⟨0x1000, ⟨8, 8, 16, 8, 8⟩⟩ []) id (fun y => { y with
      prep := some ⟨0, ⟨0x1000, ⟨8, 8, 16, 8, 8⟩⟩, [], [], [], none, Claims.entering (commitG .none) (runT [7, 9] []) 0 (effT .none)⟩, cmdSeq := 1 }) := by
  decide +kernel

/-- BlockCompletion: a barrier set, one update and one that overflows. -/
theorem test_meets_CommitsOfTheGroup_barriers :
    commitsTo (.binit ⟨0, 7, 0xFFF0⟩ 65535) id id (fun s => s.setBar (commitG .none) ⟨0, 7, 0xFFF0⟩ ⟨0, 65535, 65535, false, false⟩) ∧
    commitsTo (.bupd ⟨0, 7, 0xFFF0⟩ 0 1) (window7 0xFFF0 (bytesOf (Barrier.num ⟨0, 2, 2, false, false⟩) 16)) id
      (fun s => s.setBar (commitG .none) ⟨0, 7, 0xFFF0⟩ ⟨0, 1, 2, false, false⟩) ∧
    (let g := window7 0xFFF0 (bytesOf (Barrier.num ⟨0, 2, 2, false, false⟩) 16) (commitG (.bupd ⟨0, 7, 0xFFF0⟩ 0 3)); let s := calmly g;
      (s.group? here = some g ∧ Calm g (.bupd ⟨0, 7, 0xFFF0⟩ 0 3)) ∧ ∃ k, ((s.bar g ⟨0, 7, 0xFFF0⟩).update 0 3).2 = some k) ∧
    (∃ m, (calmly (commitG .none)).memberAt (commitG .none) 0 = some m ∧ 7 < m.win.length ∧ Memory.wf (m.window 7).cells = true) := by
  refine ⟨by decide +kernel, by decide +kernel, ⟨by decide +kernel, _, rfl⟩, _, rfl, by decide, by decide⟩

/-- A READ's element is popped at the commit. -/
theorem test_meets_CommitsOfTheGroup_pop :
    let g := streams streamT (runs [firedT .nop fun n => { n with popped := some 0 }, firedT (.bri free 0) fun n => { n with exit := some (.br 64) }])
    let s := calmly g
    s.group? here = some g ∧ g.s.getD 0 none = some streamT ∧
      comesTo s (s.setGroup here fun y => { y with s := y.s.set 0 (some { streamT with buf := [], moved := 1 }) }) = true := by
  decide +kernel

/-- The words of a record for context 0. -/
def wordsT : List Word := [0, 0x1_0000_0001, 0, 0, 0, 0, 0, 0, 0, 0, 0, 0, 0, 0x10000] ++ List.replicate 18 0

/-- The heap's page 4 is reserved on CXL port 0. -/
def heapLeaf (s : State) : State :=
  { s with ctxs := s.ctxs.map fun x => { x with pte := (⟨3, 4⟩, 0x100_0000_03C6) :: x.pte, templates := [templateT], frames := [] } }

/-- A program registered for context 0 and a live instance of it. -/
def registered (s : State) : State :=
  { s with progs := [{ progT [0] with next := some 1 }], insts := [{ instT [] [] with key := 3 }], keys := 7 }

/-- BlockCompletion: ALLOC, a page command, a task created here and on another die, decrements of a stale, an own and a far handle, a
command of another package and an image. -/
theorem test_meets_CommitsBeyondTheGroup :
    commitsTo (.alloc 0x40000 64 .home) id heapLeaf (fun s => (s.setCtx 0 fun x => { x with allocs := [(0x40000, 64)] }).setCtx 0
      fun x => x.setLeaf 0x40000 .k64 0x3C6) ∧
    (heapLeaf (calmly (commitG .none))).placeWaits 0 0x40000 64 = false ∧
    commitsTo (.page .free 0x40000) id id (fun s => (s.setCtx 0 fun x => { x with
      pageCmds := [⟨.free, 0x40000, here, Claims.entering (commitG .none) (runT [7, 9] []) 0 (effT .none), none⟩] }).setGroup here
        fun y => { y with cmdSeq := 1 }) ∧
    (∀ die ∈ [0, 1], commitsTo (.tspawn ⟨die, 5, wordsT⟩) id id (fun s => State.progress { s with
      recs := [Claims.newRec s ⟨die, 5, wordsT⟩ 0] } 0) = true) ∧
    commitsTo (.tdec 0x800080000 3 true) id id (fun s => s.setCtx 0 fun y => { y with counters := { y.counters with dropDec := 3 } }) ∧
    commitsTo (.tdec 0x800080000 3 false) id id (fun s => { s with decs := [⟨0, 0x800080000, 3, none, 7, true⟩], keys := 1 }) ∧
    commitsTo (.tdec 0x0040_0008_0008_0000 3 false) id id (fun s => { s.setCtx 0 (fun x => { x with sent := 1 }) with
      outbox := [.decrement 0x0040_0008_0008_0000 3 none 7 0 none], keys := 1 }) ∧
    commitsTo (.remote 0x0040_0008_0008_0000 0 true) id id (fun s => { s with outbox := [.probe 0 0x0040_0008_0008_0000 7 .perform] }) ∧
    commitsTo (.rload 12 (imageT [0]) tableT 0 1 0x200) id id (fun s => { s with
      progs := [{ progT [0] with next := none, img := some 0x200 }] }) ∧
    (∀ die ∈ [0, 1], (calmly (commitG .none)).backBlocked (some here) die = false) := by
  decide +kernel

/-- BlockCompletion: pages committed and pinned, a graph instance, a start and an abort of a program's number. -/
theorem test_meets_CommitsBeyondTheGroup_more :
    (∀ h ∈ [PageHold.mk 0x10000 (some 32), ⟨0, none⟩], let e := Effect.commit .k64 true [h]; let g := commitG e; let s := calmly g;
      (s.group? here = some g ∧ Calm g e) ∧ ∃ x l, s.ctx? 0 = some x ∧ x.changing h.va = false ∧ s.leafOf 0 h.va .k64 = some l ∧
        l.extractLsb' 2 2 ≠ 3 ∧ (l.extractLsb' 56 8).toNat < 255 ∧ Memory.wf s.mem = true ∧ (l.extractLsb' 2 2 = 1 ↔ h.frame = some 32)) ∧
    (let e := Effect.tinst 5 9 [⟨0, 5, wordsT⟩, ⟨1, 5, wordsT⟩] [(0x40000, 64)] 0; let g := commitG e; let s := calmly g heapLeaf;
      (s.group? here = some g ∧ Calm g e) ∧ (s.ctx? 0).isSome = true ∧ s.backBlocked (some here) 0 = false ∧ s.placeWaits 0 0x40000 64 = false) ∧
    (let e := Effect.rstart 12 1 (List.replicate 8 0) ⟨0, 7, 0xFFF0⟩ true true true; let g := commitG e; let s := calmly g registered;
      (s.group? here = some g ∧ Calm g e) ∧ s.prog? 0 0 12 = some { progT [0] with next := some 1 }) ∧
    (let e := Effect.rabort 12 0; let g := commitG e; let s := calmly g registered;
      (s.group? here = some g ∧ Calm g e) ∧ s.prog? 0 0 12 = some { progT [0] with next := some 1 } ∧
      (s.instsOf 0 0 12).find? (fun y => y.n == 0) = some { instT [] [] with key := 3 } ∧ (instT [] []).began = true) ∧
    (let e := Effect.gresume 1 0 true; let g := commitG e; let q := { groupT there none with phase := .parked (.rerun 16) true, task := 1 };
      let s := calmly g fun s => { s with groups := s.groups ++ [q] };
      (s.group? here = some g ∧ Calm g e) ∧ s.groups.find? (fun y => y.task == 1 && y.rank == 0) = some q ∧ s.group? there = some q) := by
  refine ⟨?_, by decide +kernel, by decide +kernel, by decide +kernel, by decide +kernel⟩
  simp only [List.forall_mem_cons, List.not_mem_nil, false_imp_iff, implies_true, and_true]
  exact ⟨⟨by decide +kernel, _, _, rfl, by decide, rfl, by decide, by decide, by decide, by decide⟩,
    ⟨by decide +kernel, _, _, rfl, by decide, rfl, by decide, by decide, by decide, by decide⟩⟩

/-! ## Rein engines -/

/-- An instruction gives this state. -/
def nextIs (i : Instr) (s u : State) : Bool :=
  match exec i s with
  | .next t => decide (t = u)
  | _ => false

/-- A chunk of another number, and its name. -/
def rowIn (n : Nat) : Chunk := { chunkIn with n := n }

/-- Its name. -/
def rowName (n : Nat) : ChunkName := ⟨0, 7, 12, n, 0, 0, false, 0⟩

/-- The answer to it from this package. -/
def acked (n : Nat) (s : State) : State := Claims.answers s 0 (.chunkAck (rowName n)) (.ack 0 (rowName n))

/-- ReinSteps: every row of R369 at its ends, for a next number of 1. -/
theorem test_meets_ReinSteps_rows :
    (let s := reinT (instT [] []) [0];
      (∀ n ∈ [65535, 65534, 32769], nextIs (.chunkArrival 0 (rowIn n)) s (acked n s) = true) ∧
      (∀ n ∈ [1, 32768], nextIs (.chunkArrival 0 (rowIn n)) s s = true) ∧
      (∀ n ∈ [65534, 32769], 2 ≤ (1 + 65536 - 1 - n) % 65536 ∧ (1 + 65536 - 1 - n) % 65536 < 32768) ∧
      (∀ n ∈ [1, 32768], 32768 ≤ (1 + 65536 - 1 - n) % 65536) ∧ (s.instsOf 0 0 12).find? (fun y => y.n == 65535) = none) ∧
    (∀ st ∈ [InstSt.done, .aborted, .stopped], let s := { reinT (instT [] []) [0] with insts := [{ instT [] [] with st := st }, { instT [] [] with key := 1, n := 65535 }] };
      nextIs (.chunkArrival 0 (rowIn 0)) s (acked 0 s) = true) ∧
    (let s := reinT { instT [] [] with verified := [(1, 0, 0, 16)] } [0]; nextIs (.chunkArrival 0 (rowIn 0)) s (acked 0 s) = true) ∧
    (let s := reinT (instT [] []) [0]; s.jobProg 0 7 13 = none) := by
  decide +kernel

/-- A chunk that lands for an instance. -/
def landT (ch : Chunk) (i : Inst) (p : Prog := progT [0]) : State := { reinT i [0] with landings := [⟨3, 0, 0, ch⟩], progs := [p] }

/-- Its bytes have landed. -/
def landedT' (s : State) : State := { (s.landBytes 0 0 (Claims.buffer (progT [0]) 0 + 0xFDF0) (chunkXBytes chunkIn)).1 with landings := [] }

/-- It is verified. -/
def marked (s : State) : State := { s with insts := s.insts.map fun i => { i with verified := [(1, 0, 0xFDF0, 16)] } }

/-- A program whose landing area is not mapped. -/
def lostP : Prog := { progT [0] with words := [0x20000, 0xC000_C000_0000_0001, 0x8000, 0, 0] }

/-- ReinSteps: a tag that fails, a chunk verified before it lands, one verified, one credited, and one that meets a fault. -/
theorem test_meets_ReinSteps_landings :
    (let s := landT { chunkIn with crc := 0 } (instT [] []);
      nextIs (.chunkLand 0 3) s (Claims.answers (landedT' s) 0 (.chunkNak (rowName 0)) (.chunkNak 0 (rowName 0))) = true) ∧
    (let s := landT chunkIn { instT [] [] with verified := [(1, 0, 5, 16)] }; nextIs (.chunkLand 0 3) s (acked 0 (landedT' s)) = true) ∧
    (let s := landT chunkIn (instT [] []); nextIs (.chunkLand 0 3) s (acked 0 ((marked (landedT' s)).progress 0)) = true) ∧
    (let i := { instT [] [] with credit := true }; let s := landT chunkIn i; let g := groupT here none; s.group? i.who = some g ∧
      g.task = i.task ∧ g.ctx = i.ctx ∧
      nextIs (.chunkLand 0 3) s (acked 0 ((Claims.credit g i.tag (-16) 0 (marked (landedT' s)) i.bar).progress 0)) = true) ∧
    (let s := landT chunkIn (instT [] []) lostP; s.areaBlocked 0 0 (Claims.buffer lostP 0 + 0xFDF0) 16 = false ∧
      (let y := s.landBytes 0 0 (Claims.buffer lostP 0 + 0xFDF0) (chunkXBytes chunkIn); y.2 = some (0x2FDF0, 0x088) ∧ y.1.insts = s.insts)) := by
  decide +kernel

/-- An image with the Stage bit. -/
def stagedP : Prog := ⟨0, 0, 12, [0x100, 0x100_0000_0000_0000 ||| 1, 0x8000, 0, 0], tableT, 0, 0, some 1, none⟩

/-- ReinSteps: a staging copy at first and on a rerun; one that an abort has waited for. -/
theorem test_meets_ReinSteps_staging :
    (∀ again ∈ [false, true], let i := { instT [] [] with began := false, rerun := again }; let s := { reinT i [0] with progs := [stagedP] };
      (stagedP.words.getD 1 0).getLsbD 56 = true ∧ s.areaBlocked 0 0 (Claims.buffer stagedP 0) (stagedP.s * 65536) = false ∧
      nextIs (.instanceStart 0 0) s { s.progress 0 with insts := s.insts.map fun i => { i with began := true } } = true) ∧
    (let i := { instT [] [] with began := false, doomed := true }; let s := { reinT i [0] with progs := [stagedP] };
      (match exec (.instanceStart 0 0) s with
        | .next t => t.insts.map Inst.st
        | _ => []) = [.aborted]) := by
  decide +kernel

/-- ReinEnds: DONE with an arrival on a barrier of its starter; every kind of instruction at the last place. -/
theorem test_meets_ReinEnds_arrival :
    (let i := { instT [] [] with arrive := true }; let s := reinT i [0]; let g := groupT here none; Claims.Runs s i (progT [0]) ∧ i.out = [] ∧
      s.group? i.who = some g ∧ g.task = i.task ∧ g.ctx = i.ctx ∧
      (match exec .done s with
        | .next t => decide (t.groups = (Claims.credit g i.tag 0 1 s i.bar).groups)
        | _ => false) = true) ∧
    (let i := { instT [1] chunkT with sigs := [(1, 1)], verified := [(1, 0, 0, 16)] }; let s := reinT i [0];
      Claims.Runs s i (progT [0]) ∧ i.idx + 1 = (progT [0]).words.length - 4 ∧ (Claims.gr i 0).toNat < i.size ∧
      i.verified.find? (fun v => v.1 == 1 && v.2.1 == 0) = some (1, 0, 0, 16) ∧ i.out.length < 16 ∧
      ∀ e ∈ [Instr.nop, .movg 0 1, .peer 0 1 .ring, .bnz 1 0, .setchunk 0 1 2 0, .addc 0 1, .reinFence, .wait 0, .reinSignal 0, .recv 2 0,
          .tagchk 0 0, .send 0 0 1, .copy 2 0, .reduce 2 0 0 .sum (.i .n8)],
        (match exec e (if e = .copy 2 0 ∨ e = .reduce 2 0 0 .sum (.i .n8) then reinT { i with c := i.c.set 2 ⟨0, 0xFFE0, 16⟩ } [0] else s) with
          | .next t => t.insts.map Inst.st
          | _ => []) = [.stopped]) ∧
    ((0 : Int) = (instT [] []).idx + (0 : BitVec 32).toInt ∧ 0 < (progT [0]).words.length - 4) := by
  refine ⟨⟨⟨rfl, rfl, rfl, rfl⟩, by decide +kernel⟩, ⟨⟨rfl, rfl, rfl, rfl⟩, by decide +kernel⟩, by decide +kernel⟩

/-! ## Ends of tasks -/

/-- Record 1 with two inline successors, one of package 1, and a list of `n` at the address, in a state and with flags. -/
def endingT (flags : Word) (counter : Nat) (list : Word) (n : Nat) : TaskRec :=
  { recT 1 ([0, BitVec.ofNat 64 (0x2001_0000_0000 + counter), list, BitVec.ofNat 64 n, 0, taskH, farH] ++ List.replicate 6 0 ++
      [0x10000 ||| flags]) with groupsLeft := 0 }

/-- It stands alone in a pod of two packages; its list of two names itself, and then no record. -/
def endingIn (r : TaskRec) : State :=
  { poked 0x108 (bytesOf 0xFFFF 8) (poked 0x100 (bytesOf 0x800080000 8) (inCtx { ctxT with frames := [] } [])) with recs := [r], pod := [0, 1] }

/-- A member of an instance, whose number is 65,536 below another's. -/
def memberT (live : Nat) : TaskRec :=
  { recT 1 [0, 0x1_0000_0001, 0, 0, 0, 0, 0, 0, 0, 0, 0, 0, 0, 0x3_0001_000C, BitVec.ofNat 64 (live * 2 ^ 32 + 0x1005)] with
    groupsLeft := 0, num := 3 }

/-- The instance, with a buffer. -/
def memberOfT : GInst := ⟨5, 3, taskH, [taskH], [(0x40000, 64)], taskH, false, false⟩

/-- DecrementSteps: a decrement of more than the counter, one of less, failures and one of a record whose fail flag stands; a
message that ends the hold whose place it takes. -/
theorem test_meets_DecrementSteps_failures :
    (∀ d ∈ [(DecGoing.mk 5 taskH 3 none 7 false, endingT 0 2 0 0), (⟨5, taskH, 1, some 0x184, 7, false⟩, endingT 0 2 0 0),
        (⟨5, taskH, 2, some 511, 7, true⟩, endingT 0 2 0 0), (⟨5, taskH, 3, none, 7, false⟩, endingT 0x3090 2 0 0)],
      let s := { endingIn d.2 with decs := [⟨9, farH, 1, none, 7, false⟩, d.1], podHolds := [⟨1, 5, taskH, 3, none⟩] }
      s.target taskH = some d.2 ∧ s.tagOf d.2.ctx = 7 ∧ s.rec? 0 1 = some d.2 ∧ d.2.words.length = 32 ∧ d.2.counter ≠ 0 ∧ d.2.state = 0 ∧
        s.decs.find? (fun d => d.key == 5) = some d.1 ∧ (s.decs.takeWhile fun (x : DecGoing) => x.key != 5).any (fun x => x.handle == taskH) = false ∧
        s.decsWait taskH = false ∧ d.2.signals ≠ d.2.gang ∧ d.2.isMember = false ∧ d.2.signalled = false ∧ d.2.w 3 = 0 ∧ s.foreign = [] ∧
        s.failedPkgs = [] ∧ 1 ∈ s.pod ∧ s.applied = [] ∧ s.later = []) ∧
    (endingT 0x3090 2 0 0).failFlag = true ∧ (endingT 0x3090 2 0 0).failCause = 388 := by
  decide +kernel

/-- TaskEnds: done and failed, with a list that is read whole, one of an ill-formed second entry and one that is not mapped; all its
groups have signalled; a member that is not the last of its instance, and the last. -/
theorem test_meets_TaskEnds :
    (∀ r ∈ [endingT 4 1 0x100 1, { endingT 4 1 0x100 2 with anyKilled := some 511 }, endingT 5 1 0x2FFF0 1,
        { endingT 4 1 0 0 with anyKilled := some 0x184, signals := 1 }, endingT 12 1 0 0, memberT 2, memberT 1,
        { memberT 1 with anyKilled := some 0x184 }],
      let s := endingIn r
      s.rec? 0 1 = some r ∧ r.words.length = 32 ∧ (r.state = 4 ∨ r.state = 5) ∧ r.groupsLeft = 0 ∧ s.decsWait (r.handle s.pkgNum) = false ∧
        (r.w 2).toNat % 16 = 0 ∧ s.foreign = [] ∧ s.poison = [] ∧ s.failedPkgs = [] ∧ ∀ c ∈ r.anyKilled, c < 512) ∧
    (let r := endingT 4 1 0x100 2; let s := endingIn r; Claims.Entry s r 0 taskH ∧ s.handleWf taskH = true ∧
      Claims.Entry s r 1 0xFFFF ∧ s.handleWf 0xFFFF = false ∧ s.translate 0 0x2FFF0 .load = .fault 0x088) ∧
    (∀ live ∈ [1, 2], let r := memberT live
      let s := { endingIn r with ctxs := [{ ctxT with frames := [], ginsts := [{ memberOfT with num := 65539 }, memberOfT] }] }
      r.isMember = true ∧ r.signalled = true ∧ (∃ x, s.ctx? r.ctx = some x ∧
        x.ginsts.find? (fun y => y.tid == r.tid && y.num == r.num && !y.complete) = some memberOfT) ∧ 1 ≤ r.live) := by
  refine ⟨by decide +kernel, ⟨⟨0x100100, rfl, rfl, by decide +kernel⟩, by decide, ⟨0x100100, rfl, rfl, by decide +kernel⟩, by decide, rfl⟩, ?_⟩
  simp only [List.forall_mem_cons, List.not_mem_nil, false_imp_iff, implies_true, and_true]
  exact ⟨⟨by decide, by decide, ⟨_, rfl, rfl⟩, by decide⟩, ⟨by decide, by decide, ⟨_, rfl, rfl⟩, by decide⟩⟩

/-! ## Engines -/

/-- An MMA of a ring's first entry and of rows gathered from memory, which arrives on a barrier, and rows of a page that is not
mapped. -/
def gatheredT (base : Nat) (ws : List Way) : MatCmd :=
  ⟨noTag, .mma .bf16 false 8 15 (.ring 0 0) (.rows base 7 0xFE00) (some ⟨0, 7, 0xFFF0⟩), true, ws, [], none⟩

/-- An MST of e4m3 rows that overlap by all but 16 bytes, to scratch or to the last two whole rows' place in memory. -/
def mstT (scr : Option ScrAt) (ws : List Way) : MatCmd :=
  ⟨noTag, .mst ⟨15, true, false, true, 1, .e4m3, .rne, true, 0⟩ scr 0x100 (some ⟨0, 7, 0xFFF0⟩) 0 0, true, ws, [], none⟩

/-- A group of the head command, its ring full. -/
abbrev drives (c : MatCmd) : Group := ring0 ringT (engaged [c] [])

/-- EngineSteps: an MMA whose operands are a ring's entry and gathered rows, a row that cannot be read, an MST in each place, a copy
that credits two barriers. -/
theorem test_meets_EngineSteps_operands :
    (∀ b ∈ [0, 0x2FFF0], ∀ n ∈ [0, 2048], let c := gatheredT b (List.replicate n (.read 0 false)); let g := drives c; let s := stateT [g];
      s.group? here = some g ∧ g.mq = [c] ∧ Claims.ringThere g (.ring 0 0) ∧ Claims.ringThere g (.rows b 7 0xFE00) ∧ c.ways.length ≤ 4096 ∧
      ∃ j < 4096, (c.ways ++ List.replicate (4096 - c.ways.length) Way.left).getD j .left = .left) ∧
    (let g := drives (gatheredT 0 []); let s := stateT [g]; (∃ x, Claims.opndBytes s g (.ring 0 0) 0xFFF0 16 = .ok x ∧ x.2.groups = s.groups) ∧
      (∃ x, Claims.opndBytes s g (.rows 0 7 0xFE00) (Claims.opndAt s g 16 (.rows 0 7 0xFE00) 0) 16 = .ok x ∧ x.2.groups = s.groups) ∧
      ∃ e, Claims.opndBytes s g (.rows 0x2FFF0 7 0xFE00) (Claims.opndAt s g 16 (.rows 0x2FFF0 7 0xFE00) 0) 16 = .error e ∧ e.under = 0x088) ∧
    (∀ scr ∈ [none, some ⟨0, 7, 0⟩], let c := mstT scr []; let g := drives c; let s := stateT [g];
      s.group? here = some g ∧ g.mq = [c] ∧ c.ways.length ≤ 16384 ∧
      (∃ j < 16384, (c.ways ++ List.replicate (16384 - c.ways.length) Way.left).getD j .left = .left) ∧
      s.xblocked none (some here.die) g.ctx (0x100 + 0) 112 .engineWrite = false ∧
      ∃ t, s.xwriteMore (some here.die) g.ctx (0x100 + 0) (List.replicate 112 (0, false)) [] .engineWrite = .ok t ∧ t.groups = s.groups) ∧
    (∃ x, (stateT []).xwriteMore (some 0) 0 0x2FFF0 [(0, false)] [] .engineWrite = .error x ∧ x.2 = 0x088) ∧
    (∀ j < 16384, (List.replicate 16384 (Way.put false)).getD j .left ≠ .left) ∧
    (let c := { copyT [0] [(1, List.replicate 15 (Way.put false) ++ [.read 7 false])] with credit := [⟨0, 7, 0x100⟩, ⟨0, 7, 0x200⟩] }
      let g := engaged [] [c]; let s := stateT [g]; s.group? here = some g ∧ g.cq.find? (fun c => c.id == 0) = some c ∧ c.mayDo 1 = true ∧
      c.piece 1 = (1, 0, 16) ∧ s.pieceBlocked g c 1 15 1 = false ∧ ∃ t, s.pieceWrite g c 1 15 0 [(7, false)] [] = .ok t) := by
  refine ⟨?_, ⟨⟨_, rfl, rfl⟩, ⟨_, rfl, rfl⟩, _, rfl, by decide +kernel⟩, ?_, ⟨_, rfl, by decide +kernel⟩, ?_,
    rfl, rfl, by decide +kernel, by decide +kernel, by decide +kernel, _, rfl⟩
  · simp only [List.forall_mem_cons, List.not_mem_nil, false_imp_iff, implies_true, and_true]
    have left (n : Nat) (k : n < 4096) : (List.replicate n (Way.read 0 false) ++
        List.replicate (4096 - (List.replicate n (Way.read 0 false)).length) Way.left).getD n .left = .left := by
      simp [List.getD, List.getElem?_append, List.getElem?_replicate, Nat.sub_pos_of_lt k]
    have h (b n : Nat) (k : n < 4096) : let c := gatheredT b (List.replicate n (.read 0 false)); let g := drives c; let s := stateT [g];
      s.group? here = some g ∧ g.mq = [c] ∧ Claims.ringThere g (.ring 0 0) ∧ Claims.ringThere g (.rows b 7 0xFE00) ∧ c.ways.length ≤ 4096 ∧
      ∃ j < 4096, (c.ways ++ List.replicate (4096 - c.ways.length) Way.left).getD j .left = .left := by
      refine ⟨rfl, rfl, fun q t e => ?_, fun q t e => (by cases e), ?_, n, k, left n k⟩
      · cases e
        exact Option.some_ne_none _
      · exact Nat.le_of_lt ((List.length_replicate ..).symm ▸ k)
    exact ⟨⟨h _ _ (by decide), h _ _ (by decide)⟩, h _ _ (by decide), h _ _ (by decide)⟩
  · simp only [List.forall_mem_cons, List.not_mem_nil, false_imp_iff, implies_true, and_true]
    exact ⟨⟨rfl, rfl, by decide, ⟨0, by decide, rfl⟩, by decide +kernel, _, rfl, rfl⟩, rfl, rfl, by decide, ⟨0, by decide, rfl⟩, by decide +kernel, _, rfl, rfl⟩
  · have h (n j : Nat) (k : j < n) : (List.replicate n (Way.put false)).getD j .left ≠ .left := by
      simp [List.getD, List.getElem?_replicate, k]
    exact h _

/-! ## Steps of the memory -/

/-- MemorySteps: a store to a peer's last bytes, a release at the mapped page's end with a dirty line of its die, an invalidation
that a Map waits for. -/
theorem test_meets_MemorySteps_more :
    (∃ g x, (stateT [{ groupT here none with sb := [⟨.peer ⟨0, 7, 0xFFF8⟩, bytesOf 5 8, 0, none⟩] }]).group? here = some g ∧ g.sb = [x] ∧
      x.dest = .peer ⟨0, 7, 0xFFF8⟩ ∧ x.rel = none) ∧
    (let g := { groupT here none with sb := [⟨.phys 0x10FFF8, bytesOf 5 8, 0xFFF8, some .sys⟩] }
      let s := { stateT [g] with foreign := [⟨0, 0x21FF, List.replicate 128 7, 3, []⟩, lineT] }
      s.group? here = some g ∧ g.phase = .running ∧ g.sigAt = none ∧ s.leaseMeets (some here) here.die none 0x10FFF8 8 = false ∧
      s.backBlocked (some here) here.die = false ∧ Memory.wf s.mem = true ∧ s.ctxs.flatMap Ctx.migs = [] ∧
      ∀ k < 8, s.far (0x10FFF8 + k) = false) ∧
    (let i : Inval := ⟨0x40000, 65536, 0x100_0000_03C6, some 1⟩; let x := { ctxT with frames := [], invals := [i] }; let m := sends 0x0D 1 []
      let q := { queueT 1 (some 1) 2 with doing := some m }; let s := { inCtx x [groupT here none] with queues := [q] }
      s.ctx? 0 = some x ∧ x.invals.find? (fun i => s.drained 0 i.va i.size) = some i ∧ (∀ j ∈ x.invals.erase i, j.map ≠ some 1) ∧
      (s.linesIn (leafPa i.old / 65536) (i.size / 65536)).any s.lineBlocked = false ∧ s.queue? 1 = some q ∧
      (m.h0.extractLsb' 32 16).toNat = 1 ∧ m.h0.getLsbD 25 = false) := by
  exact ⟨⟨_, _, rfl, rfl, rfl, rfl⟩, by decide +kernel, by decide +kernel⟩

/-! ## Settling -/

/-- A block of four nodes: node 0 feeds nodes 1 and 2, and those node 3. -/
def fourT : List Node :=
  [nodeT (.neg ⟨.off, .to .l 1, .to .g 2⟩ .s8 false) (sTok 1) none none none,
    { nodeT (.neg ⟨.off, .to .r 3, .off⟩ .s8 false) none none none none with st := .waiting },
    nodeT (.neg ⟨.any true, .to .l 3, .off⟩ .s8 false) (sTok 2) none none none, nodeT (.add free .s8 (.p false)) none none none none]

/-- SettlesItsBlock: the block in turn and one ahead; node 3 is void once nodes 1 and 2 are. -/
theorem test_meets_SettlesItsBlock :
    (∀ ahead : Bool, let r := runT [] fourT; let g := if ahead then { groupT here none with ahead := some r } else groupT here (some r)
      let s := { stateT [g] with turn := if ahead then .ahead here else .group here }
      s.group? here = some g ∧ (if ahead then g.ahead else g.run) = some r ∧ r.nodes[r.cur]? = some (fourT.headD (freshNode 0 .nop)) ∧
      ((State.resolveVoid s here (.neg ⟨.off, .to .l 1, .to .g 2⟩ .s8 false)).group? here).isSome = true) ∧
    Claims.IsVoid 1 (nodeT (.add free .s8 (.p false)) (some .void) (some .void) none none) := by
  refine ⟨by decide +kernel, ?_, .inr ⟨.void, List.mem_cons_self, by decide⟩⟩
  decide

/-! ## Atomics and fences -/

/-- Atomics: one of a wide scope that is no acquire, with its line's copy and another in its die. -/
theorem test_meets_Atomics_wide :
    OnS { atT (.amoAdd free .n64 .rlx ⟨1, .sys, 0⟩) (sTok 0xFFF8) (sTok 5) none none with
        foreign := [⟨0, 0x21FF, List.replicate 128 7, 3, []⟩, ⟨0, 0x21FE, List.replicate 128 7, 3, []⟩] }
      (.amoAdd free .n64 .rlx ⟨1, .sys, 0⟩) (fun e => (0x10FFF8 + 8 - 1) / 128 = 0x10FFF8 / 128 ∧ e.loadReady = true ∧
        Claims.Maps e.s e.g .atomic 8 0xFFF8 0x10FFF8 ∧ e.s.leaseMeets (some here) 0 (e.s.point 0 0x10FFF8 true) 0x10FFF8 8 = false ∧
        e.firstAsked (e.s.point 0 0x10FFF8 true) 0x10FFF8 8 = true ∧ e.s.linesBlocked (some here) 0 0x10FFF8 8 = false ∧
        (e.readPhys (e.amoState true false 0x10FFF8 8) true 0x10FFF8 8).2 = none) :=
  ⟨_, _, _, _, ⟨rfl, rfl, by decide⟩, by decide, rfl, ⟨by decide, by decide, rfl⟩, by decide +kernel, by decide +kernel, by decide +kernel,
    by decide +kernel⟩

/-- CommitMemory: a store of own scratch and a push, after FENCE.rel, with an earlier store in the buffer and a dirty line. -/
theorem test_meets_CommitMemory_fence :
    ∀ e ∈ [Effect.scratch [(⟨0, 7, 0xFFF8⟩, bytesOf 5 8)], .qpush 0 0 ⟨0, 7, 0⟩ (bytesOf 5 8)],
      let g := ring0 (emptyRing 64) { commitG e with relFence := some .sys, sb := [⟨.phys 0x10FFF8, bytesOf 5 8, 0xFFF8, none⟩] }
      let s := { calmly g with foreign := [⟨0, 0x21FE, List.replicate 128 7, 3, []⟩] }
      s.group? here = some g ∧ g.phase = .running ∧ (match exec (.blockComplete here) s with
        | .next t => (t.group? here).map Group.count
        | _ => none) = some (g.count + 1) := by
  decide +kernel

/-! ## Rein commands and reads of far memory -/

/-- ReinCommands: of an id that is not registered, and of the number of an instance that is over and not the last. -/
theorem test_meets_ReinCommands_refused :
    OnS (atT (.rstart free 1 true false false 12) (sTok 0) (sTok 1) (sTok last) none) (.rstart free 1 true false false 12) (fun e =>
      e.s.prog? 0 0 12 = none ∧ e.pendingLower isRein = false ∧ e.s.saddr e.g false 0 0 64 64 = .ok ⟨0, 0, 0⟩ ∧
        (∃ b, e.s.saddr e.g false last 0 16 16 = .ok b) ∧ e.loadReady = true ∧ ∃ bs, e.readScr ⟨0, 0, 0⟩ 64 = (bs, none)) ∧
    OnS (atT (.rabort free 1 12) (sTok 1) none none none) (.rabort free 1 12) (fun e => e.s.prog? 0 0 12 = none ∧ e.pendingLower isRein = false) ∧
    OnS { atT (.rabort free 1 12) (sTok 65535) none none none with progs := [progT []], insts := [{ instT [] [] with st := .done, n := 65535 }] }
      (.rabort free 1 12) (fun e => e.s.prog? 0 0 12 = some (progT []) ∧ e.pendingLower isRein = false ∧
        (∀ x ∈ e.s.insts, x.n = 65535 → x.st = .done ∨ x.st = .aborted) ∧ (progT []).next ≠ some ((65535 + 1) % 65536)) :=
  ⟨⟨_, _, _, _, ⟨rfl, rfl, by decide⟩, rfl, rfl, rfl, ⟨_, rfl⟩, rfl, _, rfl⟩, ⟨_, _, _, _, ⟨rfl, rfl, by decide⟩, rfl, rfl⟩,
    ⟨_, _, _, _, ⟨rfl, rfl, by decide⟩, rfl, rfl, by decide, by decide⟩⟩

/-- The mapped page's frame is one of CD1. -/
def onCd1 (s : State) : State :=
  { s with
    mem := s.mem.map fun c => (c.1 + 2 ^ 37, c.2)
    ctxs := s.ctxs.map fun x => { x with pte := [(⟨1, 0⟩, 1), (⟨2, 0⟩, 1), (⟨3, 0⟩, 0x200010_01CA)] } }

/-- Relays: a descriptor homed at another die, whose line comes with it. -/
theorem test_meets_Relays_far :
    OnS (onCd1 (poked 0 descT (atT (.relaySig free 1) (sTok 0) (sTok 0) none none))) (.relaySig free 1) (fun e =>
      e.loadReady = true ∧ (∃ ds, e.loadUnits 0 8 = .ok ds ∧ parseDesc (bytesWords 8 ds) = some ⟨0x1000, ⟨8, 8, 16, 8, 8⟩⟩) ∧
      (e.bring 0 8 e.s).foreign.map FLine.line = [(2 ^ 37 + 0x100000) / 128]) :=
  ⟨_, _, _, _, ⟨rfl, rfl, by decide⟩, rfl, ⟨_, rfl, rfl⟩, by decide +kernel⟩

/-! ## Errors -/

/-- ErrorSteps: an error of a row of stack 0 at a granule of stack 1, and one of a tile's L1 at the last granule. -/
theorem test_meets_ErrorSteps_rows :
    ((0x3 : Word).extractLsb' 0 4 = 3 ∧ ((0x3 : Word).extractLsb' 16 3).toNat ≠ 8 * 64 / 2 ^ 37 % 4 * 2 + 8 * 64 / 512 % 2) ∧
    ((0x70003 : Word).extractLsb' 0 4 = 3 ∧ ((0x70003 : Word).extractLsb' 16 3).toNat ≠ 7 * 64 / 2 ^ 37 % 4 * 2 + 7 * 64 / 512 % 2) ∧
    unitOk 0x40000 = true ∧ (stateT []).liesIn 0x40000 (.phys (2 ^ 46 - 1)) = true := by
  decide +kernel

/-! ## Steps -/

/-- StepRuns: an image in memory whose second word is another than RLOAD read. -/
theorem test_meets_StepRuns_image :
    let pr := { progT [0xA000_0000_0000_0000, 0] with img := some 0x200 }
    let s := poked 0x200 (wordsBytes (imageT [0xA000_0000_0000_0000, 0x0D00_0000_0000_0001])) (stateT [])
    pr.words.length - 4 = 2 ∧ reinWordCause 2 1 0x0D00_0000_0000_0001 = none ∧ ∃ bs t, s.xread (some 0) 0 (0x200 + 32 + 8 * 1) 8 .engineRead = .ok (bs, t) ∧
      (∀ b ∈ bs, b.2 = false) ∧ BitVec.ofNat 64 (ofBytes (bs.map Prod.fst)) = (0x0D00_0000_0000_0001 : Word) := by
  exact ⟨rfl, rfl, _, _, rfl, by decide +kernel, by decide +kernel⟩

/-! ## Maps and translations -/

/-- Page 1 of the context is committed with three pins, page 2 reserved. -/
def mappedT : Ctx := { ctxT with frames := [], pte := [(⟨1, 0⟩, 1), (⟨2, 0⟩, 1), (⟨3, 1⟩, 0x300_0000_0010_01CA), (⟨3, 2⟩, 0x3C6)] }

/-- ContextCommands: a Map of three pages over two, an emptying of them, and one of three that are empty. -/
theorem test_meets_MapsPages :
    (∀ w ∈ [[(0x10000 : Word), 0x210000, 3, 0x32], [0x10000, 0, 3, 0x100]], Starts 0x0E 1 w (inCtx mappedT []) (fun s =>
      s.ctx? 0 = some mappedT ∧ s.mapBad mappedT 0x10000 (w.getD 1 0).toNat 3 ((w.getD 3 0).extractLsb' 0 8).toNat ((w.getD 3 0).getLsbD 8) = false ∧
      (w.getD 3 0).extractLsb' 9 55 = 0 ∧ mappedT.pagesIn 0x10000 0x40000 ≠ [] ∧ (∀ p ∈ mappedT.pagesIn 0x10000 0x40000, s.leafOf 0 p.1 p.2.1 = some p.2.2) ∧
      ∀ k < 3, mappedT.pteAt 1 ((0x10000 + k * 65536) / 2 ^ 39) ∈ [(0 : Word), 1] ∧ mappedT.pteAt 2 ((0x10000 + k * 65536) / 2 ^ 30) ∈ [(0 : Word), 1])) ∧
    Starts 0x0E 1 [0x50000, 0, 3, 0x100] (inCtx mappedT []) (fun s => s.mapBad mappedT 0x50000 0 3 0 true = false ∧ mappedT.pagesIn 0x50000 0x80000 = []) := by
  simp only [List.forall_mem_cons, List.not_mem_nil, false_imp_iff, implies_true, and_true]
  refine ⟨⟨?_, ?_⟩, ?_⟩ <;> exact ⟨⟨⟨by decide, _, rfl, rfl⟩, rfl, rfl, by decide +kernel⟩, by decide +kernel⟩

/-- A context of these tables. -/
def tabled (l : List (PteKey × Word)) : Ctx := { ctxT with pte := l }

/-- A 2 MiB group of a leaf at 0x200000, with its entry `odd` another one. -/
def groupLeaf (e : Word) (odd : Nat) : Ctx :=
  tabled ([(⟨1, 0⟩, 1), (⟨2, 0⟩, 1)] ++ (List.range 32).map fun k => (⟨3, 32 + k⟩, if k = odd then e ||| 0x40 else e))

/-- Translation: leaves of 2 MiB and 1 GiB; walks to an empty entry and to a malformed one of each level. -/
theorem test_meets_Translation_sizes :
    Claims.LeadsToLeaf (groupLeaf 0x40009A 32) 0x3FFFFF 1 0x40009A ∧ (inCtx (groupLeaf 0x40009A 32) []).translate 0 0x3FFFFF .store = .ok 0x5FFFFF ∧
    Claims.LeadsToLeaf (tabled [(⟨1, 0⟩, 1), (⟨2, 1⟩, 0x4000_006A)]) 0x7FFFFFFF 2 0x4000_006A ∧
    (inCtx (tabled [(⟨1, 0⟩, 1), (⟨2, 1⟩, 0x4000_006A)]) []).translate 0 0x7FFFFFFF .load = .ok 0x7FFFFFFF ∧
    Claims.LeadsNowhere (tabled []) 0 ∧ Claims.LeadsNowhere (tabled [(⟨1, 0⟩, 0x1001)]) 0 ∧ Claims.LeadsNowhere (tabled [(⟨1, 0⟩, 1), (⟨2, 0⟩, 0x20001)]) 0 ∧
    Claims.LeadsAstray (tabled [(⟨1, 0⟩, 2)]) 0 ∧ Claims.LeadsAstray (tabled [(⟨1, 0⟩, 1), (⟨2, 0⟩, 0x1001)]) 0 ∧
    Claims.LeadsAstray (tabled [(⟨1, 0⟩, 1), (⟨2, 0⟩, 0x4001_006A)]) 0 ∧ Claims.LeadsAstray (tabled [(⟨1, 0⟩, 1), (⟨2, 0⟩, 1), (⟨3, 0⟩, 1)]) 0 ∧
    (Claims.LeafEntry 1 0x40009A ∧ ¬ Claims.LeafEntry 0 0x40009A ∧ ¬ Claims.Whole (groupLeaf 0x40009A 31) 0x200000 0x40009A) ∧
    Claims.Reaches (inCtx (leafT 0x400_0010_01CA) []) .load (2 ^ 39) (.fault 0x08D) := by
  refine ⟨⟨by decide, .inr ⟨by decide, by decide, .inr ⟨rfl, by decide, by decide⟩⟩⟩, by decide +kernel, ⟨by decide, .inl ⟨rfl, by decide, by decide⟩⟩,
    by decide +kernel, .inl rfl, .inr ⟨by decide, .inl rfl⟩, .inr ⟨by decide, .inr ⟨by decide, rfl⟩⟩,
    .inl ⟨by decide, by decide⟩, .inr ⟨by decide, .inl ⟨⟨by decide, by decide⟩, by decide⟩⟩,
    .inr ⟨by decide, .inl ⟨⟨by decide, by decide⟩, by decide⟩⟩, .inr ⟨by decide, .inr ⟨by decide, by decide, by decide, fun h => absurd h.1 (by decide)⟩⟩,
    ⟨by decide, by decide, fun h => absurd (h.2 31 (by decide)) (by decide)⟩, ?_⟩
  exact ⟨fun h => absurd (by decide) h, fun _ => rfl, fun _ h => absurd h (by decide), fun p o _ _ h => absurd h (by omega)⟩

/-- DeviceSteps: an atomic of a clean granule and of a poisoned one. -/
theorem test_meets_DeviceSteps_atomics :
    ∀ l ∈ [[], [0x100000 / 64]], let s := { stateT [] with pod := [0, 1], poison := l }; 1 ∈ s.pod ∧ 0x100000 % 8 = 0 ∧
      s.remoteOk 0x100000 8 = true ∧ (∀ k < 8, s.leaseHit none none (0x100000 + k) 1 = false) ∧ (0x100000 / 64 ∈ s.poison ↔ l ≠ []) := by
  decide +kernel

end Sys2Proof.Tests
end

section
/-!
PROOF. The number formats (03 R54 to R66): what exact sums and products are, what rounding does to a magnitude that stands
on its own spacing, and from these the statement on the formats.
-/
namespace Sys2Proof.Machine

/-! ## NaNs, infinities and the sign -/

theorem Fv.isNan_iff {x : Fv} : x.isNan = true ↔ ∃ sig, x = .nan sig := by
  cases x <;> simp [Fv.isNan]

/-- 05 R117: the subtrahend's inverted sign changes nothing of a NaN. -/
@[simp] theorem Fv.isNan_flip (x : Fv) : x.flip.isNan = x.isNan := by
  cases x <;> rfl

@[simp] theorem Fv.isSig_flip (x : Fv) : x.flip.isSig = x.isSig := by
  cases x <;> rfl

@[simp] theorem FpFlags.or_noFlag (a : FpFlags) : a.or {} = a := by
  simp [FpFlags.or]

/-- 03 R56, R66: where the format has a NaN, an exact NaN becomes the canonical one, with the flags gathered so far. -/
theorem fFinish_nan {t : FTy} {q : Nat} (hq : fNan t = some q) (m : RMode) (fl : FpFlags) :
    fFinish t m (.nan false, fl) = ⟨q, fl⟩ := by
  have hround : fRound t m (.nan false) = ⟨q, {}⟩ := by simp [fRound, nanInto, hq]
  simp [fFinish, hround, FpOut.withFl]

/-! ## Exact sums (03 R62) -/

/-- A NaN among the summands makes the sum a NaN, invalid when one of them signals. -/
theorem exactSum_of_nan (rnd : Rnd) {l : List Fv} (h : l.any Fv.isNan = true) :
    exactSum rnd l = (.nan false, { nv := l.any Fv.isSig }) := by
  simp only [exactSum, h, if_true]

/-- Infinities of opposite sign have no sum. -/
theorem exactSum_opposite_infinities (rnd : Rnd) : exactSum rnd [.inf false, .inf true] = (.nan false, .invalid) := rfl

theorem minExp_swap (e : Int) (x y : Fv) (l : List Fv) : minExp e (x :: y :: l) = minExp e (y :: x :: l) := by
  cases x with
  | nan | inf => cases y <;> rfl
  | fin _ n a =>
    cases y with
    | nan | inf => rfl
    | fin _ k b =>
      simp only [minExp]
      congr 1
      split <;> split <;> omega

/-- The spacing on which a list is summed does not depend on its order. -/
theorem minExp_perm {l l' : List Fv} (h : l.Perm l') (e : Int) : minExp e l = minExp e l' := by
  induction h generalizing e with
  | nil => rfl
  | cons x _ ih => cases x <;> exact ih _
  | swap x y l => exact minExp_swap e y x l
  | trans _ _ ih ih' => exact (ih e).trans (ih' e)

/-- 03 R62: an exact sum does not depend on the order of its summands. -/
theorem exactSum_perm (rnd : Rnd) {l l' : List Fv} (h : l.Perm l') : exactSum rnd l = exactSum rnd l' := by
  have hsum : ∀ e, (l.map (onGrid e)).foldl (· + ·) 0 = (l'.map (onGrid e)).foldl (· + ·) 0 := fun e =>
    (h.map (onGrid e)).foldl_eq' (fun a _ b _ z => Int.add_right_comm z a b) 0
  simp only [exactSum, h.any_eq, h.all_eq, h.isEmpty_eq, minExp_perm h, hsum]

/-! ## Exact products (03 R58, R65) -/

/-- 03 R65: an exact product does not depend on the order of its factors. -/
theorem exactMul_comm (x y : Fv) : exactMul x y = exactMul y x := by
  cases x <;> cases y <;> simp [exactMul, Bool.or_comm, bne_comm, Nat.mul_comm, Int.add_comm]

/-- A NaN that a product gives is quiet. -/
theorem exactMul_isSig (x y : Fv) : (exactMul x y).1.isSig = false := by
  fun_cases exactMul x y <;> rfl

/-- A NaN factor makes the product a NaN. -/
theorem exactMul_isNan {x y : Fv} (h : x.isNan = true ∨ y.isNan = true) : (exactMul x y).1 = .nan false := by
  simp only [Fv.isNan_iff] at h
  obtain ⟨sig, rfl⟩ | ⟨sig, rfl⟩ := h
  · cases y <;> rfl
  · cases x <;> rfl

/-- 03 R58: a product is invalid when a factor signals, or of an infinity and a zero. -/
theorem exactMul_flags (t : FTy) (x y : Nat) :
    (exactMul (fDecode t x) (fDecode t y)).2 =
      { nv := (fDecode t x).isSig || (fDecode t y).isSig || Claims.infTimesZero t x y } := by
  unfold Claims.infTimesZero
  generalize fDecode t x = u, fDecode t y = v
  fun_cases exactMul u v <;> simp_all [Fv.isSig, FpFlags.invalid]

/-- 03 R58: an infinity times a zero. -/
theorem exactMul_inf_zero (neg neg' : Bool) (e : Int) : exactMul (.inf neg) (.fin neg' 0 e) = (.nan false, .invalid) := rfl

/-! ## NaN results of the operations -/

section
variable {t : FTy} {q x y : Nat} (hq : fNan t = some q) (o : RMode)
include hq

theorem fAdd_of_nan (h : (fDecode t x).isNan = true ∨ (fDecode t y).isNan = true) :
    fAdd t o x y = ⟨q, { nv := (fDecode t x).isSig || (fDecode t y).isSig }⟩ := by
  rw [fAdd, exactSum_of_nan o.rnd (by simpa using h), fFinish_nan hq]
  simp

theorem fSub_of_nan (h : (fDecode t x).isNan = true ∨ (fDecode t y).isNan = true) :
    fSub t o x y = ⟨q, { nv := (fDecode t x).isSig || (fDecode t y).isSig }⟩ := by
  rw [fSub, exactSum_of_nan o.rnd (by simpa using h), fFinish_nan hq]
  simp

/-- A product that is a NaN, of a NaN factor or of an infinity and a zero. -/
theorem fMul_of_nan (h : (exactMul (fDecode t x) (fDecode t y)).1 = .nan false) :
    fMul t o x y = ⟨q, { nv := (fDecode t x).isSig || (fDecode t y).isSig || Claims.infTimesZero t x y }⟩ := by
  rw [fMul, ← exactMul_flags, ← fFinish_nan hq o, ← h]

/-- A fused sum of which the product or the addend is a NaN. -/
theorem fFma_of_nan {z : Nat}
    (h : (exactMul (fDecode t x) (fDecode t y)).1.isNan = true ∨ (fDecode t z).isNan = true) :
    fFma t o x y z = ⟨q, { nv :=
      (fDecode t x).isSig || (fDecode t y).isSig || (fDecode t z).isSig || Claims.infTimesZero t x y }⟩ := by
  rw [fFma, exactSum_of_nan o.rnd (by simpa using h), exactMul_flags, fFinish_nan hq]
  simp [exactMul_isSig, FpFlags.or, Bool.or_right_comm]

end

/-- A NaN factor is no infinity and no zero. -/
theorem infTimesZero_of_nan {t : FTy} {x y : Nat} (h : (fDecode t x).isNan = true ∨ (fDecode t y).isNan = true) :
    Claims.infTimesZero t x y = false := by
  unfold Claims.infTimesZero
  simp only [Fv.isNan_iff] at h
  obtain ⟨sig, hsig⟩ | ⟨sig, hsig⟩ := h
  · rw [hsig]
  · rw [hsig]
    cases fDecode t x <;> rfl

/-- 03 R56, R58, R65; 05 R117. -/
theorem nanRules : Claims.NanRules := by
  intro t o x y q hq
  refine ⟨fun h => ⟨fAdd_of_nan hq o h, fSub_of_nan hq o h, ?_⟩, fun z h => fFma_of_nan hq o ?_, fun hx hy => ?_,
    fun neg neg' e hx hy => ?_⟩
  · rw [fMul_of_nan hq o (exactMul_isNan h), infTimesZero_of_nan h, Bool.or_false]
  · obtain h | h | h := h
    · simp [exactMul_isNan (.inl h), Fv.isNan]
    · simp [exactMul_isNan (.inr h), Fv.isNan]
    · exact .inr h
  · rw [fAdd, hx, hy, exactSum_opposite_infinities, fFinish_nan hq]
    rfl
  · have hmul : exactMul (fDecode t x) (fDecode t y) = (.nan false, .invalid) := by rw [hx, hy, exactMul_inf_zero]
    have hxy : fMul t o x y = ⟨q, { nv := true }⟩ := by
      rw [fMul, hmul, fFinish_nan hq]
      rfl
    have hzero : Claims.infTimesZero t x y = true := by simp [Claims.infTimesZero, hx, hy]
    refine ⟨hxy, ?_, fun z => ?_⟩
    · rw [← hxy, fMul, fMul, exactMul_comm]
    · rw [fFma_of_nan hq o (.inl (by rw [hmul]; rfl)), hzero]
      simp

/-- 03 R62, R65. -/
theorem floatCommutes : Claims.FloatCommutes := by
  intro t o x y z
  refine ⟨?_, ?_, ?_⟩
  · rw [fAdd, fAdd, exactSum_perm _ (.swap _ _ [])]
  · rw [fMul, fMul, exactMul_comm]
  · rw [fFma, fFma, exactMul_comm]

/-! ## Rounding of a value that the format represents (03 R60) -/

/-- An exact magnitude is not rounded up, in any mode and for any draw. -/
theorem roundsUp_exact (m : RMode) (neg : Bool) (whole : Nat) : roundsUp m neg whole 0 false = false := by
  unfold roundsUp
  split <;> simp

/-- A magnitude `n · 2^e` whose spacing in the format is `2^e` itself, and whose pattern is that of a finite value. -/
theorem roundMag_of_spacing {t : FTy} {n : Nat} {e : Int} (m : RMode) (neg : Bool)
    (hu : max ((Nat.log2 n : Int) + e - fFrac t) (fEmin t) = e)
    (hmax : ((e - fEmin t).toNat <<< fFrac t) + n ≤ fMax t) :
    roundMag t m neg (magDyadic n e) = ⟨fSign t neg + (((e - fEmin t).toNat <<< fFrac t) + n), {}⟩ := by
  have hat : (magDyadic n e).at' (e - 16) = (n * 65536, false) := by
    have hsixteen : (e - (e - 16)).toNat = 16 := by omega
    simp only [magDyadic, if_pos (show e - 16 ≤ e by omega), hsixteen, Nat.shiftLeft_eq]
  have hilog : (magDyadic n e).ilog = (Nat.log2 n : Int) + e := rfl
  simp [roundMag, hilog, hu, hat, roundsUp_exact, Nat.not_lt.mpr hmax]

/-- The finite value of a magnitude's bits, below the infinities and NaNs of a format (03 R54). -/
def fMagnitude (t : FTy) (neg : Bool) (mag : Nat) : Fv :=
  if mag >>> fFrac t = 0 then .fin neg (mag % 2 ^ fFrac t) (fEmin t)
  else .fin neg (2 ^ fFrac t + mag % 2 ^ fFrac t) (fEmin t + (mag >>> fFrac t - 1 : Nat))

/-- A pattern of a finite value has the value of its magnitude bits, which are not above the greatest finite ones. -/
theorem fDecode_of_fin {t : FTy} {p m : Nat} {neg : Bool} {e : Int} (h : fDecode t p = .fin neg m e) :
    fDecode t p = fMagnitude t (p.testBit (fWidth t - 1)) (p % 2 ^ (fWidth t - 1)) ∧
      p % 2 ^ (fWidth t - 1) ≤ fMax t := by
  have hlt : p % 2 ^ (fWidth t - 1) < 2 ^ (fWidth t - 1) := Nat.mod_lt _ (Nat.two_pow_pos _)
  cases t with
  | e2m1 => exact ⟨rfl, Nat.le_of_lt_succ hlt⟩
  | e4m3 =>
    simp only [fDecode] at h ⊢
    split at h
    · cases h
    · rename_i hnan
      exact ⟨if_neg hnan, by simp only [fWidth, fMax] at *; omega⟩
  | _ =>
    simp only [fDecode] at h ⊢
    split at h
    · split at h <;> cases h
    · rename_i hspecial
      exact ⟨if_neg hspecial, by simp only [fWidth, fFrac, fMax, Nat.shiftRight_eq_div_pow] at *; omega⟩

/-- A pattern is its sign bit and its magnitude bits. -/
theorem fSign_add_magnitude {t : FTy} {p : Nat} (hp : p < 2 ^ fWidth t) :
    fSign t (p.testBit (fWidth t - 1)) + p % 2 ^ (fWidth t - 1) = p := by
  have hpos : fWidth t = fWidth t - 1 + 1 := by cases t <;> rfl
  generalize fWidth t - 1 = k at hpos
  simp only [fSign, hpos, Nat.add_sub_cancel, Nat.testBit_eq_decide_div_mod_eq]
  rw [hpos, Nat.pow_succ] at hp
  have hdiv := Nat.div_add_mod p (2 ^ k)
  have hlt : p / 2 ^ k < 2 := Nat.div_lt_of_lt_mul (by omega)
  generalize p / 2 ^ k = top at hdiv hlt ⊢
  obtain rfl | rfl : top = 0 ∨ top = 1 := by omega
  · simpa using hdiv
  · simpa using hdiv

/-- A number below the normals stands on the spacing of the subnormals. -/
theorem fRound_subnormal {t : FTy} {fr : Nat} (o : RMode) (neg : Bool) (hfr : fr < 2 ^ fFrac t) (hmax : fr ≤ fMax t) :
    fRound t o (.fin neg fr (fEmin t)) = ⟨fSign t neg + fr, {}⟩ := by
  by_cases hzero : fr = 0
  · simp [fRound, hzero]
  · have hlog : Nat.log2 fr < fFrac t := (Nat.log2_lt hzero).mpr hfr
    rw [fRound, if_neg hzero, roundMag_of_spacing o neg (by omega) (by simpa using hmax)]
    simp

/-- A normal number, whose leading bit is the hidden one, stands on the spacing of its exponent. -/
theorem fRound_normal {t : FTy} {fr k : Nat} (o : RMode) (neg : Bool) (hfr : fr < 2 ^ fFrac t)
    (hmax : k * 2 ^ fFrac t + (2 ^ fFrac t + fr) ≤ fMax t) :
    fRound t o (.fin neg (2 ^ fFrac t + fr) (fEmin t + k)) = ⟨fSign t neg + (k * 2 ^ fFrac t + (2 ^ fFrac t + fr)), {}⟩ := by
  have hnonzero : 2 ^ fFrac t + fr ≠ 0 := by
    have hpos := Nat.two_pow_pos (fFrac t)
    omega
  have hlog : Nat.log2 (2 ^ fFrac t + fr) = fFrac t := by
    rw [Nat.log2_eq_iff hnonzero, Nat.pow_succ]
    omega
  have hpat : (fEmin t + k - fEmin t).toNat <<< fFrac t = k * 2 ^ fFrac t := by
    rw [Int.add_comm, Int.add_sub_cancel, Int.toNat_natCast, Nat.shiftLeft_eq]
  rw [fRound, if_neg hnonzero, roundMag_of_spacing o neg (by omega) (by rwa [hpat]), hpat]

/-- The value of magnitude bits rounds to a pattern of these bits. -/
theorem fRound_fMagnitude {t : FTy} {mag : Nat} (o : RMode) (neg : Bool) (hmax : mag ≤ fMax t) :
    fRound t o (fMagnitude t neg mag) = ⟨fSign t neg + mag, {}⟩ := by
  have hfr : mag % 2 ^ fFrac t < 2 ^ fFrac t := Nat.mod_lt _ (Nat.two_pow_pos _)
  have hsplit : mag / 2 ^ fFrac t * 2 ^ fFrac t + mag % 2 ^ fFrac t = mag := Nat.div_add_mod' ..
  unfold fMagnitude
  rw [Nat.shiftRight_eq_div_pow]
  generalize mag / 2 ^ fFrac t = ex, mag % 2 ^ fFrac t = fr at hfr hsplit ⊢
  subst hsplit
  cases ex with
  | zero =>
    simp only [Nat.zero_mul, Nat.zero_add] at hmax ⊢
    exact fRound_subnormal o neg hfr hmax
  | succ k =>
    rw [Nat.succ_mul, Nat.add_assoc] at hmax ⊢
    exact fRound_normal o neg hfr hmax

/-- 03 R60. -/
theorem representableIsExact : Claims.RepresentableIsExact := by
  rintro t o p ⟨hp, neg, m, e, hfin⟩
  obtain ⟨hval, hmax⟩ := fDecode_of_fin hfin
  rw [hval, fRound_fMagnitude o _ hmax, fSign_add_magnitude hp]

/-- Settles O12: exactness on the spacing of the format, and order-free exact sums and products. -/
theorem floatFormats : Obligations.FloatFormats := ⟨representableIsExact, nanRules, floatCommutes⟩

end Sys2Proof.Machine
end
